-- ==== Sys2Proof/Word.lean ====
section
/-! DEFINITION. The word, the byte and the sparse map the state is made of. -/

namespace Sys2Proof

/-- A scalar register's contents (R163). -/
abbrev Word := BitVec 64

/-- The smallest addressable unit of memory (R2). -/
abbrev Byte := BitVec 8

/-- A vector register's contents (R221). -/
abbrev VWord := BitVec 2048

/-- A finite table: entries keyed by number; a key without an entry stands for a default the reader names. -/
abbrev Map (α : Type) := List (Nat × α)

end Sys2Proof
end

