-- ==== Sys2Proof/Machine/Map.lean ====
section
/-! DEFINITION. Finite tables and the list and bit helpers the machine is written with. -/

namespace Sys2Proof.Machine

/-- The entry of `k`, or the default `d`. -/
def mget {α : Type} (m : Map α) (k : Nat) (d : α) : α :=
  match m with
  | [] => d
  | (j, v) :: t => if j = k then v else mget t k d

/-- The entry of `k`, if there is one. -/
def mfind {α : Type} (m : Map α) (k : Nat) : Option α :=
  match m with
  | [] => none
  | (j, v) :: t => if j = k then some v else mfind t k

/-- Sets the entry of `k`, keeping keys in rising order where they were so. -/
def mset {α : Type} (m : Map α) (k : Nat) (v : α) : Map α :=
  match m with
  | [] => [(k, v)]
  | (j, w) :: t => if j = k then (k, v) :: t else if k < j then (k, v) :: (j, w) :: t else (j, w) :: mset t k v

/-- Removes every entry of `k`. -/
def mdel {α : Type} (m : Map α) (k : Nat) : Map α :=
  match m with
  | [] => []
  | (j, w) :: t => if j = k then mdel t k else (j, w) :: mdel t k

/-- Replaces entry `n` of a list. -/
def lset {α : Type} (l : List α) (n : Nat) (v : α) : List α :=
  match l, n with
  | [], _ => []
  | _ :: t, 0 => v :: t
  | h :: t, k + 1 => h :: lset t k v

/-- Removes entry `n` of a list. -/
def ldel {α : Type} (l : List α) (n : Nat) : List α :=
  match l, n with
  | [], _ => []
  | _ :: t, 0 => t
  | h :: t, k + 1 => h :: ldel t k

/-- A sorted list of numbers as a set: insertion. -/
def nins (l : List Nat) (k : Nat) : List Nat :=
  match l with
  | [] => [k]
  | h :: t => if h = k then h :: t else if k < h then k :: h :: t else h :: nins t k

/-- A list of numbers as a set: removal. -/
def ndel (l : List Nat) (k : Nat) : List Nat := l.filter (fun x => x ≠ k)

/-- The numbers `lo, lo + 1, …, lo + n - 1`. -/
def rangeFrom (lo n : Nat) : List Nat := (List.range n).map (lo + ·)

/-- The sum of a list of numbers. -/
def nsum (l : List Nat) : Nat := l.foldl (· + ·) 0

/-- The least of a list by a measure, the first among equals. -/
def minBy {α : Type} (f : α → Nat) (l : List α) : Option α :=
  match l with
  | [] => none
  | h :: t => some (t.foldl (fun b x => if f x < f b then x else b) h)

/-- The greatest of a list by a measure, the first among equals. -/
def maxBy {α : Type} (f : α → Nat) (l : List α) : Option α :=
  match l with
  | [] => none
  | h :: t => some (t.foldl (fun b x => if f b < f x then x else b) h)

/-- Bits `[hi:lo]` of a word, as a number (R75). -/
def bits {w : Nat} (x : BitVec w) (hi lo : Nat) : Nat := (x.toNat >>> lo) % 2 ^ (hi + 1 - lo)

/-- Bit `i` of a word. -/
def bit {w : Nat} (x : BitVec w) (i : Nat) : Bool := x.getLsbD i

/-- A word with bits `[hi:lo]` replaced by `v`. -/
def putBits {w : Nat} (x : BitVec w) (hi lo v : Nat) : BitVec w :=
  let m : BitVec w := BitVec.ofNat w ((2 ^ (hi + 1 - lo) - 1) <<< lo)
  (x &&& ~~~m) ||| (BitVec.ofNat w (v <<< lo) &&& m)

/-- A word with bit `i` set to `b`. -/
def putBit {w : Nat} (x : BitVec w) (i : Nat) (b : Bool) : BitVec w := putBits x i i (if b then 1 else 0)

/-- The one bit of a truth value. -/
def b2n (b : Bool) : Nat := if b then 1 else 0

/-- The 64-bit word of a number, modulo 2^64. -/
abbrev w64 (n : Nat) : Word := BitVec.ofNat 64 n

/-- Sign extension of an immediate field to 64 bits (R66). -/
abbrev sx {w : Nat} (x : BitVec w) : Word := x.signExtend 64

/-- Sign extension of the low `n` bits of a number (R75). -/
def signExt (x n : Nat) : Word :=
  let y := x % 2 ^ n
  if n ≠ 0 ∧ 2 ^ (n - 1) ≤ y then w64 (y + 2 ^ 64 - 2 ^ n) else w64 y

/-- The `n` little-endian bytes of a number (R2). -/
def toBytes : Nat → Nat → List Byte
  | 0, _ => []
  | n + 1, x => BitVec.ofNat 8 x :: toBytes n (x / 256)

/-- The number of little-endian bytes (R2). -/
def ofBytes : List Byte → Nat
  | [] => 0
  | b :: t => b.toNat + 256 * ofBytes t

/-- Whether every bit of `x` from `lo` up is zero. -/
def zeroFrom {w : Nat} (x : BitVec w) (lo : Nat) : Bool := x.toNat >>> lo == 0

/-- Two byte ranges `[a, a+m)` and `[b, b+n)` share a byte. -/
def rangesMeet (a m b n : Nat) : Bool := a < b + n && b < a + m

end Sys2Proof.Machine
end

