-- ==== Sys2Proof/Machine/Flags.lean ====
section
/-! DEFINITION. Number formats and the one rounding (R85 to R101): exact values, Round, and the sticky flags it sets. -/

namespace Sys2Proof.Machine

/-- The sticky flags of fp.flags (R94). -/
def fNX : Nat := 1
def fUF : Nat := 2
def fOF : Nat := 4
def fDZ : Nat := 8
def fNV : Nat := 16
def fIS : Nat := 32

/-- A value of a floating-point format, exactly: (-1)^neg × m × 2^e. -/
inductive FV where
  | nan
  | inf (neg : Bool)
  | fin (neg : Bool) (m : Nat) (e : Int)
deriving DecidableEq, Repr

/-- An exact result before rounding: (-1)^neg × (p/q) × 2^e, a little more in magnitude when `sticky`. -/
inductive Ex where
  | nan
  | inf (neg : Bool)
  | rat (neg : Bool) (p q : Nat) (e : Int) (sticky : Bool)
deriving DecidableEq, Repr

/-- A format value as an exact result. -/
def FV.ex : FV → Ex
  | .nan => .nan
  | .inf n => .inf n
  | .fin n m e => .rat n m 1 e false

/-- A floating-point format (R86): exponent bits, fraction bits, bias, by the codes of R85. -/
structure FFmt where
  eb : Nat
  fb : Nat
  bias : Nat
  fp8 : Bool := false
deriving DecidableEq, Repr

/-- The floating-point formats by code (R85, R86). -/
def ffmt (code : Nat) : FFmt :=
  match code with
  | 0 => { eb := 8, fb := 23, bias := 127 }
  | 1 => { eb := 8, fb := 7, bias := 127 }
  | 2 => { eb := 5, fb := 10, bias := 15 }
  | _ => { eb := 4, fb := 3, bias := 7, fp8 := true }

/-- FP32. -/
abbrev f32 : FFmt := ffmt 0
/-- BF16. -/
abbrev bf16 : FFmt := ffmt 1

/-- The width of a format in bits. -/
def FFmt.width (f : FFmt) : Nat := 1 + f.eb + f.fb

/-- The value of a pattern (R86, R87). -/
def FFmt.decode (f : FFmt) (x : Nat) : FV :=
  let neg := (x >>> (f.eb + f.fb)) % 2 == 1
  let e := (x >>> f.fb) % 2 ^ f.eb
  let m := x % 2 ^ f.fb
  let top := 2 ^ f.eb - 1
  if e = top ∧ f.fp8 = false then (if m = 0 then .inf neg else .nan)
  else if e = top ∧ m = 2 ^ f.fb - 1 then .nan
  else if e = 0 then .fin neg m (1 - f.bias - f.fb)
  else .fin neg (2 ^ f.fb + m) ((e : Int) - f.bias - f.fb)

/-- The canonical NaN (R88). -/
def FFmt.nan (f : FFmt) : Nat :=
  if f.fp8 then 0x7F else (2 ^ f.eb - 1) * 2 ^ f.fb + 2 ^ (f.fb - 1)

/-- The pattern of the largest finite value (R86). -/
def FFmt.maxPat (f : FFmt) : Nat := if f.fp8 then 0x7E else (2 ^ f.eb - 1) * 2 ^ f.fb - 1

/-- A sign in front of a pattern. -/
def FFmt.signed (f : FFmt) (neg : Bool) (x : Nat) : Nat := if neg then x + 2 ^ (f.eb + f.fb) else x

/-- Overflow (R97): the pattern delivered. -/
def FFmt.overflow (f : FFmt) (rm : Nat) (sat neg : Bool) : Nat :=
  let toMax := sat || rm == 1 || (rm == 2 && neg) || (rm == 3 && !neg)
  if toMax then f.signed neg f.maxPat
  else if f.fp8 then f.nan
  else f.signed neg ((2 ^ f.eb - 1) * 2 ^ f.fb)

/-- Floor of log2 of p/q, for positive p and q. -/
def ratLog (p q : Nat) : Int :=
  let d : Int := (Nat.log2 p : Int) - Nat.log2 q
  if 0 ≤ d then (if q * 2 ^ d.toNat ≤ p then d else d - 1)
  else (if q ≤ p * 2 ^ (-d).toNat then d else d - 1)

/-- Rounds (p/q) × 2^k, a little more when `sticky`, to an integer under RM for a sign: the integer and whether exact. -/
def roundInt (rm : Nat) (neg : Bool) (p q : Nat) (k : Int) (sticky : Bool) : Nat × Bool :=
  let num := if 0 ≤ k then p * 2 ^ k.toNat else p
  let den := if 0 ≤ k then q else q * 2 ^ (-k).toNat
  let n := num / den
  let r := num % den
  let exact := r == 0 && !sticky
  let up := !exact && (match rm with
    | 0 => den < 2 * r || (2 * r == den && (sticky || n % 2 == 1))
    | 1 => false
    | 2 => !neg
    | _ => neg)
  (if up then n + 1 else n, exact)

/-- Round to a floating-point format (R96, R97): the pattern and the flags set. -/
def FFmt.round (f : FFmt) (rm : Nat) (sat : Bool) (x : Ex) : Nat × Nat :=
  match x with
  | .nan => (f.nan, 0)
  | .inf neg =>
    if f.fp8 then (if sat then f.signed neg f.maxPat else f.nan, fOF)
    else (f.signed neg ((2 ^ f.eb - 1) * 2 ^ f.fb), 0)
  | .rat neg p q e sticky =>
    if p = 0 then (f.signed neg 0, 0) else
    let lg := ratLog p q + e
    let emin : Int := 1 - f.bias
    let ue : Int := (if lg < emin then emin else lg) - f.fb
    let (n, exact) := roundInt rm neg p q (e - ue) sticky
    -- a carry to the next power of two keeps the pattern arithmetic right: the exponent field absorbs it
    let pat : Nat := if lg < emin then n else (lg + f.bias).toNat * 2 ^ f.fb + n - 2 ^ f.fb
    if f.maxPat < pat then (f.overflow rm sat neg, fOF + fNX)
    else if exact then (f.signed neg pat, 0)
    else (f.signed neg pat, if pat < 2 ^ f.fb then fNX + fUF else fNX)

/-- RoundNE (R96). -/
def FFmt.roundNE (f : FFmt) (x : Ex) : Nat × Nat := f.round 0 false x

/-- An integer format: width and signedness, by the codes of R85. -/
structure IFmt where
  w : Nat
  sgn : Bool
deriving DecidableEq, Repr

/-- The integer formats by code (R85, R90). -/
def ifmt (code : Nat) : IFmt :=
  match code with
  | 4 => { w := 32, sgn := true }
  | 5 => { w := 16, sgn := true }
  | 6 => { w := 8, sgn := true }
  | 8 => { w := 4, sgn := true }
  | _ => { w := 8, sgn := false }

/-- The least value. -/
def IFmt.lo (f : IFmt) : Int := if f.sgn then -(2 ^ (f.w - 1) : Nat) else 0
/-- The greatest value. -/
def IFmt.hi (f : IFmt) : Int := if f.sgn then (2 ^ (f.w - 1) : Nat) - 1 else (2 ^ f.w : Nat) - 1
/-- The value of a pattern (R90). -/
def IFmt.decode (f : IFmt) (x : Nat) : Int :=
  let x := x % 2 ^ f.w
  if f.sgn ∧ 2 ^ (f.w - 1) ≤ x then (x : Int) - (2 ^ f.w : Nat) else x
/-- The pattern of a value modulo 2^w. -/
def IFmt.encode (f : IFmt) (v : Int) : Nat := (v % ((2 ^ f.w : Nat) : Int)).toNat
/-- The value clamped to the range, and whether it was. -/
def IFmt.clamp (f : IFmt) (v : Int) : Int × Bool :=
  if v < f.lo then (f.lo, true) else if f.hi < v then (f.hi, true) else (v, false)

/-- Round to an integer format (R96): the value and the flags set. -/
def IFmt.round (f : IFmt) (rm : Nat) (x : Ex) : Int × Nat :=
  match x with
  | .nan => (0, fNV)
  | .inf neg => (if neg then f.lo else f.hi, fNV)
  | .rat neg p q e sticky =>
    let (n, exact) := if p = 0 then (0, true) else roundInt rm neg p q e sticky
    let v : Int := if neg then -(n : Int) else n
    let (c, out) := f.clamp v
    if out then (c, fNV) else (v, if exact then 0 else fNX)

/-! ### Exact arithmetic -/

/-- The sign of an exact zero that is not all zeros of one sign (R101). -/
def zeroNeg (rm : Nat) : Bool := rm == 3

/-- The sign of a value. -/
def FV.neg? : FV → Bool
  | .nan => false
  | .inf n => n
  | .fin n _ _ => n

/-- A value with its sign changed. -/
def FV.negate : FV → FV
  | .nan => .nan
  | .inf n => .inf (!n)
  | .fin n m e => .fin (!n) m e

/-- A zero. -/
def FV.isZero : FV → Bool
  | .fin _ 0 _ => true
  | _ => false

/-- The exact product and whether it made a NaN from other operands (R88, R101). -/
def fvMul (a b : FV) : FV × Nat :=
  match a, b with
  | .nan, _ => (.nan, 0)
  | _, .nan => (.nan, 0)
  | .inf n, y => if y.isZero then (.nan, fNV) else (.inf (n != y.neg?), 0)
  | x, .inf n => if x.isZero then (.nan, fNV) else (.inf (n != x.neg?), 0)
  | .fin n m e, .fin n' m' e' => (.fin (n != n') (m * m') (e + e'), 0)

/-- The exact sum with the zero sign of R101 and whether it made a NaN. -/
def fvAdd (rm : Nat) (a b : FV) : FV × Nat :=
  match a, b with
  | .nan, _ => (.nan, 0)
  | _, .nan => (.nan, 0)
  | .inf n, .inf n' => if n = n' then (.inf n, 0) else (.nan, fNV)
  | .inf n, _ => (.inf n, 0)
  | _, .inf n => (.inf n, 0)
  | .fin n m e, .fin n' m' e' =>
    if m = 0 ∧ m' = 0 ∧ n = n' then (.fin n 0 0, 0) else
    let lo := min e e'
    let x : Int := (m * 2 ^ (e - lo).toNat : Nat)
    let y : Int := (m' * 2 ^ (e' - lo).toNat : Nat)
    let v := (if n then -x else x) + (if n' then -y else y)
    if v = 0 then (.fin (zeroNeg rm) 0 0, 0) else (.fin (v < 0) v.natAbs lo, 0)

/-- The exact quotient with the special results of R199. -/
def fvDiv (a b : FV) : Ex × Nat :=
  match a, b with
  | .nan, _ => (.nan, 0)
  | _, .nan => (.nan, 0)
  | .inf n, .inf _ => (.nan, if n then fNV else fNV)
  | .inf n, y => (.inf (n != y.neg?), 0)
  | x, .inf n => (.rat (n != x.neg?) 0 1 0 false, 0)
  | .fin n m e, .fin n' m' e' =>
    if m' = 0 then (if m = 0 then (.nan, fNV) else (.inf (n != n'), fDZ))
    else (.rat (n != n') m m' (e - e') false, 0)

/-- Floor of the square root, bit by bit from bit `b - 1` down. -/
def isqrtFrom (n r : Nat) : Nat → Nat
  | 0 => r
  | b + 1 => let t := r + 2 ^ b; if t * t ≤ n then isqrtFrom n t b else isqrtFrom n r b

/-- Floor of the square root. -/
def isqrt (n : Nat) : Nat := isqrtFrom n 0 (Nat.log2 n / 2 + 1)

/-- The exact square root with the special results of R199. -/
def fvSqrt (a : FV) : Ex × Nat :=
  match a with
  | .nan => (.nan, 0)
  | .inf n => if n then (.nan, fNV) else (.inf false, 0)
  | .fin n m e =>
    if m = 0 then (.rat n 0 1 0 false, 0)
    else if n then (.nan, fNV)
    else
      let (m, e) := if e % 2 = 0 then (m, e) else (2 * m, e - 1)
      let x := m * 2 ^ 128
      let r := isqrt x
      (.rat false r 1 (e / 2 - 64) (r * r != x), 0)

/-- The exact reciprocal square root of a positive finite value. -/
def fvRsqrtPos (m : Nat) (e : Int) : Ex :=
  let (m, e) := if e % 2 = 0 then (m, e) else (2 * m, e - 1)
  let r := isqrt (2 ^ 256 / m)
  .rat false r 1 (-(e / 2) - 128) (r * r * m != 2 ^ 256)

/-- Whether x < y, for values that are not NaN. -/
def fvLt (a b : FV) : Bool :=
  match a, b with
  | .nan, _ => false
  | _, .nan => false
  | .inf n, .inf n' => n && !n'
  | .inf n, .fin _ _ _ => n
  | .fin _ _ _, .inf n' => !n'
  | .fin n m e, .fin n' m' e' =>
    let lo := min e e'
    let x : Int := (m * 2 ^ (e - lo).toNat : Nat)
    let y : Int := (m' * 2 ^ (e' - lo).toNat : Nat)
    decide ((if n then -x else x) < (if n' then -y else y))

/-- Whether x = y, for values that are not NaN; zeros of both signs are equal. -/
def fvEq (a b : FV) : Bool := a != .nan && b != .nan && !fvLt a b && !fvLt b a

/-- A signed integer as an exact value. -/
def intEx (v : Int) : Ex := .rat (decide (v < 0)) v.natAbs 1 0 false

/-- The rounding fields of fmt.cfg (R93). -/
def fmtRm (f : Word) : Nat := bits f 1 0
/-- fmt.cfg.SAT. -/
def fmtSat (f : Word) : Bool := bit f 2
/-- fmt.cfg.ISAT. -/
def fmtIsat (f : Word) : Bool := bit f 3

end Sys2Proof.Machine
end

