-- ==== Sys2Proof/Syntax.lean ====
section
/-! DEFINITION. The syntax of the N72: one constructor of `Instr` per row of the opcode table. The first 246 are the
encoded instructions (R63 to R71); their arguments are the encoded fields, named by the table's letters and given from
the highest bit down. The others are the device's own steps, which have no encoding and no arguments here: the state's
operand record (State.arg, filled from the agenda) says which unit, context, queue place or register the step acts
on. Constructors without arguments stand last, as Lean's compiler bounds the number of those with arguments. -/

namespace Sys2Proof

/-- The instructions and device steps of the N72, one constructor per row of the opcode table. -/
inductive Instr where
  /-- ADD (R194) Writes the sum of ra and rb modulo 2^64 to rd. -/
  | add (d a b : BitVec 5) (p q : BitVec 2)
  /-- SUB (R194) Writes ra minus rb modulo 2^64 to rd. -/
  | sub (d a b : BitVec 5) (p q : BitVec 2)
  /-- AND (R194) Writes the bitwise and of ra and rb to rd. -/
  | and (d a b : BitVec 5) (p q : BitVec 2)
  /-- OR (R194) Writes the bitwise or of ra and rb to rd. -/
  | or (d a b : BitVec 5) (p q : BitVec 2)
  /-- XOR (R194) Writes the bitwise exclusive-or of ra and rb to rd. -/
  | xor (d a b : BitVec 5) (p q : BitVec 2)
  /-- ANDN (R194) Writes ra and not rb to rd. -/
  | andn (d a b : BitVec 5) (p q : BitVec 2)
  /-- SLL (R194) Shifts ra left by rb[5:0]. -/
  | sll (d a b : BitVec 5) (p q : BitVec 2)
  /-- SRL (R194) Shifts ra right logically by rb[5:0]. -/
  | srl (d a b : BitVec 5) (p q : BitVec 2)
  /-- SRA (R194) Shifts ra right arithmetically by rb[5:0]. -/
  | sra (d a b : BitVec 5) (p q : BitVec 2)
  /-- MUL (R194) Writes the low 64 bits of the product. -/
  | mul (d a b : BitVec 5) (p q : BitVec 2)
  /-- MULH (R194) Writes the high 64 bits of the signed product. -/
  | mulh (d a b : BitVec 5) (p q : BitVec 2)
  /-- MULHU (R194) Writes the high 64 bits of the unsigned product. -/
  | mulhu (d a b : BitVec 5) (p q : BitVec 2)
  /-- DIV (R195) Writes the signed quotient with the special cases of R195. -/
  | div (d a b : BitVec 5) (p q : BitVec 2)
  /-- DIVU (R195) Writes the unsigned quotient with the special cases of R195. -/
  | divu (d a b : BitVec 5) (p q : BitVec 2)
  /-- REM (R195) Writes the signed remainder with the special cases of R195. -/
  | rem (d a b : BitVec 5) (p q : BitVec 2)
  /-- REMU (R195) Writes the unsigned remainder with the special cases of R195. -/
  | remu (d a b : BitVec 5) (p q : BitVec 2)
  /-- SLT (R194) Writes 1 if ra is less than rb signed, else 0. -/
  | slt (d a b : BitVec 5) (p q : BitVec 2)
  /-- SLTU (R194) Writes 1 if ra is less than rb unsigned, else 0. -/
  | sltu (d a b : BitVec 5) (p q : BitVec 2)
  /-- MIN (R194) Writes the signed minimum. -/
  | min (d a b : BitVec 5) (p q : BitVec 2)
  /-- MAX (R194) Writes the signed maximum. -/
  | max (d a b : BitVec 5) (p q : BitVec 2)
  /-- MINU (R194) Writes the unsigned minimum. -/
  | minu (d a b : BitVec 5) (p q : BitVec 2)
  /-- MAXU (R194) Writes the unsigned maximum. -/
  | maxu (d a b : BitVec 5) (p q : BitVec 2)
  /-- CLZ (R194) Writes the count of leading zero bits of ra. -/
  | clz (d a : BitVec 5) (p q : BitVec 2)
  /-- CTZ (R194) Writes the count of trailing zero bits of ra. -/
  | ctz (d a : BitVec 5) (p q : BitVec 2)
  /-- POPC (R194) Writes the count of one bits of ra. -/
  | popc (d a : BitVec 5) (p q : BitVec 2)
  /-- ADDI (R196) Adds the sign-extended immediate to ra. -/
  | addi (d a : BitVec 5) (i : BitVec 14)
  /-- ANDI (R196) Ands ra with the sign-extended immediate. -/
  | andi (d a : BitVec 5) (i : BitVec 14)
  /-- ORI (R196) Ors ra with the sign-extended immediate. -/
  | ori (d a : BitVec 5) (i : BitVec 14)
  /-- XORI (R196) Exclusive-ors ra with the sign-extended immediate. -/
  | xori (d a : BitVec 5) (i : BitVec 14)
  /-- SLLI (R196) Shifts ra left by the immediate amount. -/
  | slli (d a : BitVec 5) (i : BitVec 6)
  /-- SRLI (R196) Shifts ra right logically by the immediate amount. -/
  | srli (d a : BitVec 5) (i : BitVec 6)
  /-- SRAI (R196) Shifts ra right arithmetically by the immediate amount. -/
  | srai (d a : BitVec 5) (i : BitVec 6)
  /-- SLTI (R196) Writes 1 if ra is less than the immediate signed. -/
  | slti (d a : BitVec 5) (i : BitVec 14)
  /-- SLTIU (R196) Writes 1 if ra is less than the sign-extended immediate unsigned. -/
  | sltiu (d a : BitVec 5) (i : BitVec 14)
  /-- LUI (R197) Writes the sign-extended imm19 shifted left by 14. -/
  | lui (d : BitVec 5) (i : BitVec 19)
  /-- AUIPC (R197) Writes PC plus the sign-extended imm19 shifted left by 14. -/
  | auipc (d : BitVec 5) (i : BitVec 19)
  /-- LEA (R198) Writes ra plus the optionally zero-extended index shifted by SH. -/
  | lea (d a b : BitVec 5) (z : BitVec 1) (s : BitVec 3)
  /-- FADD (R199) FP32 addition rounded under fmt.cfg. -/
  | fadd (d a b : BitVec 5) (p q : BitVec 2)
  /-- FSUB (R199) FP32 subtraction rounded under fmt.cfg. -/
  | fsub (d a b : BitVec 5) (p q : BitVec 2)
  /-- FMUL (R199) FP32 multiplication rounded under fmt.cfg. -/
  | fmul (d a b : BitVec 5) (p q : BitVec 2)
  /-- FDIV (R199) FP32 division with its special results. -/
  | fdiv (d a b : BitVec 5) (p q : BitVec 2)
  /-- FSQRT (R199) FP32 square root with its special results. -/
  | fsqrt (d a : BitVec 5) (p q : BitVec 2)
  /-- FMIN (R199) FP32 minimum, -0 below +0, NaN canonical. -/
  | fmin (d a b : BitVec 5) (p q : BitVec 2)
  /-- FMAX (R199) FP32 maximum, +0 above -0, NaN canonical. -/
  | fmax (d a b : BitVec 5) (p q : BitVec 2)
  /-- FEQ (R199) Writes 1 if the FP32 operands are equal. -/
  | feq (d a b : BitVec 5) (p q : BitVec 2)
  /-- FLT (R199) Writes 1 if the first FP32 operand is less. -/
  | flt (d a b : BitVec 5) (p q : BitVec 2)
  /-- FLE (R199) Writes 1 if the first FP32 operand is less or equal. -/
  | fle (d a b : BitVec 5) (p q : BitVec 2)
  /-- FCVTIF (R199) Converts a signed 64-bit integer to FP32. -/
  | fcvtif (d a : BitVec 5) (p q : BitVec 2)
  /-- FCVTFI (R199) Converts FP32 to INT32, sign-extended. -/
  | fcvtfi (d a : BitVec 5) (p q : BitVec 2)
  /-- FCLASS (R200) Writes the one-hot class mask of an FP32 value. -/
  | fclass (d a : BitVec 5) (p q : BitVec 2)
  /-- RAND (R201) Draws a raw 64-bit value from the counter-based generator. -/
  | rand (d : BitVec 5)
  /-- RAND_F32 (R201) Draws an FP32 value in [0,1) from the generator. -/
  | randF32 (d : BitVec 5)
  /-- RAND_BND (R201) Draws a value below rb from the generator. -/
  | randBnd (d b : BitVec 5)
  /-- BEQ (R202) Branches when ra equals rb. -/
  | beq (a b : BitVec 5) (o : BitVec 14)
  /-- BNE (R202) Branches when ra differs from rb. -/
  | bne (a b : BitVec 5) (o : BitVec 14)
  /-- BLT (R202) Branches when ra is less than rb signed. -/
  | blt (a b : BitVec 5) (o : BitVec 14)
  /-- BGE (R202) Branches when ra is at least rb signed. -/
  | bge (a b : BitVec 5) (o : BitVec 14)
  /-- BLTU (R202) Branches when ra is less than rb unsigned. -/
  | bltu (a b : BitVec 5) (o : BitVec 14)
  /-- BGEU (R202) Branches when ra is at least rb unsigned. -/
  | bgeu (a b : BitVec 5) (o : BitVec 14)
  /-- JAL (R203) Writes PC+4 to s7 and jumps PC-relative. -/
  | jal (o : BitVec 24)
  /-- JALR (R203) Writes PC+4 to rd and jumps to ra plus the immediate. -/
  | jalr (d a : BitVec 5) (i : BitVec 14)
  /-- CALLW (R204) Opens a new register window and jumps PC-relative. -/
  | callw (o : BitVec 24)
  /-- CALLWR (R204) Opens a new register window and jumps to ra plus the immediate. -/
  | callwr (a : BitVec 5) (i : BitVec 14)
  /-- LD8 (R208) Loads a sign-extended byte. -/
  | ld8 (d a : BitVec 5) (c e : BitVec 2) (o : BitVec 10)
  /-- LD8U (R208) Loads a zero-extended byte. -/
  | ld8u (d a : BitVec 5) (c e : BitVec 2) (o : BitVec 10)
  /-- LD16 (R208) Loads a sign-extended halfword. -/
  | ld16 (d a : BitVec 5) (c e : BitVec 2) (o : BitVec 10)
  /-- LD16U (R208) Loads a zero-extended halfword. -/
  | ld16u (d a : BitVec 5) (c e : BitVec 2) (o : BitVec 10)
  /-- LD32 (R208) Loads a sign-extended word. -/
  | ld32 (d a : BitVec 5) (c e : BitVec 2) (o : BitVec 10)
  /-- LD32U (R208) Loads a zero-extended word. -/
  | ld32u (d a : BitVec 5) (c e : BitVec 2) (o : BitVec 10)
  /-- LD64 (R208) Loads a doubleword. -/
  | ld64 (d a : BitVec 5) (c e : BitVec 2) (o : BitVec 10)
  /-- ST8 (R209) Checks and enters a byte store into the store buffer. -/
  | st8 (d a : BitVec 5) (c e : BitVec 2) (o : BitVec 10)
  /-- ST16 (R209) Checks and enters a halfword store into the store buffer. -/
  | st16 (d a : BitVec 5) (c e : BitVec 2) (o : BitVec 10)
  /-- ST32 (R209) Checks and enters a word store into the store buffer. -/
  | st32 (d a : BitVec 5) (c e : BitVec 2) (o : BitVec 10)
  /-- ST64 (R209) Checks and enters a doubleword store into the store buffer. -/
  | st64 (d a : BitVec 5) (c e : BitVec 2) (o : BitVec 10)
  /-- LDQ (R212) Reserves a load-data queue entry and starts an 8-byte load into it. -/
  | ldq (p : BitVec 3) (a : BitVec 5) (o : BitVec 10)
  /-- LDFE (R213) Waits for full, reads the word and sets it empty atomically. -/
  | ldfe (d a : BitVec 5) (c e : BitVec 2) (o : BitVec 10)
  /-- LDFF (R213) Waits for full and reads the word. -/
  | ldff (d a : BitVec 5) (c e : BitVec 2) (o : BitVec 10)
  /-- STEF (R213) Waits for empty, writes the word and sets it full. -/
  | stef (d a : BitVec 5) (c e : BitVec 2) (o : BitVec 10)
  /-- STFF (R213) Buffered store that writes the word and sets it full. -/
  | stff (d a : BitVec 5) (c e : BitVec 2) (o : BitVec 10)
  /-- AMOADD (R216) Atomic add at the home of the word, returning the old value. -/
  | amoadd (d a b : BitVec 5) (c e : BitVec 2) (w : BitVec 1)
  /-- AMOAND (R216) Atomic and, returning the old value. -/
  | amoand (d a b : BitVec 5) (c e : BitVec 2) (w : BitVec 1)
  /-- AMOOR (R216) Atomic or, returning the old value. -/
  | amoor (d a b : BitVec 5) (c e : BitVec 2) (w : BitVec 1)
  /-- AMOXOR (R216) Atomic exclusive-or, returning the old value. -/
  | amoxor (d a b : BitVec 5) (c e : BitVec 2) (w : BitVec 1)
  /-- AMOMIN (R216) Atomic signed minimum, returning the old value. -/
  | amomin (d a b : BitVec 5) (c e : BitVec 2) (w : BitVec 1)
  /-- AMOMAX (R216) Atomic signed maximum, returning the old value. -/
  | amomax (d a b : BitVec 5) (c e : BitVec 2) (w : BitVec 1)
  /-- AMOMINU (R216) Atomic unsigned minimum, returning the old value. -/
  | amominu (d a b : BitVec 5) (c e : BitVec 2) (w : BitVec 1)
  /-- AMOMAXU (R216) Atomic unsigned maximum, returning the old value. -/
  | amomaxu (d a b : BitVec 5) (c e : BitVec 2) (w : BitVec 1)
  /-- AMOSWAP (R216) Atomic swap, returning the old value. -/
  | amoswap (d a b : BitVec 5) (c e : BitVec 2) (w : BitVec 1)
  /-- AMOCAS (R216) Atomic compare-and-swap against rd, returning the old value. -/
  | amocas (d a b : BitVec 5) (c e : BitVec 2) (w : BitVec 1)
  /-- AMOFADD32 (R216) Atomic FP32 add rounded to nearest even. -/
  | amofadd32 (d a b : BitVec 5) (c e : BitVec 2)
  /-- AMOBFADD2 (R216) Atomic add of two BF16 halves. -/
  | amobfadd2 (d a b : BitVec 5) (c e : BitVec 2)
  /-- FENCE (R218) Holds issue until the selected ordering conditions hold at the scope. -/
  | fence (g : BitVec 4) (x : BitVec 1) (c : BitVec 2)
  /-- CSRR (R175) Reads a control register into rd. -/
  | csrr (d : BitVec 5) (n : BitVec 14)
  /-- CSRW (R175) Writes the RW and W1C fields of a control register from ra. -/
  | csrw (a : BitVec 5) (n : BitVec 14)
  /-- QBIND_UN (R173) Unbinds a queue port. -/
  | qbindUn (p : BitVec 3)
  /-- QBIND_LD (R173) Binds a port to the context's load-data queue. -/
  | qbindLd (p : BitVec 3)
  /-- QBIND_TX (R173) Binds a port to a network send direction. -/
  | qbindTx (p : BitVec 3) (e : BitVec 2)
  /-- QBIND_RX (R173) Binds a port to a network receive direction. -/
  | qbindRx (p : BitVec 3) (e : BitVec 2)
  /-- QBIND_RR (R173) Binds a port to a ready ring of the unit. -/
  | qbindRr (p : BitVec 3) (a : BitVec 5)
  /-- QSTAT (R173) Returns the kind, direction and occupancy of a queue port. -/
  | qstat (d : BitVec 5) (p : BitVec 3)
  /-- VADD (R229) Element-wise add of active elements, rounded once. -/
  | vadd (d a b : BitVec 5) (k : BitVec 3) (g : BitVec 2) (s : BitVec 1) (t : BitVec 3)
  /-- VSUB (R229) Element-wise subtract. -/
  | vsub (d a b : BitVec 5) (k : BitVec 3) (g : BitVec 2) (s : BitVec 1) (t : BitVec 3)
  /-- VMUL (R229) Element-wise multiply. -/
  | vmul (d a b : BitVec 5) (k : BitVec 3) (g : BitVec 2) (s : BitVec 1) (t : BitVec 3)
  /-- VFMA (R229) Element-wise fused multiply-add into vd. -/
  | vfma (d a b : BitVec 5) (k : BitVec 3) (g : BitVec 2) (s : BitVec 1) (t : BitVec 3)
  /-- VFMS (R229) Element-wise fused vd minus product. -/
  | vfms (d a b : BitVec 5) (k : BitVec 3) (g : BitVec 2) (s : BitVec 1) (t : BitVec 3)
  /-- VMIN (R231) Element-wise minimum. -/
  | vmin (d a b : BitVec 5) (k : BitVec 3) (g : BitVec 2) (s : BitVec 1) (t : BitVec 3)
  /-- VMAX (R231) Element-wise maximum. -/
  | vmax (d a b : BitVec 5) (k : BitVec 3) (g : BitVec 2) (s : BitVec 1) (t : BitVec 3)
  /-- VDIV (R229) Element-wise floating division. -/
  | vdiv (d a b : BitVec 5) (k : BitVec 3) (g : BitVec 2) (s : BitVec 1) (t : BitVec 3)
  /-- VABS (R231) Element-wise absolute value. -/
  | vabs (d a : BitVec 5) (k : BitVec 3) (g : BitVec 2) (t : BitVec 3)
  /-- VNEG (R231) Element-wise negation. -/
  | vneg (d a : BitVec 5) (k : BitVec 3) (g : BitVec 2) (t : BitVec 3)
  /-- VSQRT (R232) Correctly rounded element-wise square root. -/
  | vsqrt (d a : BitVec 5) (k : BitVec 3) (g : BitVec 2) (t : BitVec 3)
  /-- VRSQRT (R232) Correctly rounded reciprocal square root. -/
  | vrsqrt (d a : BitVec 5) (k : BitVec 3) (g : BitVec 2) (t : BitVec 3)
  /-- VRCP (R232) Correctly rounded reciprocal. -/
  | vrcp (d a : BitVec 5) (k : BitVec 3) (g : BitVec 2) (t : BitVec 3)
  /-- VEXP2 (R232) Correctly rounded base-2 exponential. -/
  | vexp2 (d a : BitVec 5) (k : BitVec 3) (g : BitVec 2) (t : BitVec 3)
  /-- VLOG2 (R232) Correctly rounded base-2 logarithm. -/
  | vlog2 (d a : BitVec 5) (k : BitVec 3) (g : BitVec 2) (t : BitVec 3)
  /-- VTANH (R232) Correctly rounded hyperbolic tangent. -/
  | vtanh (d a : BitVec 5) (k : BitVec 3) (g : BitVec 2) (t : BitVec 3)
  /-- VAND (R233) Element-wise bitwise and. -/
  | vand (d a b : BitVec 5) (k : BitVec 3) (g : BitVec 2) (s : BitVec 1) (t : BitVec 3)
  /-- VOR (R233) Element-wise bitwise or. -/
  | vor (d a b : BitVec 5) (k : BitVec 3) (g : BitVec 2) (s : BitVec 1) (t : BitVec 3)
  /-- VXOR (R233) Element-wise bitwise exclusive-or. -/
  | vxor (d a b : BitVec 5) (k : BitVec 3) (g : BitVec 2) (s : BitVec 1) (t : BitVec 3)
  /-- VSHL (R233) Element-wise shift left. -/
  | vshl (d a b : BitVec 5) (k : BitVec 3) (g : BitVec 2) (s : BitVec 1) (t : BitVec 3)
  /-- VSHR (R233) Element-wise logical shift right. -/
  | vshr (d a b : BitVec 5) (k : BitVec 3) (g : BitVec 2) (s : BitVec 1) (t : BitVec 3)
  /-- VSRA (R233) Element-wise arithmetic shift right. -/
  | vsra (d a b : BitVec 5) (k : BitVec 3) (g : BitVec 2) (s : BitVec 1) (t : BitVec 3)
  /-- VCMPEQ (R234) Writes a mask of equal elements. -/
  | vcmpeq (m : BitVec 3) (a b : BitVec 5) (k : BitVec 3) (g : BitVec 2) (s : BitVec 1) (t : BitVec 3)
  /-- VCMPLT (R234) Writes a mask of less-than elements. -/
  | vcmplt (m : BitVec 3) (a b : BitVec 5) (k : BitVec 3) (g : BitVec 2) (s : BitVec 1) (t : BitVec 3)
  /-- VCMPLE (R234) Writes a mask of less-or-equal elements. -/
  | vcmple (m : BitVec 3) (a b : BitVec 5) (k : BitVec 3) (g : BitVec 2) (s : BitVec 1) (t : BitVec 3)
  /-- VCVT (R235) Converts active elements from the source type to ty. -/
  | vcvt (d a : BitVec 5) (u k : BitVec 3) (g : BitVec 2) (t : BitVec 3)
  /-- VSEL (R236) Selects each element from va or vb by the mask. -/
  | vsel (d a b : BitVec 5) (k : BitVec 3) (g : BitVec 2) (s : BitVec 1) (t : BitVec 3)
  /-- VREDSUM (R239) Reduces the group to a sum by the fixed tree, returned to a scalar register. -/
  | vredsum (d a : BitVec 5) (k : BitVec 3) (g : BitVec 2) (t : BitVec 3)
  /-- VREDMAX (R239) Reduces the group to its maximum. -/
  | vredmax (d a : BitVec 5) (k : BitVec 3) (g : BitVec 2) (t : BitVec 3)
  /-- VREDMIN (R239) Reduces the group to its minimum. -/
  | vredmin (d a : BitVec 5) (k : BitVec 3) (g : BitVec 2) (t : BitVec 3)
  /-- VARGMAX (R239) Returns the lowest index of the largest active element. -/
  | vargmax (d a : BitVec 5) (k : BitVec 3) (g : BitVec 2) (t : BitVec 3)
  /-- VPERM (R237) Permutes elements of va by indices. -/
  | vperm (d a b : BitVec 5) (k : BitVec 3) (g : BitVec 2) (s : BitVec 1) (t : BitVec 3)
  /-- VSLIDEU (R237) Slides elements up by imm6. -/
  | vslideu (d a : BitVec 5) (k : BitVec 3) (g : BitVec 2) (t : BitVec 3) (i : BitVec 6)
  /-- VSLIDED (R237) Slides elements down by imm6. -/
  | vslided (d a : BitVec 5) (k : BitVec 3) (g : BitVec 2) (t : BitVec 3) (i : BitVec 6)
  /-- VBCAST (R237) Broadcasts element imm6 of va. -/
  | vbcast (d a : BitVec 5) (k : BitVec 3) (g : BitVec 2) (t : BitVec 3) (i : BitVec 6)
  /-- VIOTA (R237) Writes the prefix count of mask bits to each element. -/
  | viota (d : BitVec 5) (a k : BitVec 3) (g : BitVec 2) (t : BitVec 3)
  /-- VMV (R237) Copies va to vd. -/
  | vmv (d a : BitVec 5) (k : BitVec 3) (g : BitVec 2) (t : BitVec 3)
  /-- VMV_SCALAR (R237) Broadcasts a scalar register to vd. -/
  | vmvScalar (d b : BitVec 5) (k : BitVec 3) (g : BitVec 2) (t : BitVec 3)
  /-- VTOPK (R240) Selects the c largest active elements with their indices. -/
  | vtopk (d a b : BitVec 5) (k : BitVec 3) (g : BitVec 2) (t : BitVec 3)
  /-- VMFA (R241) Copies an accumulator into a group of four vector registers. -/
  | vmfa (d : BitVec 5) (a k t : BitVec 3)
  /-- VMTA (R241) Writes an accumulator from a group of four vector registers. -/
  | vmta (d : BitVec 3) (a : BitVec 5) (k t : BitVec 3)
  /-- VEXT (R238) Extracts one register from a register pair at an offset. -/
  | vext (d a : BitVec 5) (k t : BitVec 3) (i : BitVec 6)
  /-- VLD (R242) Loads contiguous elements. -/
  | vld (d a b : BitVec 5) (k : BitVec 3) (g : BitVec 2) (t : BitVec 3)
  /-- VST (R242) Stores contiguous elements through the store buffer. -/
  | vst (d a b : BitVec 5) (k : BitVec 3) (g : BitVec 2) (x : BitVec 1) (t : BitVec 3)
  /-- VLDS (R242) Loads strided elements. -/
  | vlds (d a b : BitVec 5) (k : BitVec 3) (g : BitVec 2) (t : BitVec 3)
  /-- VSTS (R242) Stores strided elements. -/
  | vsts (d a b : BitVec 5) (k : BitVec 3) (g : BitVec 2) (x : BitVec 1) (t : BitVec 3)
  /-- VGATH (R244) Gathers elements by an index group, bad indices giving zero. -/
  | vgath (d a b : BitVec 5) (k : BitVec 3) (g : BitVec 2) (t : BitVec 3)
  /-- VSCAT (R244) Scatters elements by an index group. -/
  | vscat (d a b : BitVec 5) (k : BitVec 3) (g : BitVec 2) (x : BitVec 1) (t : BitVec 3)
  /-- VSCADD (R244) Atomically adds elements into memory by an index group. -/
  | vscadd (d a b : BitVec 5) (k : BitVec 3) (g : BitVec 2) (x : BitVec 1) (t : BitVec 3)
  /-- KAND (R247) Ands two masks. -/
  | kand (d a b : BitVec 3)
  /-- KOR (R247) Ors two masks. -/
  | kor (d a b : BitVec 3)
  /-- KNOT (R247) Inverts a mask. -/
  | knot (d a : BitVec 3)
  /-- KPOP (R247) Counts the set bits of a mask into a scalar register. -/
  | kpop (d : BitVec 5) (a : BitVec 3)
  /-- KFIRST (R247) Returns the lowest set bit of a mask. -/
  | kfirst (d : BitVec 5) (a : BitVec 3)
  /-- KLD (R246) Loads a mask register from memory. -/
  | kld (d : BitVec 3) (a b : BitVec 5)
  /-- KST (R246) Stores a mask register to memory. -/
  | kst (d : BitVec 3) (a b : BitVec 5) (x : BitVec 1)
  /-- HLD (R135) Loads a shape register from a 64-byte image. -/
  | hld (a : BitVec 5) (h : BitVec 4)
  /-- HSET (R135) Writes one 32-bit field of a shape register. -/
  | hset (a : BitVec 5) (h n : BitVec 4)
  /-- HSET_D (R135) Writes two adjacent fields of a shape register. -/
  | hsetD (a : BitVec 5) (h : BitVec 4) (n : BitVec 3)
  /-- HGET (R135) Reads one field of a shape register. -/
  | hget (d : BitVec 5) (h n : BitVec 4)
  /-- HGET_D (R135) Reads two adjacent fields of a shape register. -/
  | hgetD (d : BitVec 5) (h : BitVec 4) (n : BitVec 3)
  /-- HALLOC (R138) Allocates the lowest free buffer handle for a ring. -/
  | halloc (d a : BitVec 5)
  /-- HALLOC_N (R138) Allocates a named buffer handle for a ring. -/
  | hallocN (d a b : BitVec 5)
  /-- HFREE (R139) Frees a handle once no accepted command names it. -/
  | hfree (a : BitVec 5)
  /-- HWAIT (R140) Claims n slots at the consumer pointer as draining. -/
  | hwait (d a b : BitVec 5)
  /-- HSPACE (R140) Claims n slots at the producer pointer as filling. -/
  | hspace (d a b : BitVec 5)
  /-- HADV_P (R141) Advances the producer pointer; slots become full when their writes are done. -/
  | hadvP (a b : BitVec 5)
  /-- HADV_C (R141) Advances the consumer pointer; slots become free when their reads are done. -/
  | hadvC (a b : BitVec 5)
  /-- HSTAT (R142) Returns the summary of a handle. -/
  | hstat (d a : BitVec 5)
  /-- HSTAT_LO (R142) Returns the states of slots 0 to 31. -/
  | hstatLo (d a : BitVec 5)
  /-- HSTAT_HI (R142) Returns the states of slots 32 to 63. -/
  | hstatHi (d a : BitVec 5)
  /-- TMOV (R126) Moves whole granules with data, full/empty bits and source tags as an engine command. -/
  | tmov (d a b : BitVec 5) (h : BitVec 4)
  /-- TMOV_TG (R126) Moves whole granules and sets the shape's output tag. -/
  | tmovTg (d a b : BitVec 5) (h : BitVec 4)
  /-- TTAG (R128) Writes a granule tag and returns the old one. -/
  | ttag (d a b : BitVec 5)
  /-- TTAG_CAS (R128) Writes a granule tag if it equals the expected tag. -/
  | ttagCas (d a b : BitVec 5)
  /-- TGET (R129) Reads the tag of a granule. -/
  | tget (d a : BitVec 5)
  /-- CPY (R153) Checks and accepts a strided copy command. -/
  | cpy (d a b : BitVec 5) (h : BitVec 4)
  /-- GATH (R154) Checks and accepts an indexed row gather. -/
  | gath (d a b : BitVec 5) (h : BitVec 4)
  /-- SCAT (R154) Checks and accepts an indexed row scatter. -/
  | scat (d a b : BitVec 5) (h : BitVec 4)
  /-- FILL (R153) Checks and accepts a fill command. -/
  | fill (d a b : BitVec 5) (h : BitVec 4)
  /-- COLL (R156) Checks and accepts a collective over members of the logical cluster. -/
  | coll (d a b : BitVec 5) (h : BitVec 4)
  /-- XWAIT (R157) Waits for a command and returns its status. -/
  | xwait (d a : BitVec 5)
  /-- XWAIT_ALL (R157) Waits for every earlier command and returns and clears XFAIL. -/
  | xwaitAll (d : BitVec 5)
  /-- XSTAT (R157) Returns a command's status without waiting. -/
  | xstat (d a : BitVec 5)
  /-- MMA (R252) Issues a matrix command adding A times B to an accumulator. -/
  | mma (d : BitVec 3) (a b : BitVec 6) (h : BitVec 4) (w v u : BitVec 1)
  /-- MMAZ (R252) Issues a matrix command replacing the accumulator by A times B. -/
  | mmaz (d : BitVec 3) (a b : BitVec 6) (h : BitVec 4) (w v u : BitVec 1)
  /-- MMAS (R252) Issues a matrix command subtracting A times B. -/
  | mmas (d : BitVec 3) (a b : BitVec 6) (h : BitVec 4) (w v u : BitVec 1)
  /-- AZERO_F32 (R254) Zeroes an accumulator in FP32 mode. -/
  | azeroF32 (d : BitVec 3)
  /-- AZERO_I32 (R254) Zeroes an accumulator in INT32 mode. -/
  | azeroI32 (d : BitVec 3)
  /-- ALD (R262) Loads an accumulator from memory, widening exactly. -/
  | ald (d : BitVec 3) (e a : BitVec 5) (t : BitVec 3)
  /-- ALD_V (R262) Loads an accumulator from a vector group. -/
  | aldV (d : BitVec 3) (v : BitVec 5) (t : BitVec 3)
  /-- AST (R262) Stores an accumulator to memory with rounding, optionally emptying it. -/
  | ast (e : BitVec 5) (c : BitVec 3) (a : BitVec 5) (x k : BitVec 1) (t : BitVec 3)
  /-- AST_V (R262) Stores an accumulator into a vector group. -/
  | astV (v : BitVec 5) (c : BitVec 3) (x : BitVec 1) (t : BitVec 3)
  /-- CBLD (R263) Loads sixteen BF16 entries into a codebook register. -/
  | cbld (n : BitVec 2) (a : BitVec 5)
  /-- MCMD (R264) Checks and injects a matrix command towards another context's accumulator. -/
  | mcmd (a b : BitVec 5) (h : BitVec 4)
  /-- CGEMV (R267) Checks and accepts a channel-side matrix-vector product. -/
  | cgemv (d a b : BitVec 5) (h : BitVec 4)
  /-- GLD (R278) Copies a message record, optionally taking it. -/
  | gld (d a : BitVec 5) (y t : BitVec 1)
  /-- GST (R278) Copies a message record to any window or DRAM. -/
  | gst (d a : BitVec 5) (y : BitVec 1)
  /-- GACC (R279) Adds a message into a joint record at mapped positions. -/
  | gacc (d a b : BitVec 5) (h : BitVec 4) (y : BitVec 1)
  /-- GSUB (R279) Subtracts a message from a joint record. -/
  | gsub (d a b : BitVec 5) (h : BitVec 4) (y : BitVec 1)
  /-- GSCHUR (R280) Marginalises a joint record onto its kept dimensions. -/
  | gschur (d a : BitVec 5) (h : BitVec 4) (y : BitVec 1)
  /-- GDAMP (R282) Blends a new message with the old one by beta. -/
  | gdamp (d a b : BitVec 5) (y : BitVec 1)
  /-- GSOLVE (R281) Converts a record to mean and covariance. -/
  | gsolve (d a : BitVec 5) (y : BitVec 1)
  /-- GRESID (R283) Writes a copy with the residual against an old record. -/
  | gresid (d a b : BitVec 5) (y : BitVec 1)
  /-- GSEND (R284) Delivers a record into a mailbox slot and optionally decrements a counter. -/
  | gsend (d a b : BitVec 5) (y r : BitVec 1)
  /-- SNAP (R300) Records a state-region snapshot for one tree node as an engine copy. -/
  | snap (d a b : BitVec 5)
  /-- SNAP_OPEN (R299) Opens a speculative iteration entry for a batch. -/
  | snapOpen (d a : BitVec 5)
  /-- SNAP_JOIN (R299) Makes the issuer a member of an iteration. -/
  | snapJoin (a : BitVec 5)
  /-- SNAP_FIN (R299) Marks the member as finishing. -/
  | snapFin (a : BitVec 5)
  /-- SCOMMIT (R301) Checks, waits for members and commits an iteration as an engine command. -/
  | scommit (d a b : BitVec 5)
  /-- SABORT (R299) Abandons an iteration. -/
  | sabort (a : BitVec 5)
  /-- SPAWN (R337) Creates one context from a launch record. -/
  | spawn (d a b : BitVec 5)
  /-- HALT_S (R338) Retires the context, retains segments and submits a successor record. -/
  | haltS (a b : BitVec 5)
  /-- JOIN (R341) Moves the context into a group. -/
  | join (d a : BitVec 5)
  /-- LEAVE (R341) Moves the context into group 0. -/
  | leave (d : BitVec 5)
  /-- BARSET (R344) Sets a barrier register and binds it to the context's home unit. -/
  | barset (d a : BitVec 5) (n : BitVec 3)
  /-- BARARR (R344) Counts an arrival at a barrier. -/
  | bararr (d : BitVec 5) (n : BitVec 3)
  /-- BARWT (R344) Waits until the barrier phase moves past a value. -/
  | barwt (d a : BitVec 5) (n : BitVec 3)
  /-- BARSYNC (R344) Arrives at a barrier and waits for its release. -/
  | barsync (d : BitVec 5) (n : BitVec 3)
  /-- WAITM (R347) Waits until one of the masked message registers is full. -/
  | waitm (d a : BitVec 5)
  /-- SEND (R182) Checks a capability and injects a register delivery. -/
  | send (d a : BitVec 5) (c : BitVec 2)
  /-- SENDW (R182) Checks a capability and injects a delivery that waits for the register to empty. -/
  | sendw (d a : BitVec 5) (c : BitVec 2)
  /-- CAPMK (R180) Makes a sealed capability for one of the context's registers. -/
  | capmk (d a : BitVec 5)
  /-- CAPMK_DV (R180) Narrows the rights of an existing capability. -/
  | capmkDv (d a b : BitVec 5)
  /-- CAPRV (R180) Increments the generation of a class, revoking its capabilities. -/
  | caprv (d a : BitVec 5)
  /-- FWD (R191) Writes a value into m15 of the next slot's context. -/
  | fwd (a : BitVec 5)
  /-- EXPECT (R190) Sets a fabric-target register empty. -/
  | expect (d : BitVec 5) (c : BitVec 2)
  /-- DCNT (R352) Decrements a dependence counter and pushes its packet when it reaches zero. -/
  | dcnt (d a b : BitVec 5)
  /-- TASKQ (R353) Pushes a packet onto a local ready ring. -/
  | taskq (a b : BitVec 5) (m : BitVec 1)
  /-- TASKQ_CAP (R353) Delivers a packet to a ready ring named by a capability. -/
  | taskqCap (a b : BitVec 5) (m : BitVec 1)
  /-- TASKQ_OWN (R353) Takes ownership of a local ready ring and sets its threshold. -/
  | taskqOwn (a b : BitVec 5)
  /-- TASKEND (R354) Ends the current task or pops and dispatches the next entry of a ring. -/
  | taskend (a : BitVec 5)
  /-- OPCALL (R359) Dispatches a packet by method lookup on an operator. -/
  | opcall (d a : BitVec 5) (o : BitVec 14)
  /-- WFE (R348) Waits for the event bit or a deadline. -/
  | wfe (d a : BitVec 5)
  /-- TRAP (R369) Raises cause 0x60 plus n precisely. -/
  | trap (a n : BitVec 5)
  /-- CKPT (R387) Accepts a copy of the context image to a checkpoint area. -/
  | ckpt (d a : BitVec 5) (f : BitVec 1)
  /-- STEP (R388) Adds to step.cnt and makes a step checkpoint due at the limit. -/
  | step (d : BitVec 5) (n : BitVec 14)
  /-- MIGPT (R413) Records arrival at a migration point and parks while a request is pending. -/
  | migpt (d : BitVec 5)
  /-- MIGPT_BIND (R413) Sets the context's point-bound flag. -/
  | migptBind (d : BitVec 5)
  /-- MIGPT_FREE (R413) Clears the context's point-bound flag. -/
  | migptFree (d : BitVec 5)
  /-- CASC (R414) Raises an Acre wake, queues a launch record and optionally requests a migration. -/
  | casc (d a : BitVec 5) (m : BitVec 1)
  /-- RETW (R205) Closes the current window and returns through s15. -/
  | retw
  /-- DRAIN (R219) Waits until earlier stores, LDQ entries and deliveries are done and takes their fault records. -/
  | drain
  /-- HALT (R338) Waits for outstanding work and retires the context. -/
  | halt
  /-- YIELD (R340) Ends the context's time slice if an equal or higher priority context waits. -/
  | yield
  /-- ERET (R369) Waits for the handler's work and returns from the trap handler. -/
  | eret
  /-- WIDE_INSTRUCTION_AT_HEAD (R224) A dispatch-queue entry reaches the head, reads its vector sources and executes or is accepted. Operands: n0 is c. -/
  | wideInstructionAtHead
  /-- SCALAR_RESULT_RETURN (R167) A scalar result returns through the dispatch queue and fills its register. Operands: n0 is c. -/
  | scalarResultReturn
  /-- WINDOW_SPILL (R169) The device spills the oldest resident window to the window stack. Operands: n0 is c. -/
  | windowSpill
  /-- WINDOW_FILL (R169) The device fills the previous window from the window stack. Operands: n0 is c. -/
  | windowFill
  /-- STORE_RESOLVE (R210) A buffered store is translated and checked. Operands: n0 is u, n1 is n. -/
  | storeResolve
  /-- STORE_PERFORM (R309) A pending store is performed at its home. Operands: n0 is u, n1 is n. -/
  | storePerform
  /-- STORE_FAULT_RECORD (R211) A failed store's record enters the store-fault record queue. Operands: n0 is u, n1 is n. -/
  | storeFaultRecord
  /-- LDQ_ENTRY_ARRIVAL (R212) Data or a data-error mark arrives in a load-data queue entry. Operands: n0 is c, n1 is p. -/
  | ldqEntryArrival
  /-- WAIT_ENTRY_RETRY (R214) A refused wait-list join is retried after 256 cycles. Operands: n0 is n. -/
  | waitEntryRetry
  /-- REMOTE_WINDOW_ACCESS (R114) A window access arrives at another unit's or cluster's scratchpad and is performed there. Operands: n0 is n. -/
  | remoteWindowAccess
  /-- BRIDGE_HOLD (R19) A packet for a sleeping Acre is held at a bridge link and raises a wake request. Operands: n0 is n. -/
  | bridgeHold
  /-- TLB_MISS_WALK_START (R52) A walker takes a pending second-level miss and starts a walk. Operands: n0 is cl. -/
  | tlbMissWalkStart
  /-- WALK_COMPLETE (R52) A walk completes, sets A and fills the TLBs of every requester. Operands: n0 is n. -/
  | walkComplete
  /-- PATROL_SCRUB (R117) The patrol scrubber reads and corrects scratchpad words and tags. Operands: n0 is a. -/
  | patrolScrub
  /-- ENGINE_COMMAND_START (R148) An accepted engine command starts once no earlier overlapping command is incomplete. Operands: n0 is u, n1 is seq. -/
  | engineCommandStart
  /-- ENGINE_COMMAND_COMPLETE (R150) An engine command completes with its writes visible and status recorded. Operands: n0 is u, n1 is seq. -/
  | engineCommandComplete
  /-- ENGINE_FAULT (R159) A fault during execution ends a command and reports it to the issuer. Operands: n0 is u, n1 is seq. -/
  | engineFault
  /-- ENGINE_ERROR (R160) An internal engine error is replayed or ends the command with cause 0x45. Operands: n0 is u, n1 is seq. -/
  | engineError
  /-- SLOT_BECOMES_FULL (R141) An advanced filling slot becomes full once its writes are done. Operands: n0 is u, n1 is h, n2 is n. -/
  | slotBecomesFull
  /-- SLOT_BECOMES_FREE (R141) An advanced draining slot becomes free once its reads are done. Operands: n0 is u, n1 is h, n2 is n. -/
  | slotBecomesFree
  /-- DELIVERY_ARRIVAL (R183) A delivery reaches the target's home unit and is checked and applied. Operands: n0 is n. -/
  | deliveryArrival
  /-- DELIVERY_ACK (R188) An acknowledgement returns to the sender, a failure entering its record queue. Operands: n0 is n. -/
  | deliveryAck
  /-- REMOTE_COMMAND_ACCEPT (R264) A queued remote matrix command is checked and accepted at the target unit. Operands: n0 is u. -/
  | remoteCommandAccept
  /-- HOST_WRITE (R58) A host CXL.mem write reaches device DRAM, setting written words full. Operands: n0 is pa, data. -/
  | hostWrite
  /-- HOST_READ (R57) A host CXL.mem read of device DRAM. Operands: n0 is pa, n1 is n. -/
  | hostRead
  /-- DRAM_CHANNEL_EXIT (R40) A channel leaves power-down or self-refresh and the waiting access proceeds. Operands: n0 is ch. -/
  | dramChannelExit
  /-- CHANNEL_POWER_DOWN_ENTRY (R39) A channel idle for PDIDLE enters power-down. Operands: n0 is ch. -/
  | channelPowerDownEntry
  /-- CHANNEL_SELF_REFRESH_ENTRY (R39) A channel idle for SRIDLE enters self-refresh. Operands: n0 is ch. -/
  | channelSelfRefreshEntry
  /-- LUM_WRITE (R27) Supervisor software writes a logical unit map entry. Operands: n0 is p, n1 is n, v. -/
  | lumWrite
  /-- XLTINV_PARTITION (R53) Invalidates every translation of the partition. Operands: n0 is p. -/
  | xltinvPartition
  /-- XLTINV_ASN (R53) Invalidates the translations of one ASN. Operands: n0 is p, n1 is asn. -/
  | xltinvAsn
  /-- XLTINV_ASN_PAGE (R53) Invalidates one page in one ASN. Operands: n0 is p, n1 is asn. -/
  | xltinvAsnPage
  /-- XLTINV_PAGE_ALL_ASN (R53) Invalidates one page in every ASN, global entries included. Operands: n0 is p. -/
  | xltinvPageAllAsn
  /-- XLTINV_WALK_CACHES (R53) Clears the walk caches of the partition. Operands: n0 is p. -/
  | xltinvWalkCaches
  /-- XLTINV_DONE (R54) An invalidation completes and BUSY clears. Operands: n0 is p. -/
  | xltinvDone
  /-- SHARING_MAP_WRITE (R56) Sets or clears sharing bits of 2 MiB regions. Operands: n0 is off, v. -/
  | sharingMapWrite
  /-- SHARING_MAP_CLEAR_DONE (R56) A clear completes after host copies are back-invalidated. Operands: none. -/
  | sharingMapClearDone
  /-- CAPKEY_STAGE_LOW (R177) A write to CAPKEY low half stages it. Operands: n0 is p, v. -/
  | capkeyStageLow
  /-- CAPKEY_COMMIT (R177) A write to CAPKEY high half commits a new key. Operands: n0 is p, v. -/
  | capkeyCommit
  /-- FP_FLAGS_SYNC (R95) A CSRR or CSRW of fp.flags waits for earlier work to accrue its flags. Operands: n0 is c. -/
  | fpFlagsSync
  /-- OVR_INFO_CLEAR (R434) A CSRW of ovr.info with bit 63 set empties the overwrite record. Operands: n0 is c. -/
  | ovrInfoClear
  /-- LAUNCHQ_WRITE (R324) Queues a launch record address, or sets OVF when full. Operands: n0 is p, v. -/
  | launchqWrite
  /-- LAUNCH_RECORD_TAKE (R325) The dispatcher takes a queued record, checks it and creates its contexts. Operands: n0 is p. -/
  | launchRecordTake
  /-- LAUNCH_NEXT_RECORD (R328) When every context of a record has halted, the next record of its chain is taken. Operands: n0 is n. -/
  | launchNextRecord
  /-- SLOTCFG_WRITE (R329) Sets slot enables, partitions and time slice of a unit. Operands: n0 is u, v. -/
  | slotcfgWrite
  /-- ROT_WRITE (R331) Rewrites the rotation table from the next turn 0. Operands: n0 is u, v. -/
  | rotWrite
  /-- CONTEXT_PLACE (R330) A free slot takes the highest-priority ready context. Operands: n0 is u, n1 is sl. -/
  | contextPlace
  /-- CONTEXT_PREEMPT (R330) A lower-priority resident context is moved out for a ready higher-priority one. Operands: n0 is u, n1 is sl. -/
  | contextPreempt
  /-- PARKED_EVICT (R330) A context parked 256 cycles is moved out for a waiting ready context. Operands: n0 is u, n1 is sl. -/
  | parkedEvict
  /-- TIME_SLICE_EXPIRY (R330) A context that held its slot for TSL times 256 cycles is moved out. Operands: n0 is u, n1 is sl. -/
  | timeSliceExpiry
  /-- BUDGET_PERIOD (R335) Activity budget counters reload at the start of each period. Operands: none. -/
  | budgetPeriod
  /-- GRPKILL (R342) Resets and halts every live member of a group. Operands: n0 is p, n1 is g. -/
  | grpkill
  /-- BARRIER_ROW_SIGNAL (R345) A row signal arrives at a barrier unit. Operands: n0 is n. -/
  | barrierRowSignal
  /-- BARRIER_COLUMN_SIGNAL (R345) A column signal arrives at a barrier unit. Operands: n0 is n. -/
  | barrierColumnSignal
  /-- BARRIER_RELEASE (R345) A release reaches a unit, advancing PHASE and waking waiters. Operands: n0 is n. -/
  | barrierRelease
  /-- BARRIER_BREAK (R346) A dropped signal breaks the barrier across its rectangle. Operands: n0 is n. -/
  | barrierBreak
  /-- STAGGERED_RELEASE_APPLY (R401) A staggered release applies its wake steps after its delay. Operands: n0 is n. -/
  | staggeredReleaseApply
  /-- WFE_DEADLINE (R348) A WFE deadline passes and the waiting context resumes. Operands: n0 is c. -/
  | wfeDeadline
  /-- LOAD_BALANCE (R360) Every 512 cycles ring depths are exchanged and movable entries moved. Operands: n0 is u. -/
  | loadBalance
  /-- MEMBER_FINISHED (R299) A finishing iteration member becomes finished once its work is done. Operands: n0 is h, n1 is c. -/
  | memberFinished
  /-- TRAP_ENTRY_HANDLER (R366) A waiting trap is taken into the context's own handler. Operands: n0 is c. -/
  | trapEntryHandler
  /-- TRAP_TO_CMC (R370) A trap holds the context and its record enters the CMC mailbox. Operands: n0 is c. -/
  | trapToCmc
  /-- CTXCMD_RESUME (R370) Resumes a held context at RPC. Operands: n0 is cl, n1 is c. -/
  | ctxcmdResume
  /-- CTXCMD_RESUME_AT (R370) Resumes a held context at CTXPC. Operands: n0 is cl, n1 is c. -/
  | ctxcmdResumeAt
  /-- CTXCMD_RESET (R370) Resets a held context, which halts. Operands: n0 is cl, n1 is c. -/
  | ctxcmdReset
  /-- CTXCMD_RELEASE_FROZEN (R379) Releases a frozen context by rewriting its save area. Operands: n0 is cl, n1 is c. -/
  | ctxcmdReleaseFrozen
  /-- CTXCMD_RAISE (R370) Raises a firmware cause as an asynchronous trap. Operands: n0 is cl, n1 is c, n2 is code. -/
  | ctxcmdRaise
  /-- TMBHEAD_ADVANCE (R370) Frees the oldest mailbox entry and following done entries. Operands: n0 is cl, v. -/
  | tmbheadAdvance
  /-- TMBFREE_MARK (R370) Marks a mailbox entry done. Operands: n0 is cl, v. -/
  | tmbfreeMark
  /-- ERRCNT_READ (R370) Reading ERRCNT returns and clears the error counts. Operands: n0 is cl. -/
  | errcntRead
  /-- CMC_GROUP_STOP (R431) CMC firmware stops a group on a cause 0x7F request. Operands: n0 is cl, n1 is e. -/
  | cmcGroupStop
  /-- HANG_WATCHDOG (R381) WDCNT reaches its limit and the context takes cause 0x30. Operands: n0 is c. -/
  | hangWatchdog
  /-- WALL_TIME_LIMIT (R382) time reaches wall.lim and the context takes cause 0x31. Operands: n0 is c. -/
  | wallTimeLimit
  /-- IMAGE_WRITEBACK (R376) A dirty image block is written to the save area in an idle slot. Operands: n0 is c, n1 is blk. -/
  | imageWriteback
  /-- CONTEXT_SAVE (R377) A context is saved to its save area, header last. Operands: n0 is c. -/
  | contextSave
  /-- CONTEXT_RESTORE (R375) A saved image is read whole and made resident, or marked lost. Operands: n0 is c. -/
  | contextRestore
  /-- CHECKPOINT_TIMER (R388) A timer checkpoint falls due and is taken as ckpt s0, s0. Operands: n0 is c. -/
  | checkpointTimer
  /-- RESUMEQ_WRITE (R389) Queues an image address for resumption. Operands: n0 is p, v. -/
  | resumeqWrite
  /-- RESUME_IMAGE_TAKE (R389) The dispatcher takes a queued image and makes the context live. Operands: n0 is p. -/
  | resumeImageTake
  /-- MESH_LINK_FAILURE (R384) A mesh link fails after retries and is disabled. Operands: n0 is a, n1 is b. -/
  | meshLinkFailure
  /-- ISLCTL_WAKE (R392) ISLCTL command 1 wakes Acre. Operands: v. -/
  | islctlWake
  /-- ISLCTL_RETENTION (R392) ISLCTL command 2 enters retention. Operands: v. -/
  | islctlRetention
  /-- ISLCTL_OFF (R392) ISLCTL command 3 enters off or is refused. Operands: v. -/
  | islctlOff
  /-- ACRE_AUTO_RETENTION (R392) Under AUTO, Acre idle for RETIDLE enters retention. Operands: none. -/
  | acreAutoRetention
  /-- ACRE_AUTO_OFF (R392) Under AUTO, Acre in retention for OFFIDLE enters off. Operands: none. -/
  | acreAutoOff
  /-- ACRE_ENTRY_DONE (R393) Once accepted commands end and contexts are saved, retention or off is entered. Operands: none. -/
  | acreEntryDone
  /-- ACRE_WAKE_DONE (R395) The wake phases complete and Acre reaches first issue. Operands: none. -/
  | acreWakeDone
  /-- CROFT_STANDBY_ENTRY (R390) Croft idle for STBYIDLE enters standby. Operands: none. -/
  | croftStandbyEntry
  /-- CROFT_WAKE (R391) A wake source brings Croft out of standby. Operands: none. -/
  | croftWake
  /-- UNIT_POWER_GATE (R396) A unit with no live contexts and an empty scheduler is power-gated. Operands: n0 is u. -/
  | unitPowerGate
  /-- UNIT_WAKE (R396) A gated unit wakes on an access, delivery, command or signal. Operands: n0 is u. -/
  | unitWake
  /-- PSPAT_WRITE (R397) Writes KREQ, applied at the next 16-pulse boundary. Operands: n0 is cl, v. -/
  | pspatWrite
  /-- LENDING_PERIOD (R399) At each period start borrowings and KGRANT are recomputed. Operands: none. -/
  | lendingPeriod
  /-- LENDER_RECALL (R400) A lender becoming active recalls its allowance. Operands: n0 is cl. -/
  | lenderRecall
  /-- RECALL_COMPLETE (R400) A recall completes and the lender takes its new KGRANT. Operands: n0 is cl. -/
  | recallComplete
  /-- LAUNCH_SKEW_EXPIRY (R401) Contexts of a cluster become placeable after the launch skew. Operands: n0 is n. -/
  | launchSkewExpiry
  /-- THERMAL_MIGRATION_CROSSING (R403) A sensor reaching MIGT raises a thermal migration request. Operands: n0 is u, n1 is t. -/
  | thermalMigrationCrossing
  /-- THERMAL_REQUEST_WITHDRAW (R403) A sensor falling below MIGT minus 3 withdraws the request. Operands: n0 is u, n1 is t. -/
  | thermalRequestWithdraw
  /-- THROTTLE_STEP (R403) Every 16 µs KTHERM steps down or up by temperature. Operands: n0 is cl. -/
  | throttleStep
  /-- EMERGENCY_SAVE (R404) A sensor at EMGT stops Acre, saves contexts and enters off. Operands: n0 is u, n1 is t. -/
  | emergencySave
  /-- THERMAL_TRIP (R405) 110 °C on an Acre sensor cuts the Acre supply. Operands: n0 is u, n1 is t. -/
  | thermalTrip
  /-- CROFT_THERMAL_TRIP (R405) 110 °C on a Croft sensor turns the device off. Operands: n0 is u, n1 is t. -/
  | croftThermalTrip
  /-- INHIBIT_CLEAR (R405) INH clears when every Acre sensor reads 90 °C or less. Operands: none. -/
  | inhibitClear
  /-- RETENTION_RECORD_CLEAR (R406) W1C write clears lost-context bits. Operands: n0 is off, v. -/
  | retentionRecordClear
  /-- MIGREQ_RAISE (R408) Raises a supervisor migration request or refuses it. Operands: v. -/
  | migreqRaise
  /-- MIGRATION_HONOUR (R409) A request is honoured when every point-bound context has arrived, or when forced. Operands: n0 is src. -/
  | migrationHonour
  /-- MIGRATION_TIMEOUT (R409) After TMO an island request is withdrawn and a thermal one becomes forced. Operands: n0 is src. -/
  | migrationTimeout
  /-- MIGRATION_COMPLETE (R410) The IME finishes carrying the unit's state and updates the LUM entries. Operands: n0 is src. -/
  | migrationComplete
  /-- PARTITION_SWAP_OUT (R418) Saves a partition's contexts to the shadow store or save areas. Operands: n0 is p, v. -/
  | partitionSwapOut
  /-- PARTITION_SWAP_IN (R418) Returns shadow-store images to their slots. Operands: n0 is p, v. -/
  | partitionSwapIn
  /-- LINK_PORT_FAILURE (R423) A Netiet Link port fails after retries and goes down. Operands: n0 is n. -/
  | linkPortFailure
  /-- VF_FLR (R424) Function-level reset of a VF swaps out and kills its groups. Operands: n0 is p. -/
  | vfFlr
  /-- POWER_ON_BOOT (R425) At power-on the Croft CMC boot ROM verifies and runs the firmware. Operands: none. -/
  | powerOnBoot
  /-- MEAS_EXTEND (R427) Extends a measurement register by SHA-384. Operands: n0 is n, data. -/
  | measExtend
  /-- GET_MEASUREMENTS (R427) SPDM request returns signed measurements. Operands: data. -/
  | getMeasurements
  /-- REGISTER_WRITE (R7) A write to a device or partition register without a row of its own updates its RW and W1C fields. Operands: n0 is blk, n1 is off, v. -/
  | registerWrite
  /-- RECEIVE_QUEUE_ARRIVAL (R170) An entry pushed through a network send port arrives in the neighbour unit's receive queue for the opposite direction and wakes a reader parked on it. Operands: n0 is n. -/
  | receiveQueueArrival
  /-- APERTURE_ACCESS (R422) An access from a linked device through its enabled aperture arrives over Netiet Link and is performed at this device's channel controllers as device DRAM, full/empty and atomic operations included. Operands: n0 is dev, op, n1 is pa, n2 is size, v, w. -/
  | apertureAccess
  /-- DEVICE_OFF (R390) The whole device enters off: the DRAM goes to deep sleep and loses its contents, and Croft and Acre lose all state until the next power-on. Operands: none. -/
  | deviceOff
deriving DecidableEq, Repr

end Sys2Proof
end

