-- ==== Sys2Proof/Decode.lean ====
section
/-! DEFINITION. The decoder, written from R64 to R72 and the field descriptions of the instruction chapters: total on
every 32-bit word, refusing an illegal word by the cause R72 gives it. After it stands the encoder, from the same
encodings. -/

namespace Sys2Proof

/-- Bits `lo + len - 1` down to `lo` of an instruction word (R64). -/
abbrev fld (w : BitVec 32) (lo len : Nat) : BitVec len := w.extractLsb' lo len

/-- The register count of a group field: 1, 2, 4 or 8 (R221). -/
def groupOf (g : BitVec 2) : Nat := 2 ^ g.toNat

/-- The element width in bits of a `ty` code (R221). -/
def tyWidth (t : BitVec 3) : Nat :=
  match t.toNat with
  | 0 => 32
  | 4 => 32
  | 1 => 16
  | 2 => 16
  | 5 => 16
  | _ => 8

/-- The elements of one register of type `t` (R221). -/
def tyLanes (t : BitVec 3) : Nat := 2048 / tyWidth t

/-- The source registers of a VCVT from type `u` to a group of `n` registers of type `t`, rounded up to one (R235). -/
def cvtGroup (n : Nat) (t u : BitVec 3) : Nat := max 1 (n * tyWidth u / tyWidth t)

/-- The registers of the vector side of ALD.v and AST.v: w/8 of them (R261). -/
def accGroup (t : BitVec 3) : Nat := tyWidth t / 8

/-- The control-register numbers that are assigned (R174, R380, R415). -/
def csrAssigned (n : Nat) : Bool :=
  n ≤ 4 || (8 ≤ n && n ≤ 0xB) || n == 0x10 || n == 0x11 || n == 0x18 || n == 0x19 || (0x20 ≤ n && n ≤ 0x22) ||
  n == 0x28 || n == 0x29 || n == 0x30 || n == 0x31 || n == 0x38 || n == 0x39 || n == 0x40 || n == 0x41 ||
  n == 0x50 || (0x58 ≤ n && n ≤ 0x77) || (0x100 ≤ n && n ≤ 0x104)

/-- The control registers with a field that CSRW may change; CSRW of any other number is unassigned (R175). -/
def csrWritable (n : Nat) : Bool :=
  n == 0x10 || n == 0x11 || n == 0x18 || n == 0x19 || (0x20 ≤ n && n ≤ 0x22) || n == 0x28 || n == 0x29 ||
  n == 0x30 || n == 0x40 || n == 0x41 || n == 0x50 || (0x100 ≤ n && n ≤ 0x102)

/-- The supervisor control registers (R380, R415). -/
def csrPrivileged (n : Nat) : Bool := 0x100 ≤ n && n ≤ 0x1FF

/-- Why a word is no instruction: the checks of R72 that look at the word alone. -/
inductive DecodeErr where
  /-- cause 0x01: an opcode or sub-field value nothing is assigned to, or a misaligned register group -/
  | unassigned
  /-- cause 0x02: a reserved bit that is not zero -/
  | reserved
  /-- cause 0x03: two operand groups that overlap partly -/
  | overlap
deriving DecidableEq, Repr

/-- The cause code of a decode failure (R72, R362). -/
def DecodeErr.cause : DecodeErr → Nat
  | .unassigned => 1
  | .reserved => 2
  | .overlap => 3

/-- The outcome of decoding one word. -/
inductive Decoded where
  | instr (i : Instr)
  | illegal (e : DecodeErr)
deriving DecidableEq, Repr

/-- The scalar class (R68, R69): the row a word of the class selects, by opcode and assigning sub-fields. -/
def selectScalar (w : BitVec 32) : Option Instr :=
  match (fld w 24 8).toNat with
  | 0x00 => match (fld w 0 5).toNat with
    | 1 => some (.add (fld w 19 5) (fld w 14 5) (fld w 9 5) (fld w 7 2) (fld w 5 2))
    | 2 => some (.sub (fld w 19 5) (fld w 14 5) (fld w 9 5) (fld w 7 2) (fld w 5 2))
    | 3 => some (.and (fld w 19 5) (fld w 14 5) (fld w 9 5) (fld w 7 2) (fld w 5 2))
    | 4 => some (.or (fld w 19 5) (fld w 14 5) (fld w 9 5) (fld w 7 2) (fld w 5 2))
    | 5 => some (.xor (fld w 19 5) (fld w 14 5) (fld w 9 5) (fld w 7 2) (fld w 5 2))
    | 6 => some (.andn (fld w 19 5) (fld w 14 5) (fld w 9 5) (fld w 7 2) (fld w 5 2))
    | 7 => some (.sll (fld w 19 5) (fld w 14 5) (fld w 9 5) (fld w 7 2) (fld w 5 2))
    | 8 => some (.srl (fld w 19 5) (fld w 14 5) (fld w 9 5) (fld w 7 2) (fld w 5 2))
    | 9 => some (.sra (fld w 19 5) (fld w 14 5) (fld w 9 5) (fld w 7 2) (fld w 5 2))
    | 10 => some (.mul (fld w 19 5) (fld w 14 5) (fld w 9 5) (fld w 7 2) (fld w 5 2))
    | 11 => some (.mulh (fld w 19 5) (fld w 14 5) (fld w 9 5) (fld w 7 2) (fld w 5 2))
    | 12 => some (.mulhu (fld w 19 5) (fld w 14 5) (fld w 9 5) (fld w 7 2) (fld w 5 2))
    | 13 => some (.div (fld w 19 5) (fld w 14 5) (fld w 9 5) (fld w 7 2) (fld w 5 2))
    | 14 => some (.divu (fld w 19 5) (fld w 14 5) (fld w 9 5) (fld w 7 2) (fld w 5 2))
    | 15 => some (.rem (fld w 19 5) (fld w 14 5) (fld w 9 5) (fld w 7 2) (fld w 5 2))
    | 16 => some (.remu (fld w 19 5) (fld w 14 5) (fld w 9 5) (fld w 7 2) (fld w 5 2))
    | 17 => some (.slt (fld w 19 5) (fld w 14 5) (fld w 9 5) (fld w 7 2) (fld w 5 2))
    | 18 => some (.sltu (fld w 19 5) (fld w 14 5) (fld w 9 5) (fld w 7 2) (fld w 5 2))
    | 19 => some (.min (fld w 19 5) (fld w 14 5) (fld w 9 5) (fld w 7 2) (fld w 5 2))
    | 20 => some (.max (fld w 19 5) (fld w 14 5) (fld w 9 5) (fld w 7 2) (fld w 5 2))
    | 21 => some (.minu (fld w 19 5) (fld w 14 5) (fld w 9 5) (fld w 7 2) (fld w 5 2))
    | 22 => some (.maxu (fld w 19 5) (fld w 14 5) (fld w 9 5) (fld w 7 2) (fld w 5 2))
    | 23 => some (.clz (fld w 19 5) (fld w 14 5) (fld w 7 2) (fld w 5 2))
    | 24 => some (.ctz (fld w 19 5) (fld w 14 5) (fld w 7 2) (fld w 5 2))
    | 25 => some (.popc (fld w 19 5) (fld w 14 5) (fld w 7 2) (fld w 5 2))
    | _ => none
  | 0x01 => some (.addi (fld w 19 5) (fld w 14 5) (fld w 0 14))
  | 0x02 => some (.andi (fld w 19 5) (fld w 14 5) (fld w 0 14))
  | 0x03 => some (.ori (fld w 19 5) (fld w 14 5) (fld w 0 14))
  | 0x04 => some (.xori (fld w 19 5) (fld w 14 5) (fld w 0 14))
  | 0x05 => some (.slli (fld w 19 5) (fld w 14 5) (fld w 0 6))
  | 0x06 => some (.srli (fld w 19 5) (fld w 14 5) (fld w 0 6))
  | 0x07 => some (.srai (fld w 19 5) (fld w 14 5) (fld w 0 6))
  | 0x08 => some (.slti (fld w 19 5) (fld w 14 5) (fld w 0 14))
  | 0x09 => some (.sltiu (fld w 19 5) (fld w 14 5) (fld w 0 14))
  | 0x0A => some (.lui (fld w 19 5) (fld w 0 19))
  | 0x0B => some (.auipc (fld w 19 5) (fld w 0 19))
  | 0x0C => some (.lea (fld w 19 5) (fld w 14 5) (fld w 9 5) (fld w 3 1) (fld w 0 3))
  | 0x0D => match (fld w 0 5).toNat with
    | 1 => some (.fadd (fld w 19 5) (fld w 14 5) (fld w 9 5) (fld w 7 2) (fld w 5 2))
    | 2 => some (.fsub (fld w 19 5) (fld w 14 5) (fld w 9 5) (fld w 7 2) (fld w 5 2))
    | 3 => some (.fmul (fld w 19 5) (fld w 14 5) (fld w 9 5) (fld w 7 2) (fld w 5 2))
    | 4 => some (.fdiv (fld w 19 5) (fld w 14 5) (fld w 9 5) (fld w 7 2) (fld w 5 2))
    | 5 => some (.fsqrt (fld w 19 5) (fld w 14 5) (fld w 7 2) (fld w 5 2))
    | 6 => some (.fmin (fld w 19 5) (fld w 14 5) (fld w 9 5) (fld w 7 2) (fld w 5 2))
    | 7 => some (.fmax (fld w 19 5) (fld w 14 5) (fld w 9 5) (fld w 7 2) (fld w 5 2))
    | 8 => some (.feq (fld w 19 5) (fld w 14 5) (fld w 9 5) (fld w 7 2) (fld w 5 2))
    | 9 => some (.flt (fld w 19 5) (fld w 14 5) (fld w 9 5) (fld w 7 2) (fld w 5 2))
    | 10 => some (.fle (fld w 19 5) (fld w 14 5) (fld w 9 5) (fld w 7 2) (fld w 5 2))
    | 11 => some (.fcvtif (fld w 19 5) (fld w 14 5) (fld w 7 2) (fld w 5 2))
    | 12 => some (.fcvtfi (fld w 19 5) (fld w 14 5) (fld w 7 2) (fld w 5 2))
    | 13 => some (.fclass (fld w 19 5) (fld w 14 5) (fld w 7 2) (fld w 5 2))
    | _ => none
  | 0x0E => match (fld w 0 2).toNat with
    | 0 => some (.rand (fld w 19 5))
    | 1 => some (.randF32 (fld w 19 5))
    | 2 => some (.randBnd (fld w 19 5) (fld w 9 5))
    | _ => none
  | 0x10 => some (.beq (fld w 19 5) (fld w 14 5) (fld w 0 14))
  | 0x11 => some (.bne (fld w 19 5) (fld w 14 5) (fld w 0 14))
  | 0x12 => some (.blt (fld w 19 5) (fld w 14 5) (fld w 0 14))
  | 0x13 => some (.bge (fld w 19 5) (fld w 14 5) (fld w 0 14))
  | 0x14 => some (.bltu (fld w 19 5) (fld w 14 5) (fld w 0 14))
  | 0x15 => some (.bgeu (fld w 19 5) (fld w 14 5) (fld w 0 14))
  | 0x16 => some (.jal (fld w 0 24))
  | 0x17 => some (.jalr (fld w 19 5) (fld w 14 5) (fld w 0 14))
  | 0x18 => some (.callw (fld w 0 24))
  | 0x19 => some (.callwr (fld w 14 5) (fld w 0 14))
  | 0x1A => some (.retw)
  | 0x20 => some (.ld8 (fld w 19 5) (fld w 14 5) (fld w 12 2) (fld w 10 2) (fld w 0 10))
  | 0x21 => some (.ld8u (fld w 19 5) (fld w 14 5) (fld w 12 2) (fld w 10 2) (fld w 0 10))
  | 0x22 => some (.ld16 (fld w 19 5) (fld w 14 5) (fld w 12 2) (fld w 10 2) (fld w 0 10))
  | 0x23 => some (.ld16u (fld w 19 5) (fld w 14 5) (fld w 12 2) (fld w 10 2) (fld w 0 10))
  | 0x24 => some (.ld32 (fld w 19 5) (fld w 14 5) (fld w 12 2) (fld w 10 2) (fld w 0 10))
  | 0x25 => some (.ld32u (fld w 19 5) (fld w 14 5) (fld w 12 2) (fld w 10 2) (fld w 0 10))
  | 0x26 => some (.ld64 (fld w 19 5) (fld w 14 5) (fld w 12 2) (fld w 10 2) (fld w 0 10))
  | 0x27 => some (.st8 (fld w 19 5) (fld w 14 5) (fld w 12 2) (fld w 10 2) (fld w 0 10))
  | 0x28 => some (.st16 (fld w 19 5) (fld w 14 5) (fld w 12 2) (fld w 10 2) (fld w 0 10))
  | 0x29 => some (.st32 (fld w 19 5) (fld w 14 5) (fld w 12 2) (fld w 10 2) (fld w 0 10))
  | 0x2A => some (.st64 (fld w 19 5) (fld w 14 5) (fld w 12 2) (fld w 10 2) (fld w 0 10))
  | 0x2B => some (.ldq (fld w 19 3) (fld w 14 5) (fld w 0 10))
  | 0x2C => some (.ldfe (fld w 19 5) (fld w 14 5) (fld w 12 2) (fld w 10 2) (fld w 0 10))
  | 0x2D => some (.ldff (fld w 19 5) (fld w 14 5) (fld w 12 2) (fld w 10 2) (fld w 0 10))
  | 0x2E => some (.stef (fld w 19 5) (fld w 14 5) (fld w 12 2) (fld w 10 2) (fld w 0 10))
  | 0x2F => some (.stff (fld w 19 5) (fld w 14 5) (fld w 12 2) (fld w 10 2) (fld w 0 10))
  | 0x30 => match (fld w 5 4).toNat, (fld w 0 1).toNat with
    | 0, _ => some (.amoadd (fld w 19 5) (fld w 14 5) (fld w 9 5) (fld w 3 2) (fld w 1 2) (fld w 0 1))
    | 1, _ => some (.amoand (fld w 19 5) (fld w 14 5) (fld w 9 5) (fld w 3 2) (fld w 1 2) (fld w 0 1))
    | 2, _ => some (.amoor (fld w 19 5) (fld w 14 5) (fld w 9 5) (fld w 3 2) (fld w 1 2) (fld w 0 1))
    | 3, _ => some (.amoxor (fld w 19 5) (fld w 14 5) (fld w 9 5) (fld w 3 2) (fld w 1 2) (fld w 0 1))
    | 4, _ => some (.amomin (fld w 19 5) (fld w 14 5) (fld w 9 5) (fld w 3 2) (fld w 1 2) (fld w 0 1))
    | 5, _ => some (.amomax (fld w 19 5) (fld w 14 5) (fld w 9 5) (fld w 3 2) (fld w 1 2) (fld w 0 1))
    | 6, _ => some (.amominu (fld w 19 5) (fld w 14 5) (fld w 9 5) (fld w 3 2) (fld w 1 2) (fld w 0 1))
    | 7, _ => some (.amomaxu (fld w 19 5) (fld w 14 5) (fld w 9 5) (fld w 3 2) (fld w 1 2) (fld w 0 1))
    | 8, _ => some (.amoswap (fld w 19 5) (fld w 14 5) (fld w 9 5) (fld w 3 2) (fld w 1 2) (fld w 0 1))
    | 9, _ => some (.amocas (fld w 19 5) (fld w 14 5) (fld w 9 5) (fld w 3 2) (fld w 1 2) (fld w 0 1))
    | 10, 0 => some (.amofadd32 (fld w 19 5) (fld w 14 5) (fld w 9 5) (fld w 3 2) (fld w 1 2))
    | 11, 0 => some (.amobfadd2 (fld w 19 5) (fld w 14 5) (fld w 9 5) (fld w 3 2) (fld w 1 2))
    | _, _ => none
  | 0x31 => some (.fence (fld w 3 4) (fld w 2 1) (fld w 0 2))
  | 0x32 => some (.drain)
  | 0x33 => some (.csrr (fld w 19 5) (fld w 0 14))
  | 0x34 => some (.csrw (fld w 14 5) (fld w 0 14))
  | 0x36 => match (fld w 11 3).toNat with
    | 0 => some (.qbindUn (fld w 19 3))
    | 1 => some (.qbindLd (fld w 19 3))
    | 2 => some (.qbindTx (fld w 19 3) (fld w 9 2))
    | 3 => some (.qbindRx (fld w 19 3) (fld w 9 2))
    | 4 => some (.qbindRr (fld w 19 3) (fld w 14 5))
    | _ => none
  | 0x37 => some (.qstat (fld w 19 5) (fld w 0 3))
  | _ => none

/-- The vector class (R70). -/
def selectVector (w : BitVec 32) : Option Instr :=
  match (fld w 24 8).toNat with
  | 0x40 => some (.vadd (fld w 19 5) (fld w 14 5) (fld w 9 5) (fld w 6 3) (fld w 4 2) (fld w 3 1) (fld w 0 3))
  | 0x41 => some (.vsub (fld w 19 5) (fld w 14 5) (fld w 9 5) (fld w 6 3) (fld w 4 2) (fld w 3 1) (fld w 0 3))
  | 0x42 => some (.vmul (fld w 19 5) (fld w 14 5) (fld w 9 5) (fld w 6 3) (fld w 4 2) (fld w 3 1) (fld w 0 3))
  | 0x43 => some (.vfma (fld w 19 5) (fld w 14 5) (fld w 9 5) (fld w 6 3) (fld w 4 2) (fld w 3 1) (fld w 0 3))
  | 0x44 => some (.vfms (fld w 19 5) (fld w 14 5) (fld w 9 5) (fld w 6 3) (fld w 4 2) (fld w 3 1) (fld w 0 3))
  | 0x45 => some (.vmin (fld w 19 5) (fld w 14 5) (fld w 9 5) (fld w 6 3) (fld w 4 2) (fld w 3 1) (fld w 0 3))
  | 0x46 => some (.vmax (fld w 19 5) (fld w 14 5) (fld w 9 5) (fld w 6 3) (fld w 4 2) (fld w 3 1) (fld w 0 3))
  | 0x47 => some (.vdiv (fld w 19 5) (fld w 14 5) (fld w 9 5) (fld w 6 3) (fld w 4 2) (fld w 3 1) (fld w 0 3))
  | 0x48 => some (.vabs (fld w 19 5) (fld w 14 5) (fld w 6 3) (fld w 4 2) (fld w 0 3))
  | 0x49 => some (.vneg (fld w 19 5) (fld w 14 5) (fld w 6 3) (fld w 4 2) (fld w 0 3))
  | 0x4A => some (.vsqrt (fld w 19 5) (fld w 14 5) (fld w 6 3) (fld w 4 2) (fld w 0 3))
  | 0x4B => some (.vrsqrt (fld w 19 5) (fld w 14 5) (fld w 6 3) (fld w 4 2) (fld w 0 3))
  | 0x4C => some (.vrcp (fld w 19 5) (fld w 14 5) (fld w 6 3) (fld w 4 2) (fld w 0 3))
  | 0x4D => some (.vexp2 (fld w 19 5) (fld w 14 5) (fld w 6 3) (fld w 4 2) (fld w 0 3))
  | 0x4E => some (.vlog2 (fld w 19 5) (fld w 14 5) (fld w 6 3) (fld w 4 2) (fld w 0 3))
  | 0x4F => some (.vtanh (fld w 19 5) (fld w 14 5) (fld w 6 3) (fld w 4 2) (fld w 0 3))
  | 0x50 => some (.vand (fld w 19 5) (fld w 14 5) (fld w 9 5) (fld w 6 3) (fld w 4 2) (fld w 3 1) (fld w 0 3))
  | 0x51 => some (.vor (fld w 19 5) (fld w 14 5) (fld w 9 5) (fld w 6 3) (fld w 4 2) (fld w 3 1) (fld w 0 3))
  | 0x52 => some (.vxor (fld w 19 5) (fld w 14 5) (fld w 9 5) (fld w 6 3) (fld w 4 2) (fld w 3 1) (fld w 0 3))
  | 0x53 => some (.vshl (fld w 19 5) (fld w 14 5) (fld w 9 5) (fld w 6 3) (fld w 4 2) (fld w 3 1) (fld w 0 3))
  | 0x54 => some (.vshr (fld w 19 5) (fld w 14 5) (fld w 9 5) (fld w 6 3) (fld w 4 2) (fld w 3 1) (fld w 0 3))
  | 0x55 => some (.vsra (fld w 19 5) (fld w 14 5) (fld w 9 5) (fld w 6 3) (fld w 4 2) (fld w 3 1) (fld w 0 3))
  | 0x56 => some (.vcmpeq (fld w 19 3) (fld w 14 5) (fld w 9 5) (fld w 6 3) (fld w 4 2) (fld w 3 1) (fld w 0 3))
  | 0x57 => some (.vcmplt (fld w 19 3) (fld w 14 5) (fld w 9 5) (fld w 6 3) (fld w 4 2) (fld w 3 1) (fld w 0 3))
  | 0x58 => some (.vcmple (fld w 19 3) (fld w 14 5) (fld w 9 5) (fld w 6 3) (fld w 4 2) (fld w 3 1) (fld w 0 3))
  | 0x59 => some (.vcvt (fld w 19 5) (fld w 14 5) (fld w 9 3) (fld w 6 3) (fld w 4 2) (fld w 0 3))
  | 0x5A => some (.vsel (fld w 19 5) (fld w 14 5) (fld w 9 5) (fld w 6 3) (fld w 4 2) (fld w 3 1) (fld w 0 3))
  | 0x5B => some (.vredsum (fld w 19 5) (fld w 14 5) (fld w 6 3) (fld w 4 2) (fld w 0 3))
  | 0x5C => some (.vredmax (fld w 19 5) (fld w 14 5) (fld w 6 3) (fld w 4 2) (fld w 0 3))
  | 0x5D => some (.vredmin (fld w 19 5) (fld w 14 5) (fld w 6 3) (fld w 4 2) (fld w 0 3))
  | 0x5E => some (.vargmax (fld w 19 5) (fld w 14 5) (fld w 6 3) (fld w 4 2) (fld w 0 3))
  | 0x5F => some (.vperm (fld w 19 5) (fld w 14 5) (fld w 9 5) (fld w 6 3) (fld w 4 2) (fld w 3 1) (fld w 0 3))
  | 0x60 => some (.vslideu (fld w 19 5) (fld w 14 5) (fld w 11 3) (fld w 9 2) (fld w 6 3) (fld w 0 6))
  | 0x61 => some (.vslided (fld w 19 5) (fld w 14 5) (fld w 11 3) (fld w 9 2) (fld w 6 3) (fld w 0 6))
  | 0x62 => some (.vbcast (fld w 19 5) (fld w 14 5) (fld w 11 3) (fld w 9 2) (fld w 6 3) (fld w 0 6))
  | 0x63 => some (.viota (fld w 19 5) (fld w 14 3) (fld w 6 3) (fld w 4 2) (fld w 0 3))
  | 0x64 => match (fld w 3 1).toNat with
    | 0 => some (.vmv (fld w 19 5) (fld w 14 5) (fld w 6 3) (fld w 4 2) (fld w 0 3))
    | 1 => some (.vmvScalar (fld w 19 5) (fld w 9 5) (fld w 6 3) (fld w 4 2) (fld w 0 3))
    | _ => none
  | 0x65 => match (fld w 3 1).toNat with
    | 1 => some (.vtopk (fld w 19 5) (fld w 14 5) (fld w 9 5) (fld w 6 3) (fld w 4 2) (fld w 0 3))
    | _ => none
  | 0x66 => match (fld w 4 2).toNat with
    | 2 => some (.vmfa (fld w 19 5) (fld w 14 3) (fld w 6 3) (fld w 0 3))
    | _ => none
  | 0x67 => match (fld w 4 2).toNat with
    | 2 => some (.vmta (fld w 19 3) (fld w 14 5) (fld w 6 3) (fld w 0 3))
    | _ => none
  | 0x68 => some (.vext (fld w 19 5) (fld w 14 5) (fld w 11 3) (fld w 6 3) (fld w 0 6))
  | 0x70 => some (.vld (fld w 19 5) (fld w 14 5) (fld w 9 5) (fld w 6 3) (fld w 4 2) (fld w 0 3))
  | 0x71 => some (.vst (fld w 19 5) (fld w 14 5) (fld w 9 5) (fld w 6 3) (fld w 4 2) (fld w 3 1) (fld w 0 3))
  | 0x72 => some (.vlds (fld w 19 5) (fld w 14 5) (fld w 9 5) (fld w 6 3) (fld w 4 2) (fld w 0 3))
  | 0x73 => some (.vsts (fld w 19 5) (fld w 14 5) (fld w 9 5) (fld w 6 3) (fld w 4 2) (fld w 3 1) (fld w 0 3))
  | 0x74 => some (.vgath (fld w 19 5) (fld w 14 5) (fld w 9 5) (fld w 6 3) (fld w 4 2) (fld w 0 3))
  | 0x75 => some (.vscat (fld w 19 5) (fld w 14 5) (fld w 9 5) (fld w 6 3) (fld w 4 2) (fld w 3 1) (fld w 0 3))
  | 0x76 => some (.vscadd (fld w 19 5) (fld w 14 5) (fld w 9 5) (fld w 6 3) (fld w 4 2) (fld w 3 1) (fld w 0 3))
  | 0x78 => some (.kand (fld w 19 3) (fld w 14 3) (fld w 9 3))
  | 0x79 => some (.kor (fld w 19 3) (fld w 14 3) (fld w 9 3))
  | 0x7A => some (.knot (fld w 19 3) (fld w 14 3))
  | 0x7B => some (.kpop (fld w 19 5) (fld w 14 3))
  | 0x7C => some (.kfirst (fld w 19 5) (fld w 14 3))
  | 0x7D => some (.kld (fld w 19 3) (fld w 14 5) (fld w 9 5))
  | 0x7E => some (.kst (fld w 19 3) (fld w 14 5) (fld w 9 5) (fld w 3 1))
  | _ => none

/-- The engine class (R71 and the engine chapters). -/
def selectEngine (w : BitVec 32) : Option Instr :=
  match (fld w 24 8).toNat with
  | 0x80 => match (fld w 0 5).toNat with
    | 0 => some (.hld (fld w 14 5) (fld w 5 4))
    | _ => none
  | 0x81 => match (fld w 3 2).toNat with
    | 0 => some (.hset (fld w 14 5) (fld w 5 4) (fld w 0 4))
    | 1 => some (.hset (fld w 14 5) (fld w 5 4) (fld w 0 4))
    | 2 => some (.hsetD (fld w 14 5) (fld w 5 4) (fld w 0 3))
    | _ => none
  | 0x82 => match (fld w 3 2).toNat with
    | 0 => some (.hget (fld w 19 5) (fld w 5 4) (fld w 0 4))
    | 1 => some (.hget (fld w 19 5) (fld w 5 4) (fld w 0 4))
    | 2 => some (.hgetD (fld w 19 5) (fld w 5 4) (fld w 0 3))
    | _ => none
  | 0x84 => match (fld w 0 5).toNat with
    | 0 => some (.halloc (fld w 19 5) (fld w 14 5))
    | 1 => some (.hallocN (fld w 19 5) (fld w 14 5) (fld w 9 5))
    | _ => none
  | 0x85 => match (fld w 0 5).toNat with
    | 0 => some (.hfree (fld w 14 5))
    | _ => none
  | 0x86 => match (fld w 0 5).toNat with
    | 0 => some (.hwait (fld w 19 5) (fld w 14 5) (fld w 9 5))
    | _ => none
  | 0x87 => match (fld w 0 5).toNat with
    | 0 => some (.hspace (fld w 19 5) (fld w 14 5) (fld w 9 5))
    | _ => none
  | 0x88 => match (fld w 0 5).toNat with
    | 0 => some (.hadvP (fld w 14 5) (fld w 9 5))
    | 1 => some (.hadvC (fld w 14 5) (fld w 9 5))
    | _ => none
  | 0x89 => match (fld w 0 5).toNat with
    | 0 => some (.hstat (fld w 19 5) (fld w 14 5))
    | 1 => some (.hstatLo (fld w 19 5) (fld w 14 5))
    | 2 => some (.hstatHi (fld w 19 5) (fld w 14 5))
    | _ => none
  | 0x8C => match (fld w 0 5).toNat with
    | 0 => some (.tmov (fld w 19 5) (fld w 14 5) (fld w 9 5) (fld w 5 4))
    | 1 => some (.tmovTg (fld w 19 5) (fld w 14 5) (fld w 9 5) (fld w 5 4))
    | _ => none
  | 0x8D => match (fld w 0 5).toNat with
    | 0 => some (.ttag (fld w 19 5) (fld w 14 5) (fld w 9 5))
    | 1 => some (.ttagCas (fld w 19 5) (fld w 14 5) (fld w 9 5))
    | _ => none
  | 0x8E => match (fld w 0 5).toNat with
    | 0 => some (.tget (fld w 19 5) (fld w 14 5))
    | _ => none
  | 0x90 => match (fld w 0 5).toNat with
    | 0 => some (.cpy (fld w 19 5) (fld w 14 5) (fld w 9 5) (fld w 5 4))
    | _ => none
  | 0x91 => match (fld w 0 5).toNat with
    | 0 => some (.gath (fld w 19 5) (fld w 14 5) (fld w 9 5) (fld w 5 4))
    | _ => none
  | 0x92 => match (fld w 0 5).toNat with
    | 0 => some (.scat (fld w 19 5) (fld w 14 5) (fld w 9 5) (fld w 5 4))
    | _ => none
  | 0x93 => match (fld w 0 5).toNat with
    | 0 => some (.fill (fld w 19 5) (fld w 14 5) (fld w 9 5) (fld w 5 4))
    | _ => none
  | 0x94 => match (fld w 0 5).toNat with
    | 0 => some (.coll (fld w 19 5) (fld w 14 5) (fld w 9 5) (fld w 5 4))
    | _ => none
  | 0x95 => match (fld w 0 5).toNat with
    | 0 => some (.xwait (fld w 19 5) (fld w 14 5))
    | 1 => some (.xwaitAll (fld w 19 5))
    | _ => none
  | 0x96 => match (fld w 0 5).toNat with
    | 0 => some (.xstat (fld w 19 5) (fld w 14 5))
    | _ => none
  | 0x98 => some (.mma (fld w 21 3) (fld w 15 6) (fld w 9 6) (fld w 5 4) (fld w 2 1) (fld w 1 1) (fld w 0 1))
  | 0x99 => some (.mmaz (fld w 21 3) (fld w 15 6) (fld w 9 6) (fld w 5 4) (fld w 2 1) (fld w 1 1) (fld w 0 1))
  | 0x9A => some (.mmas (fld w 21 3) (fld w 15 6) (fld w 9 6) (fld w 5 4) (fld w 2 1) (fld w 1 1) (fld w 0 1))
  | 0x9B => match (fld w 0 1).toNat with
    | 0 => some (.azeroF32 (fld w 21 3))
    | 1 => some (.azeroI32 (fld w 21 3))
    | _ => none
  | 0x9C => match (fld w 3 1).toNat with
    | 0 => some (.ald (fld w 21 3) (fld w 16 5) (fld w 8 5) (fld w 0 3))
    | 1 => some (.aldV (fld w 21 3) (fld w 8 5) (fld w 0 3))
    | _ => none
  | 0x9D => match (fld w 3 1).toNat with
    | 0 => some (.ast (fld w 16 5) (fld w 13 3) (fld w 8 5) (fld w 5 1) (fld w 4 1) (fld w 0 3))
    | 1 => some (.astV (fld w 16 5) (fld w 13 3) (fld w 5 1) (fld w 0 3))
    | _ => none
  | 0x9E => some (.cbld (fld w 19 2) (fld w 14 5))
  | 0x9F => some (.mcmd (fld w 14 5) (fld w 9 5) (fld w 5 4))
  | 0xA0 => match (fld w 0 5).toNat with
    | 0 => some (.cgemv (fld w 19 5) (fld w 14 5) (fld w 9 5) (fld w 5 4))
    | _ => none
  | 0xA4 => some (.gld (fld w 19 5) (fld w 14 5) (fld w 4 1) (fld w 0 1))
  | 0xA5 => some (.gst (fld w 19 5) (fld w 14 5) (fld w 4 1))
  | 0xA6 => some (.gacc (fld w 19 5) (fld w 14 5) (fld w 9 5) (fld w 5 4) (fld w 4 1))
  | 0xA7 => some (.gsub (fld w 19 5) (fld w 14 5) (fld w 9 5) (fld w 5 4) (fld w 4 1))
  | 0xA8 => some (.gschur (fld w 19 5) (fld w 14 5) (fld w 5 4) (fld w 4 1))
  | 0xA9 => some (.gdamp (fld w 19 5) (fld w 14 5) (fld w 9 5) (fld w 4 1))
  | 0xAA => some (.gsolve (fld w 19 5) (fld w 14 5) (fld w 4 1))
  | 0xAB => some (.gresid (fld w 19 5) (fld w 14 5) (fld w 9 5) (fld w 4 1))
  | 0xAC => some (.gsend (fld w 19 5) (fld w 14 5) (fld w 9 5) (fld w 4 1) (fld w 0 1))
  | 0xB0 => match (fld w 0 5).toNat with
    | 0 => some (.snap (fld w 19 5) (fld w 14 5) (fld w 9 5))
    | 1 => some (.snapOpen (fld w 19 5) (fld w 14 5))
    | 2 => some (.snapJoin (fld w 14 5))
    | 3 => some (.snapFin (fld w 14 5))
    | _ => none
  | 0xB1 => match (fld w 0 5).toNat with
    | 0 => some (.scommit (fld w 19 5) (fld w 14 5) (fld w 9 5))
    | _ => none
  | 0xB2 => match (fld w 0 5).toNat with
    | 0 => some (.sabort (fld w 14 5))
    | _ => none
  | _ => none

/-- The control class (R71, R336 and the control chapters). -/
def selectControl (w : BitVec 32) : Option Instr :=
  match (fld w 24 8).toNat with
  | 0xC0 => some (.spawn (fld w 19 5) (fld w 14 5) (fld w 9 5))
  | 0xC1 => match (fld w 0 9).toNat with
    | 0 => some (.halt)
    | 1 => some (.haltS (fld w 14 5) (fld w 9 5))
    | _ => none
  | 0xC2 => some (.yield)
  | 0xC3 => some (.join (fld w 19 5) (fld w 14 5))
  | 0xC4 => some (.leave (fld w 19 5))
  | 0xC5 => some (.barset (fld w 19 5) (fld w 14 5) (fld w 0 3))
  | 0xC6 => some (.bararr (fld w 19 5) (fld w 0 3))
  | 0xC7 => some (.barwt (fld w 19 5) (fld w 14 5) (fld w 0 3))
  | 0xC8 => some (.barsync (fld w 19 5) (fld w 0 3))
  | 0xC9 => some (.waitm (fld w 19 5) (fld w 14 5))
  | 0xCA => some (.send (fld w 19 5) (fld w 14 5) (fld w 0 2))
  | 0xCB => some (.sendw (fld w 19 5) (fld w 14 5) (fld w 0 2))
  | 0xCC => match (fld w 0 9).toNat with
    | 0 => some (.capmk (fld w 19 5) (fld w 14 5))
    | 1 => some (.capmkDv (fld w 19 5) (fld w 14 5) (fld w 9 5))
    | _ => none
  | 0xCD => match (fld w 0 9).toNat with
    | 0 => some (.caprv (fld w 19 5) (fld w 14 5))
    | _ => none
  | 0xCE => some (.fwd (fld w 14 5))
  | 0xCF => some (.expect (fld w 19 5) (fld w 0 2))
  | 0xD0 => some (.dcnt (fld w 19 5) (fld w 14 5) (fld w 9 5))
  | 0xD1 => match (fld w 0 2).toNat with
    | 0 => some (.taskq (fld w 14 5) (fld w 9 5) (fld w 2 1))
    | 1 => some (.taskqCap (fld w 14 5) (fld w 9 5) (fld w 2 1))
    | 2 => some (.taskqOwn (fld w 14 5) (fld w 9 5))
    | _ => none
  | 0xD2 => some (.taskend (fld w 14 5))
  | 0xD3 => some (.opcall (fld w 19 5) (fld w 14 5) (fld w 0 14))
  | 0xD4 => some (.wfe (fld w 19 5) (fld w 14 5))
  | 0xD8 => some (.trap (fld w 14 5) (fld w 0 5))
  | 0xD9 => some (.eret)
  | 0xDA => some (.ckpt (fld w 19 5) (fld w 14 5) (fld w 0 1))
  | 0xDB => some (.step (fld w 19 5) (fld w 0 14))
  | 0xDC => match (fld w 0 2).toNat with
    | 0 => some (.migpt (fld w 19 5))
    | 1 => some (.migptBind (fld w 19 5))
    | 2 => some (.migptFree (fld w 19 5))
    | _ => none
  | 0xDD => some (.casc (fld w 19 5) (fld w 14 5) (fld w 0 1))
  | _ => none

/-- R72 steps 1 and 2 as far as they choose the row; the class stands in bits [31:30] (R63). -/
def select (w : BitVec 32) : Option Instr :=
  match (fld w 30 2).toNat with
  | 0 => selectScalar w
  | 1 => selectVector w
  | 2 => selectEngine w
  | _ => selectControl w

/-- Whether a group of `n` registers starting at `v` is misaligned (R72 step 3, R222). -/
def misaligned (v : BitVec 5) (n : Nat) : Bool := v.toNat % n != 0

/-- Whether two groups share a register without being equal (R72 step 6, R222). -/
def partlyOverlap (a : BitVec 5) (n : Nat) (b : BitVec 5) (m : Nat) : Bool :=
  a.toNat < b.toNat + m && b.toNat < a.toNat + n && !(a == b && n == m)

/-- DSP values 10 and 11 and ASP value 11 are unassigned (R67). -/
def spaceBad (p q : BitVec 2) : Bool := p.toNat ≥ 2 || q.toNat == 3

/-- The register bits above the number in an m or q space are reserved (R67). -/
def spaceReserved (d a : BitVec 5) (p q : BitVec 2) : Bool :=
  (p.toNat == 1 && d.toNat ≥ 8) || (q.toNat == 1 && a.toNat ≥ 16) || (q.toNat == 2 && a.toNat ≥ 8)

/-- The permitted types of the element-wise arithmetic whose second operand is a group or a scalar (R228, R222). -/
def binBad (tys : List Nat) (d a b : BitVec 5) (g : BitVec 2) (s : BitVec 1) (t : BitVec 3) : Bool :=
  !tys.contains t.toNat || misaligned d (groupOf g) || misaligned a (groupOf g) ||
    (s.toNat == 0 && misaligned b (groupOf g))

/-- The same for the unary forms. -/
def unBad (tys : List Nat) (d a : BitVec 5) (g : BitVec 2) (t : BitVec 3) : Bool :=
  !tys.contains t.toNat || misaligned d (groupOf g) || misaligned a (groupOf g)

/-- Compares write a mask and take groups of at most 256 elements (R223, R234). -/
def cmpBad (a b : BitVec 5) (g : BitVec 2) (s : BitVec 1) (t : BitVec 3) : Bool :=
  groupOf g * tyLanes t > 256 || misaligned a (groupOf g) || (s.toNat == 0 && misaligned b (groupOf g))

/-- A gather or scatter: data group at vd, index group at vd + G (R244). -/
def gathBad (tys : List Nat) (d : BitVec 5) (g : BitVec 2) (t : BitVec 3) : Bool :=
  !tys.contains t.toNat || groupOf g * tyLanes t > 256 || d.toNat + 2 * groupOf g > 32 || misaligned d (groupOf g)

/-- All eight types. -/
def tyAll : List Nat := [0, 1, 2, 3, 4, 5, 6, 7]
/-- The floating types. -/
def tyF : List Nat := [0, 1, 2, 3]
/-- The integer types. -/
def tyI : List Nat := [4, 5, 6, 7]

/-- R72 steps 2 and 3: a sub-field value that is unassigned for the selected row, or a misaligned register group. -/
def unassignedIn : Instr → Bool
  | .add _ _ _ p q => spaceBad p q
  | .sub _ _ _ p q => spaceBad p q
  | .and _ _ _ p q => spaceBad p q
  | .or _ _ _ p q => spaceBad p q
  | .xor _ _ _ p q => spaceBad p q
  | .andn _ _ _ p q => spaceBad p q
  | .sll _ _ _ p q => spaceBad p q
  | .srl _ _ _ p q => spaceBad p q
  | .sra _ _ _ p q => spaceBad p q
  | .mul _ _ _ p q => spaceBad p q
  | .mulh _ _ _ p q => spaceBad p q
  | .mulhu _ _ _ p q => spaceBad p q
  | .div _ _ _ p q => spaceBad p q
  | .divu _ _ _ p q => spaceBad p q
  | .rem _ _ _ p q => spaceBad p q
  | .remu _ _ _ p q => spaceBad p q
  | .slt _ _ _ p q => spaceBad p q
  | .sltu _ _ _ p q => spaceBad p q
  | .min _ _ _ p q => spaceBad p q
  | .max _ _ _ p q => spaceBad p q
  | .minu _ _ _ p q => spaceBad p q
  | .maxu _ _ _ p q => spaceBad p q
  | .clz _ _ p q => spaceBad p q
  | .ctz _ _ p q => spaceBad p q
  | .popc _ _ p q => spaceBad p q
  | .fadd _ _ _ p q => spaceBad p q
  | .fsub _ _ _ p q => spaceBad p q
  | .fmul _ _ _ p q => spaceBad p q
  | .fdiv _ _ _ p q => spaceBad p q
  | .fsqrt _ _ p q => spaceBad p q
  | .fmin _ _ _ p q => spaceBad p q
  | .fmax _ _ _ p q => spaceBad p q
  | .feq _ _ _ p q => spaceBad p q
  | .flt _ _ _ p q => spaceBad p q
  | .fle _ _ _ p q => spaceBad p q
  | .fcvtif _ _ p q => spaceBad p q
  | .fcvtfi _ _ p q => spaceBad p q
  | .fclass _ _ p q => spaceBad p q
  | .ld8 _ _ _ e _ => e.toNat == 2
  | .ld8u _ _ _ e _ => e.toNat == 2
  | .ld16 _ _ _ e _ => e.toNat == 2
  | .ld16u _ _ _ e _ => e.toNat == 2
  | .ld32 _ _ _ e _ => e.toNat == 2
  | .ld32u _ _ _ e _ => e.toNat == 2
  | .ld64 _ _ _ e _ => e.toNat == 2
  | .ldfe _ _ _ e _ => e.toNat == 2
  | .ldff _ _ _ e _ => e.toNat == 2
  | .st8 _ _ _ e _ => e.toNat == 1
  | .st16 _ _ _ e _ => e.toNat == 1
  | .st32 _ _ _ e _ => e.toNat == 1
  | .st64 _ _ _ e _ => e.toNat == 1
  | .stef _ _ _ e _ => e.toNat == 1
  | .stff _ _ _ e _ => e.toNat == 1
  | .csrr _ n => !csrAssigned n.toNat
  | .csrw _ n => !csrWritable n.toNat
  | .vadd d a b _ g s t => binBad tyAll d a b g s t
  | .vsub d a b _ g s t => binBad tyAll d a b g s t
  | .vmul d a b _ g s t => binBad tyAll d a b g s t
  | .vfma d a b _ g s t => binBad tyAll d a b g s t
  | .vfms d a b _ g s t => binBad tyAll d a b g s t
  | .vmin d a b _ g s t => binBad tyAll d a b g s t
  | .vmax d a b _ g s t => binBad tyAll d a b g s t
  | .vdiv d a b _ g s t => binBad tyF d a b g s t
  | .vabs d a _ g t => unBad [0, 1, 2, 3, 4, 5, 6] d a g t
  | .vneg d a _ g t => unBad [0, 1, 2, 3, 4, 5, 6] d a g t
  | .vsqrt d a _ g t => unBad tyF d a g t
  | .vrsqrt d a _ g t => unBad tyF d a g t
  | .vrcp d a _ g t => unBad tyF d a g t
  | .vexp2 d a _ g t => unBad tyF d a g t
  | .vlog2 d a _ g t => unBad tyF d a g t
  | .vtanh d a _ g t => unBad tyF d a g t
  | .vand d a b _ g s t => binBad tyAll d a b g s t
  | .vor d a b _ g s t => binBad tyAll d a b g s t
  | .vxor d a b _ g s t => binBad tyAll d a b g s t
  | .vshl d a b _ g s t => binBad tyI d a b g s t
  | .vshr d a b _ g s t => binBad tyI d a b g s t
  | .vsra d a b _ g s t => binBad tyI d a b g s t
  | .vcmpeq _ a b _ g s t => cmpBad a b g s t
  | .vcmplt _ a b _ g s t => cmpBad a b g s t
  | .vcmple _ a b _ g s t => cmpBad a b g s t
  | .vcvt d a u _ g t =>
    cvtGroup (groupOf g) t u > 8 || misaligned d (groupOf g) || misaligned a (cvtGroup (groupOf g) t u)
  | .vsel d a b _ g s t => binBad tyAll d a b g s t
  | .vredsum _ a _ g _ => misaligned a (groupOf g)
  | .vredmax _ a _ g _ => misaligned a (groupOf g)
  | .vredmin _ a _ g _ => misaligned a (groupOf g)
  | .vargmax _ a _ g _ => misaligned a (groupOf g)
  | .vperm d a b _ g s t => binBad tyAll d a b g s t
  | .vslideu d a _ g t _ => unBad tyAll d a g t
  | .vslided d a _ g t _ => unBad tyAll d a g t
  | .vbcast d a _ g t _ => unBad tyAll d a g t
  | .viota d _ _ g t => !tyI.contains t.toNat || groupOf g * tyLanes t > 256 || misaligned d (groupOf g)
  | .vmv d a _ g t => unBad tyAll d a g t
  | .vmvScalar d _ _ g _ => misaligned d (groupOf g)
  | .vtopk d a _ _ g t => !([0, 1, 2] : List Nat).contains t.toNat || misaligned d 2 || misaligned a (groupOf g)
  | .vmfa d _ _ t => !([0, 4] : List Nat).contains t.toNat || misaligned d 4
  | .vmta _ a _ t => !([0, 4] : List Nat).contains t.toNat || misaligned a 4
  | .vext _ a _ _ _ => misaligned a 2
  | .vld d _ _ _ g _ => misaligned d (groupOf g)
  | .vst d _ _ _ g _ _ => misaligned d (groupOf g)
  | .vlds d _ _ _ g _ => misaligned d (groupOf g)
  | .vsts d _ _ _ g _ _ => misaligned d (groupOf g)
  | .vgath d _ _ _ g t => gathBad tyAll d g t
  | .vscat d _ _ _ g _ t => gathBad tyAll d g t
  | .vscadd d _ _ _ g _ t => gathBad [0, 1, 2, 4] d g t
  | .aldV _ v t => misaligned v (accGroup t)
  | .astV v _ _ t => misaligned v (accGroup t)
  | .send _ _ c => c.toNat == 3
  | .sendw _ _ c => c.toNat == 3
  | .expect d c => c.toNat == 3 || (c.toNat == 0 && (d.toNat == 0 || d.toNat ≥ 8))
  | _ => false

/-- The bits of the word that the selected row holds reserved whatever its other fields (R72 step 4, R220, R248 and
the field descriptions). -/
def reservedMask : Instr → Nat
  | .vld .. => 0x8
  | .vlds .. => 0x8
  | .vgath .. => 0x8
  | .gacc .. => 0xF
  | .gsub .. => 0xF
  | .mma .. => 0x18
  | .mmaz .. => 0x18
  | .mmas .. => 0x18
  | .hallocN .. => 0x1E0
  | .hwait .. => 0x1E0
  | .hspace .. => 0x1E0
  | .ttag .. => 0x1E0
  | .ttagCas .. => 0x1E0
  | .snap .. => 0x1E0
  | .scommit .. => 0x1E0
  | .gsend .. => 0x1EE
  | .gdamp .. => 0x1EF
  | .gresid .. => 0x1EF
  | .lea .. => 0x1F0
  | .spawn .. => 0x1FF
  | .dcnt .. => 0x1FF
  | .vext .. => 0x600
  | .vcvt .. => 0x3008
  | .clz .. => 0x3E00
  | .ctz .. => 0x3E00
  | .popc .. => 0x3E00
  | .fsqrt .. => 0x3E00
  | .fcvtif .. => 0x3E00
  | .fcvtfi .. => 0x3E00
  | .fclass .. => 0x3E00
  | .vmv .. => 0x3E00
  | .capmk .. => 0x3E00
  | .caprv .. => 0x3E00
  | .vabs .. => 0x3E08
  | .vneg .. => 0x3E08
  | .vsqrt .. => 0x3E08
  | .vrsqrt .. => 0x3E08
  | .vrcp .. => 0x3E08
  | .vexp2 .. => 0x3E08
  | .vlog2 .. => 0x3E08
  | .vtanh .. => 0x3E08
  | .vredsum .. => 0x3E08
  | .vredmax .. => 0x3E08
  | .vredmin .. => 0x3E08
  | .vargmax .. => 0x3E08
  | .gschur .. => 0x3E0F
  | .slli .. => 0x3FC0
  | .srli .. => 0x3FC0
  | .srai .. => 0x3FC0
  | .halloc .. => 0x3FE0
  | .hstat .. => 0x3FE0
  | .hstatLo .. => 0x3FE0
  | .hstatHi .. => 0x3FE0
  | .tget .. => 0x3FE0
  | .xwait .. => 0x3FE0
  | .xstat .. => 0x3FE0
  | .snapOpen .. => 0x3FE0
  | .gld .. => 0x3FEE
  | .gst .. => 0x3FEF
  | .gsolve .. => 0x3FEF
  | .barset .. => 0x3FF8
  | .barwt .. => 0x3FF8
  | .send .. => 0x3FFC
  | .sendw .. => 0x3FFC
  | .ckpt .. => 0x3FFE
  | .casc .. => 0x3FFE
  | .join .. => 0x3FFF
  | .waitm .. => 0x3FFF
  | .wfe .. => 0x3FFF
  | .ald .. => 0xE0F0
  | .viota .. => 0x63E08
  | .vmfa .. => 0x63E08
  | .kpop .. => 0x63FFF
  | .kfirst .. => 0x63FFF
  | .csrr .. => 0x7C000
  | .vmvScalar .. => 0x7C000
  | .step .. => 0x7C000
  | .randBnd .. => 0x7C1FC
  | .hget .. => 0x7FE00
  | .hgetD .. => 0x7FE00
  | .xwaitAll .. => 0x7FFE0
  | .qstat .. => 0x7FFF8
  | .bararr .. => 0x7FFF8
  | .barsync .. => 0x7FFF8
  | .rand .. => 0x7FFFC
  | .randF32 .. => 0x7FFFC
  | .expect .. => 0x7FFFC
  | .migpt .. => 0x7FFFC
  | .migptBind .. => 0x7FFFC
  | .migptFree .. => 0x7FFFC
  | .leave .. => 0x7FFFF
  | .aldV .. => 0x1FE0F0
  | .azeroF32 .. => 0x1FFFFE
  | .azeroI32 .. => 0x1FFFFE
  | .vcmpeq .. => 0xC00000
  | .vcmplt .. => 0xC00000
  | .vcmple .. => 0xC00000
  | .kst .. => 0xC001F7
  | .kld .. => 0xC001FF
  | .qbindRr .. => 0xC007FF
  | .ldq .. => 0xC03C00
  | .vmta .. => 0xC03E08
  | .kand .. => 0xC631FF
  | .kor .. => 0xC631FF
  | .knot .. => 0xC63FFF
  | .qbindTx .. => 0xC7C1FF
  | .qbindRx .. => 0xC7C1FF
  | .qbindUn .. => 0xC7C7FF
  | .qbindLd .. => 0xC7C7FF
  | .ast .. => 0xE000C0
  | .astV .. => 0xE01FD0
  | .cbld .. => 0xE03FFF
  | .callwr .. => 0xF80000
  | .csrw .. => 0xF80000
  | .haltS .. => 0xF80000
  | .mcmd .. => 0xF8001F
  | .hadvP .. => 0xF801E0
  | .hadvC .. => 0xF801E0
  | .taskq .. => 0xF801F8
  | .taskqCap .. => 0xF801F8
  | .taskqOwn .. => 0xF801FC
  | .hld .. => 0xF83E00
  | .hset .. => 0xF83E00
  | .hsetD .. => 0xF83E00
  | .hfree .. => 0xF83FE0
  | .snapJoin .. => 0xF83FE0
  | .snapFin .. => 0xF83FE0
  | .sabort .. => 0xF83FE0
  | .trap .. => 0xF83FE0
  | .fwd .. => 0xF83FFF
  | .taskend .. => 0xF83FFF
  | .halt => 0xFFFE00
  | .fence .. => 0xFFFF80
  | .retw => 0xFFFFFF
  | .drain => 0xFFFFFF
  | .yield => 0xFFFFFF
  | .eret => 0xFFFFFF
  | _ => 0

/-- A scope field without an order field is reserved (R207). -/
def scopeReserved (c e : BitVec 2) : Bool := e.toNat == 0 && c.toNat != 0

/-- Bits that are reserved for some values of the row's other fields (R65, R67, R207). -/
def reservedIn : Instr → Bool
  | .add d a _ p q => spaceReserved d a p q
  | .sub d a _ p q => spaceReserved d a p q
  | .and d a _ p q => spaceReserved d a p q
  | .or d a _ p q => spaceReserved d a p q
  | .xor d a _ p q => spaceReserved d a p q
  | .andn d a _ p q => spaceReserved d a p q
  | .sll d a _ p q => spaceReserved d a p q
  | .srl d a _ p q => spaceReserved d a p q
  | .sra d a _ p q => spaceReserved d a p q
  | .mul d a _ p q => spaceReserved d a p q
  | .mulh d a _ p q => spaceReserved d a p q
  | .mulhu d a _ p q => spaceReserved d a p q
  | .div d a _ p q => spaceReserved d a p q
  | .divu d a _ p q => spaceReserved d a p q
  | .rem d a _ p q => spaceReserved d a p q
  | .remu d a _ p q => spaceReserved d a p q
  | .slt d a _ p q => spaceReserved d a p q
  | .sltu d a _ p q => spaceReserved d a p q
  | .min d a _ p q => spaceReserved d a p q
  | .max d a _ p q => spaceReserved d a p q
  | .minu d a _ p q => spaceReserved d a p q
  | .maxu d a _ p q => spaceReserved d a p q
  | .clz d a p q => spaceReserved d a p q
  | .ctz d a p q => spaceReserved d a p q
  | .popc d a p q => spaceReserved d a p q
  | .fadd d a _ p q => spaceReserved d a p q
  | .fsub d a _ p q => spaceReserved d a p q
  | .fmul d a _ p q => spaceReserved d a p q
  | .fdiv d a _ p q => spaceReserved d a p q
  | .fsqrt d a p q => spaceReserved d a p q
  | .fmin d a _ p q => spaceReserved d a p q
  | .fmax d a _ p q => spaceReserved d a p q
  | .feq d a _ p q => spaceReserved d a p q
  | .flt d a _ p q => spaceReserved d a p q
  | .fle d a _ p q => spaceReserved d a p q
  | .fcvtif d a p q => spaceReserved d a p q
  | .fcvtfi d a p q => spaceReserved d a p q
  | .fclass d a p q => spaceReserved d a p q
  | .ld8 _ _ c e _ => scopeReserved c e
  | .ld8u _ _ c e _ => scopeReserved c e
  | .ld16 _ _ c e _ => scopeReserved c e
  | .ld16u _ _ c e _ => scopeReserved c e
  | .ld32 _ _ c e _ => scopeReserved c e
  | .ld32u _ _ c e _ => scopeReserved c e
  | .ld64 _ _ c e _ => scopeReserved c e
  | .st8 _ _ c e _ => scopeReserved c e
  | .st16 _ _ c e _ => scopeReserved c e
  | .st32 _ _ c e _ => scopeReserved c e
  | .st64 _ _ c e _ => scopeReserved c e
  | .ldfe _ _ c e _ => scopeReserved c e
  | .ldff _ _ c e _ => scopeReserved c e
  | .stef _ _ c e _ => scopeReserved c e
  | .stff _ _ c e _ => scopeReserved c e
  | .send d _ c => c.toNat == 2 && d.toNat ≥ 8
  | .sendw d _ c => c.toNat == 2 && d.toNat ≥ 8
  | .expect d c => c.toNat == 1 && d.toNat ≥ 16
  | _ => false

/-- R72 step 6: two operand groups that overlap partly. Groups of one size and alignment never do, so only the
instructions with groups of different sizes are listed (R222, R235, R238, R240). -/
def overlapIn : Instr → Bool
  | .vcvt d a u _ g t => partlyOverlap d (groupOf g) a (cvtGroup (groupOf g) t u)
  | .vtopk d a _ _ g _ => partlyOverlap d 2 a (groupOf g)
  | .vext d a _ _ _ => d.toNat == a.toNat || d.toNat == a.toNat + 1
  | _ => false

/-- R72 steps 1 to 4, in order. MCMD makes these on the word it sends (R264). -/
def decodeTo4 (w : BitVec 32) : Decoded :=
  match select w with
  | none => .illegal .unassigned
  | some i =>
    if unassignedIn i then .illegal .unassigned
    else if w.toNat &&& reservedMask i ≠ 0 || reservedIn i then .illegal .reserved
    else .instr i

/-- The decoder: the checks of R72 in order, less step 5, which needs the context's privilege and is made by CSRR and
CSRW, the only privileged instructions (R175, R380); no instruction has both a privileged number and a group. -/
def decode (w : BitVec 32) : Decoded :=
  match decodeTo4 w with
  | .illegal e => .illegal e
  | .instr i => if overlapIn i then .illegal .overlap else .instr i

/-- A little-endian word from its four bytes, the first at the lowest address (R2, R63). -/
def wordOfBytes (b0 b1 b2 b3 : Byte) : BitVec 32 := b3 ++ b2 ++ b1 ++ b0

/-- The decoder on a list of bytes in address order: the instruction and the rest of the list; too few bytes are no
instruction. -/
def decodeBytes : List Byte → Option (Decoded × List Byte)
  | b0 :: b1 :: b2 :: b3 :: rest => some (decode (wordOfBytes b0 b1 b2 b3), rest)
  | _ => none

/-- The bytes of a number of the opcode table's form, in address order (R2): four for each 32-bit word. -/
def tableBytes (w : Nat) : List Byte :=
  [BitVec.ofNat 8 w, BitVec.ofNat 8 (w / 256), BitVec.ofNat 8 (w / 65536), BitVec.ofNat 8 (w / 16777216)]

/-- The instruction the decoder reads from an instruction whose bits are `w`, numbered as the opcode table numbers
them; every instruction is one 32-bit word, so the bits above `nbits` are those of `w`, which are zero. -/
def decodeTableWord (nbits w : Nat) : Option Instr :=
  match decodeBytes (tableBytes (w % 2 ^ nbits)) with
  | some (.instr i, _) => some i
  | _ => none

/-- The word of an instruction, from the encodings of R64 to R71 and the instruction chapters; a device step has
none. -/
def encode : Instr → Option (BitVec 32)
  | .add d a b p q => some (0x0#8 ++ d ++ a ++ b ++ p ++ q ++ 0x1#5)
  | .sub d a b p q => some (0x0#8 ++ d ++ a ++ b ++ p ++ q ++ 0x2#5)
  | .and d a b p q => some (0x0#8 ++ d ++ a ++ b ++ p ++ q ++ 0x3#5)
  | .or d a b p q => some (0x0#8 ++ d ++ a ++ b ++ p ++ q ++ 0x4#5)
  | .xor d a b p q => some (0x0#8 ++ d ++ a ++ b ++ p ++ q ++ 0x5#5)
  | .andn d a b p q => some (0x0#8 ++ d ++ a ++ b ++ p ++ q ++ 0x6#5)
  | .sll d a b p q => some (0x0#8 ++ d ++ a ++ b ++ p ++ q ++ 0x7#5)
  | .srl d a b p q => some (0x0#8 ++ d ++ a ++ b ++ p ++ q ++ 0x8#5)
  | .sra d a b p q => some (0x0#8 ++ d ++ a ++ b ++ p ++ q ++ 0x9#5)
  | .mul d a b p q => some (0x0#8 ++ d ++ a ++ b ++ p ++ q ++ 0xA#5)
  | .mulh d a b p q => some (0x0#8 ++ d ++ a ++ b ++ p ++ q ++ 0xB#5)
  | .mulhu d a b p q => some (0x0#8 ++ d ++ a ++ b ++ p ++ q ++ 0xC#5)
  | .div d a b p q => some (0x0#8 ++ d ++ a ++ b ++ p ++ q ++ 0xD#5)
  | .divu d a b p q => some (0x0#8 ++ d ++ a ++ b ++ p ++ q ++ 0xE#5)
  | .rem d a b p q => some (0x0#8 ++ d ++ a ++ b ++ p ++ q ++ 0xF#5)
  | .remu d a b p q => some (0x0#8 ++ d ++ a ++ b ++ p ++ q ++ 0x10#5)
  | .slt d a b p q => some (0x0#8 ++ d ++ a ++ b ++ p ++ q ++ 0x11#5)
  | .sltu d a b p q => some (0x0#8 ++ d ++ a ++ b ++ p ++ q ++ 0x12#5)
  | .min d a b p q => some (0x0#8 ++ d ++ a ++ b ++ p ++ q ++ 0x13#5)
  | .max d a b p q => some (0x0#8 ++ d ++ a ++ b ++ p ++ q ++ 0x14#5)
  | .minu d a b p q => some (0x0#8 ++ d ++ a ++ b ++ p ++ q ++ 0x15#5)
  | .maxu d a b p q => some (0x0#8 ++ d ++ a ++ b ++ p ++ q ++ 0x16#5)
  | .clz d a p q => some (0x0#8 ++ d ++ a ++ 0x0#5 ++ p ++ q ++ 0x17#5)
  | .ctz d a p q => some (0x0#8 ++ d ++ a ++ 0x0#5 ++ p ++ q ++ 0x18#5)
  | .popc d a p q => some (0x0#8 ++ d ++ a ++ 0x0#5 ++ p ++ q ++ 0x19#5)
  | .addi d a i => some (0x1#8 ++ d ++ a ++ i)
  | .andi d a i => some (0x2#8 ++ d ++ a ++ i)
  | .ori d a i => some (0x3#8 ++ d ++ a ++ i)
  | .xori d a i => some (0x4#8 ++ d ++ a ++ i)
  | .slli d a i => some (0x5#8 ++ d ++ a ++ 0x0#8 ++ i)
  | .srli d a i => some (0x6#8 ++ d ++ a ++ 0x0#8 ++ i)
  | .srai d a i => some (0x7#8 ++ d ++ a ++ 0x0#8 ++ i)
  | .slti d a i => some (0x8#8 ++ d ++ a ++ i)
  | .sltiu d a i => some (0x9#8 ++ d ++ a ++ i)
  | .lui d i => some (0xA#8 ++ d ++ i)
  | .auipc d i => some (0xB#8 ++ d ++ i)
  | .lea d a b z s => some (0xC#8 ++ d ++ a ++ b ++ 0x0#5 ++ z ++ s)
  | .fadd d a b p q => some (0xD#8 ++ d ++ a ++ b ++ p ++ q ++ 0x1#5)
  | .fsub d a b p q => some (0xD#8 ++ d ++ a ++ b ++ p ++ q ++ 0x2#5)
  | .fmul d a b p q => some (0xD#8 ++ d ++ a ++ b ++ p ++ q ++ 0x3#5)
  | .fdiv d a b p q => some (0xD#8 ++ d ++ a ++ b ++ p ++ q ++ 0x4#5)
  | .fsqrt d a p q => some (0xD#8 ++ d ++ a ++ 0x0#5 ++ p ++ q ++ 0x5#5)
  | .fmin d a b p q => some (0xD#8 ++ d ++ a ++ b ++ p ++ q ++ 0x6#5)
  | .fmax d a b p q => some (0xD#8 ++ d ++ a ++ b ++ p ++ q ++ 0x7#5)
  | .feq d a b p q => some (0xD#8 ++ d ++ a ++ b ++ p ++ q ++ 0x8#5)
  | .flt d a b p q => some (0xD#8 ++ d ++ a ++ b ++ p ++ q ++ 0x9#5)
  | .fle d a b p q => some (0xD#8 ++ d ++ a ++ b ++ p ++ q ++ 0xA#5)
  | .fcvtif d a p q => some (0xD#8 ++ d ++ a ++ 0x0#5 ++ p ++ q ++ 0xB#5)
  | .fcvtfi d a p q => some (0xD#8 ++ d ++ a ++ 0x0#5 ++ p ++ q ++ 0xC#5)
  | .fclass d a p q => some (0xD#8 ++ d ++ a ++ 0x0#5 ++ p ++ q ++ 0xD#5)
  | .rand d => some (0xE#8 ++ d ++ 0x0#19)
  | .randF32 d => some (0xE#8 ++ d ++ 0x1#19)
  | .randBnd d b => some (0xE#8 ++ d ++ 0x0#5 ++ b ++ 0x2#9)
  | .beq a b o => some (0x10#8 ++ a ++ b ++ o)
  | .bne a b o => some (0x11#8 ++ a ++ b ++ o)
  | .blt a b o => some (0x12#8 ++ a ++ b ++ o)
  | .bge a b o => some (0x13#8 ++ a ++ b ++ o)
  | .bltu a b o => some (0x14#8 ++ a ++ b ++ o)
  | .bgeu a b o => some (0x15#8 ++ a ++ b ++ o)
  | .jal o => some (0x16#8 ++ o)
  | .jalr d a i => some (0x17#8 ++ d ++ a ++ i)
  | .callw o => some (0x18#8 ++ o)
  | .callwr a i => some (0x320#13 ++ a ++ i)
  | .retw => some (0x1A000000#32)
  | .ld8 d a c e o => some (0x20#8 ++ d ++ a ++ c ++ e ++ o)
  | .ld8u d a c e o => some (0x21#8 ++ d ++ a ++ c ++ e ++ o)
  | .ld16 d a c e o => some (0x22#8 ++ d ++ a ++ c ++ e ++ o)
  | .ld16u d a c e o => some (0x23#8 ++ d ++ a ++ c ++ e ++ o)
  | .ld32 d a c e o => some (0x24#8 ++ d ++ a ++ c ++ e ++ o)
  | .ld32u d a c e o => some (0x25#8 ++ d ++ a ++ c ++ e ++ o)
  | .ld64 d a c e o => some (0x26#8 ++ d ++ a ++ c ++ e ++ o)
  | .st8 d a c e o => some (0x27#8 ++ d ++ a ++ c ++ e ++ o)
  | .st16 d a c e o => some (0x28#8 ++ d ++ a ++ c ++ e ++ o)
  | .st32 d a c e o => some (0x29#8 ++ d ++ a ++ c ++ e ++ o)
  | .st64 d a c e o => some (0x2A#8 ++ d ++ a ++ c ++ e ++ o)
  | .ldq p a o => some (0xAC#10 ++ p ++ a ++ 0x0#4 ++ o)
  | .ldfe d a c e o => some (0x2C#8 ++ d ++ a ++ c ++ e ++ o)
  | .ldff d a c e o => some (0x2D#8 ++ d ++ a ++ c ++ e ++ o)
  | .stef d a c e o => some (0x2E#8 ++ d ++ a ++ c ++ e ++ o)
  | .stff d a c e o => some (0x2F#8 ++ d ++ a ++ c ++ e ++ o)
  | .amoadd d a b c e w => some (0x30#8 ++ d ++ a ++ b ++ 0x0#4 ++ c ++ e ++ w)
  | .amoand d a b c e w => some (0x30#8 ++ d ++ a ++ b ++ 0x1#4 ++ c ++ e ++ w)
  | .amoor d a b c e w => some (0x30#8 ++ d ++ a ++ b ++ 0x2#4 ++ c ++ e ++ w)
  | .amoxor d a b c e w => some (0x30#8 ++ d ++ a ++ b ++ 0x3#4 ++ c ++ e ++ w)
  | .amomin d a b c e w => some (0x30#8 ++ d ++ a ++ b ++ 0x4#4 ++ c ++ e ++ w)
  | .amomax d a b c e w => some (0x30#8 ++ d ++ a ++ b ++ 0x5#4 ++ c ++ e ++ w)
  | .amominu d a b c e w => some (0x30#8 ++ d ++ a ++ b ++ 0x6#4 ++ c ++ e ++ w)
  | .amomaxu d a b c e w => some (0x30#8 ++ d ++ a ++ b ++ 0x7#4 ++ c ++ e ++ w)
  | .amoswap d a b c e w => some (0x30#8 ++ d ++ a ++ b ++ 0x8#4 ++ c ++ e ++ w)
  | .amocas d a b c e w => some (0x30#8 ++ d ++ a ++ b ++ 0x9#4 ++ c ++ e ++ w)
  | .amofadd32 d a b c e => some (0x30#8 ++ d ++ a ++ b ++ 0xA#4 ++ c ++ e ++ 0x0#1)
  | .amobfadd2 d a b c e => some (0x30#8 ++ d ++ a ++ b ++ 0xB#4 ++ c ++ e ++ 0x0#1)
  | .fence g x c => some (0x620000#25 ++ g ++ x ++ c)
  | .drain => some (0x32000000#32)
  | .csrr d n => some (0x33#8 ++ d ++ 0x0#5 ++ n)
  | .csrw a n => some (0x680#13 ++ a ++ n)
  | .qbindUn p => some (0xD8#10 ++ p ++ 0x0#19)
  | .qbindLd p => some (0xD8#10 ++ p ++ 0x800#19)
  | .qbindTx p e => some (0xD8#10 ++ p ++ 0x2#8 ++ e ++ 0x0#9)
  | .qbindRx p e => some (0xD8#10 ++ p ++ 0x3#8 ++ e ++ 0x0#9)
  | .qbindRr p a => some (0xD8#10 ++ p ++ a ++ 0x2000#14)
  | .qstat d p => some (0x37#8 ++ d ++ 0x0#16 ++ p)
  | .vadd d a b k g s t => some (0x40#8 ++ d ++ a ++ b ++ k ++ g ++ s ++ t)
  | .vsub d a b k g s t => some (0x41#8 ++ d ++ a ++ b ++ k ++ g ++ s ++ t)
  | .vmul d a b k g s t => some (0x42#8 ++ d ++ a ++ b ++ k ++ g ++ s ++ t)
  | .vfma d a b k g s t => some (0x43#8 ++ d ++ a ++ b ++ k ++ g ++ s ++ t)
  | .vfms d a b k g s t => some (0x44#8 ++ d ++ a ++ b ++ k ++ g ++ s ++ t)
  | .vmin d a b k g s t => some (0x45#8 ++ d ++ a ++ b ++ k ++ g ++ s ++ t)
  | .vmax d a b k g s t => some (0x46#8 ++ d ++ a ++ b ++ k ++ g ++ s ++ t)
  | .vdiv d a b k g s t => some (0x47#8 ++ d ++ a ++ b ++ k ++ g ++ s ++ t)
  | .vabs d a k g t => some (0x48#8 ++ d ++ a ++ 0x0#5 ++ k ++ g ++ 0x0#1 ++ t)
  | .vneg d a k g t => some (0x49#8 ++ d ++ a ++ 0x0#5 ++ k ++ g ++ 0x0#1 ++ t)
  | .vsqrt d a k g t => some (0x4A#8 ++ d ++ a ++ 0x0#5 ++ k ++ g ++ 0x0#1 ++ t)
  | .vrsqrt d a k g t => some (0x4B#8 ++ d ++ a ++ 0x0#5 ++ k ++ g ++ 0x0#1 ++ t)
  | .vrcp d a k g t => some (0x4C#8 ++ d ++ a ++ 0x0#5 ++ k ++ g ++ 0x0#1 ++ t)
  | .vexp2 d a k g t => some (0x4D#8 ++ d ++ a ++ 0x0#5 ++ k ++ g ++ 0x0#1 ++ t)
  | .vlog2 d a k g t => some (0x4E#8 ++ d ++ a ++ 0x0#5 ++ k ++ g ++ 0x0#1 ++ t)
  | .vtanh d a k g t => some (0x4F#8 ++ d ++ a ++ 0x0#5 ++ k ++ g ++ 0x0#1 ++ t)
  | .vand d a b k g s t => some (0x50#8 ++ d ++ a ++ b ++ k ++ g ++ s ++ t)
  | .vor d a b k g s t => some (0x51#8 ++ d ++ a ++ b ++ k ++ g ++ s ++ t)
  | .vxor d a b k g s t => some (0x52#8 ++ d ++ a ++ b ++ k ++ g ++ s ++ t)
  | .vshl d a b k g s t => some (0x53#8 ++ d ++ a ++ b ++ k ++ g ++ s ++ t)
  | .vshr d a b k g s t => some (0x54#8 ++ d ++ a ++ b ++ k ++ g ++ s ++ t)
  | .vsra d a b k g s t => some (0x55#8 ++ d ++ a ++ b ++ k ++ g ++ s ++ t)
  | .vcmpeq m a b k g s t => some (0x158#10 ++ m ++ a ++ b ++ k ++ g ++ s ++ t)
  | .vcmplt m a b k g s t => some (0x15C#10 ++ m ++ a ++ b ++ k ++ g ++ s ++ t)
  | .vcmple m a b k g s t => some (0x160#10 ++ m ++ a ++ b ++ k ++ g ++ s ++ t)
  | .vcvt d a u k g t => some (0x59#8 ++ d ++ a ++ 0x0#2 ++ u ++ k ++ g ++ 0x0#1 ++ t)
  | .vsel d a b k g s t => some (0x5A#8 ++ d ++ a ++ b ++ k ++ g ++ s ++ t)
  | .vredsum d a k g t => some (0x5B#8 ++ d ++ a ++ 0x0#5 ++ k ++ g ++ 0x0#1 ++ t)
  | .vredmax d a k g t => some (0x5C#8 ++ d ++ a ++ 0x0#5 ++ k ++ g ++ 0x0#1 ++ t)
  | .vredmin d a k g t => some (0x5D#8 ++ d ++ a ++ 0x0#5 ++ k ++ g ++ 0x0#1 ++ t)
  | .vargmax d a k g t => some (0x5E#8 ++ d ++ a ++ 0x0#5 ++ k ++ g ++ 0x0#1 ++ t)
  | .vperm d a b k g s t => some (0x5F#8 ++ d ++ a ++ b ++ k ++ g ++ s ++ t)
  | .vslideu d a k g t i => some (0x60#8 ++ d ++ a ++ k ++ g ++ t ++ i)
  | .vslided d a k g t i => some (0x61#8 ++ d ++ a ++ k ++ g ++ t ++ i)
  | .vbcast d a k g t i => some (0x62#8 ++ d ++ a ++ k ++ g ++ t ++ i)
  | .viota d a k g t => some (0x63#8 ++ d ++ 0x0#2 ++ a ++ 0x0#5 ++ k ++ g ++ 0x0#1 ++ t)
  | .vmv d a k g t => some (0x64#8 ++ d ++ a ++ 0x0#5 ++ k ++ g ++ 0x0#1 ++ t)
  | .vmvScalar d b k g t => some (0x64#8 ++ d ++ 0x0#5 ++ b ++ k ++ g ++ 0x1#1 ++ t)
  | .vtopk d a b k g t => some (0x65#8 ++ d ++ a ++ b ++ k ++ g ++ 0x1#1 ++ t)
  | .vmfa d a k t => some (0x66#8 ++ d ++ 0x0#2 ++ a ++ 0x0#5 ++ k ++ 0x4#3 ++ t)
  | .vmta d a k t => some (0x19C#10 ++ d ++ a ++ 0x0#5 ++ k ++ 0x4#3 ++ t)
  | .vext d a k t i => some (0x68#8 ++ d ++ a ++ k ++ 0x0#2 ++ t ++ i)
  | .vld d a b k g t => some (0x70#8 ++ d ++ a ++ b ++ k ++ g ++ 0x0#1 ++ t)
  | .vst d a b k g x t => some (0x71#8 ++ d ++ a ++ b ++ k ++ g ++ x ++ t)
  | .vlds d a b k g t => some (0x72#8 ++ d ++ a ++ b ++ k ++ g ++ 0x0#1 ++ t)
  | .vsts d a b k g x t => some (0x73#8 ++ d ++ a ++ b ++ k ++ g ++ x ++ t)
  | .vgath d a b k g t => some (0x74#8 ++ d ++ a ++ b ++ k ++ g ++ 0x0#1 ++ t)
  | .vscat d a b k g x t => some (0x75#8 ++ d ++ a ++ b ++ k ++ g ++ x ++ t)
  | .vscadd d a b k g x t => some (0x76#8 ++ d ++ a ++ b ++ k ++ g ++ x ++ t)
  | .kand d a b => some (0x1E0#10 ++ d ++ 0x0#2 ++ a ++ 0x0#2 ++ b ++ 0x0#9)
  | .kor d a b => some (0x1E4#10 ++ d ++ 0x0#2 ++ a ++ 0x0#2 ++ b ++ 0x0#9)
  | .knot d a => some (0x1E8#10 ++ d ++ 0x0#2 ++ a ++ 0x0#14)
  | .kpop d a => some (0x7B#8 ++ d ++ 0x0#2 ++ a ++ 0x0#14)
  | .kfirst d a => some (0x7C#8 ++ d ++ 0x0#2 ++ a ++ 0x0#14)
  | .kld d a b => some (0x1F4#10 ++ d ++ a ++ b ++ 0x0#9)
  | .kst d a b x => some (0x1F8#10 ++ d ++ a ++ b ++ 0x0#5 ++ x ++ 0x0#3)
  | .hld a h => some (0x1000#13 ++ a ++ 0x0#5 ++ h ++ 0x0#5)
  | .hset a h n => some (0x1020#13 ++ a ++ 0x0#5 ++ h ++ 0x0#1 ++ n)
  | .hsetD a h n => some (0x1020#13 ++ a ++ 0x0#5 ++ h ++ 0x2#2 ++ n)
  | .hget d h n => some (0x82#8 ++ d ++ 0x0#10 ++ h ++ 0x0#1 ++ n)
  | .hgetD d h n => some (0x82#8 ++ d ++ 0x0#10 ++ h ++ 0x2#2 ++ n)
  | .halloc d a => some (0x84#8 ++ d ++ a ++ 0x0#14)
  | .hallocN d a b => some (0x84#8 ++ d ++ a ++ b ++ 0x1#9)
  | .hfree a => some (0x10A0#13 ++ a ++ 0x0#14)
  | .hwait d a b => some (0x86#8 ++ d ++ a ++ b ++ 0x0#9)
  | .hspace d a b => some (0x87#8 ++ d ++ a ++ b ++ 0x0#9)
  | .hadvP a b => some (0x1100#13 ++ a ++ b ++ 0x0#9)
  | .hadvC a b => some (0x1100#13 ++ a ++ b ++ 0x1#9)
  | .hstat d a => some (0x89#8 ++ d ++ a ++ 0x0#14)
  | .hstatLo d a => some (0x89#8 ++ d ++ a ++ 0x1#14)
  | .hstatHi d a => some (0x89#8 ++ d ++ a ++ 0x2#14)
  | .tmov d a b h => some (0x8C#8 ++ d ++ a ++ b ++ h ++ 0x0#5)
  | .tmovTg d a b h => some (0x8C#8 ++ d ++ a ++ b ++ h ++ 0x1#5)
  | .ttag d a b => some (0x8D#8 ++ d ++ a ++ b ++ 0x0#9)
  | .ttagCas d a b => some (0x8D#8 ++ d ++ a ++ b ++ 0x1#9)
  | .tget d a => some (0x8E#8 ++ d ++ a ++ 0x0#14)
  | .cpy d a b h => some (0x90#8 ++ d ++ a ++ b ++ h ++ 0x0#5)
  | .gath d a b h => some (0x91#8 ++ d ++ a ++ b ++ h ++ 0x0#5)
  | .scat d a b h => some (0x92#8 ++ d ++ a ++ b ++ h ++ 0x0#5)
  | .fill d a b h => some (0x93#8 ++ d ++ a ++ b ++ h ++ 0x0#5)
  | .coll d a b h => some (0x94#8 ++ d ++ a ++ b ++ h ++ 0x0#5)
  | .xwait d a => some (0x95#8 ++ d ++ a ++ 0x0#14)
  | .xwaitAll d => some (0x95#8 ++ d ++ 0x1#19)
  | .xstat d a => some (0x96#8 ++ d ++ a ++ 0x0#14)
  | .mma d a b h w v u => some (0x98#8 ++ d ++ a ++ b ++ h ++ 0x0#2 ++ w ++ v ++ u)
  | .mmaz d a b h w v u => some (0x99#8 ++ d ++ a ++ b ++ h ++ 0x0#2 ++ w ++ v ++ u)
  | .mmas d a b h w v u => some (0x9A#8 ++ d ++ a ++ b ++ h ++ 0x0#2 ++ w ++ v ++ u)
  | .azeroF32 d => some (0x9B#8 ++ d ++ 0x0#21)
  | .azeroI32 d => some (0x9B#8 ++ d ++ 0x1#21)
  | .ald d e a t => some (0x9C#8 ++ d ++ e ++ 0x0#3 ++ a ++ 0x0#5 ++ t)
  | .aldV d v t => some (0x9C#8 ++ d ++ 0x0#8 ++ v ++ 0x1#5 ++ t)
  | .ast e c a x k t => some (0x4E8#11 ++ e ++ c ++ a ++ 0x0#2 ++ x ++ k ++ 0x0#1 ++ t)
  | .astV v c x t => some (0x4E8#11 ++ v ++ c ++ 0x0#7 ++ x ++ 0x1#2 ++ t)
  | .cbld n a => some (0x4F0#11 ++ n ++ a ++ 0x0#14)
  | .mcmd a b h => some (0x13E0#13 ++ a ++ b ++ h ++ 0x0#5)
  | .cgemv d a b h => some (0xA0#8 ++ d ++ a ++ b ++ h ++ 0x0#5)
  | .gld d a y t => some (0xA4#8 ++ d ++ a ++ 0x0#9 ++ y ++ 0x0#3 ++ t)
  | .gst d a y => some (0xA5#8 ++ d ++ a ++ 0x0#9 ++ y ++ 0x0#4)
  | .gacc d a b h y => some (0xA6#8 ++ d ++ a ++ b ++ h ++ y ++ 0x0#4)
  | .gsub d a b h y => some (0xA7#8 ++ d ++ a ++ b ++ h ++ y ++ 0x0#4)
  | .gschur d a h y => some (0xA8#8 ++ d ++ a ++ 0x0#5 ++ h ++ y ++ 0x0#4)
  | .gdamp d a b y => some (0xA9#8 ++ d ++ a ++ b ++ 0x0#4 ++ y ++ 0x0#4)
  | .gsolve d a y => some (0xAA#8 ++ d ++ a ++ 0x0#9 ++ y ++ 0x0#4)
  | .gresid d a b y => some (0xAB#8 ++ d ++ a ++ b ++ 0x0#4 ++ y ++ 0x0#4)
  | .gsend d a b y r => some (0xAC#8 ++ d ++ a ++ b ++ 0x0#4 ++ y ++ 0x0#3 ++ r)
  | .snap d a b => some (0xB0#8 ++ d ++ a ++ b ++ 0x0#9)
  | .snapOpen d a => some (0xB0#8 ++ d ++ a ++ 0x1#14)
  | .snapJoin a => some (0x1600#13 ++ a ++ 0x2#14)
  | .snapFin a => some (0x1600#13 ++ a ++ 0x3#14)
  | .scommit d a b => some (0xB1#8 ++ d ++ a ++ b ++ 0x0#9)
  | .sabort a => some (0x1640#13 ++ a ++ 0x0#14)
  | .spawn d a b => some (0xC0#8 ++ d ++ a ++ b ++ 0x0#9)
  | .halt => some (0xC1000000#32)
  | .haltS a b => some (0x1820#13 ++ a ++ b ++ 0x1#9)
  | .yield => some (0xC2000000#32)
  | .join d a => some (0xC3#8 ++ d ++ a ++ 0x0#14)
  | .leave d => some (0xC4#8 ++ d ++ 0x0#19)
  | .barset d a n => some (0xC5#8 ++ d ++ a ++ 0x0#11 ++ n)
  | .bararr d n => some (0xC6#8 ++ d ++ 0x0#16 ++ n)
  | .barwt d a n => some (0xC7#8 ++ d ++ a ++ 0x0#11 ++ n)
  | .barsync d n => some (0xC8#8 ++ d ++ 0x0#16 ++ n)
  | .waitm d a => some (0xC9#8 ++ d ++ a ++ 0x0#14)
  | .send d a c => some (0xCA#8 ++ d ++ a ++ 0x0#12 ++ c)
  | .sendw d a c => some (0xCB#8 ++ d ++ a ++ 0x0#12 ++ c)
  | .capmk d a => some (0xCC#8 ++ d ++ a ++ 0x0#14)
  | .capmkDv d a b => some (0xCC#8 ++ d ++ a ++ b ++ 0x1#9)
  | .caprv d a => some (0xCD#8 ++ d ++ a ++ 0x0#14)
  | .fwd a => some (0x19C0#13 ++ a ++ 0x0#14)
  | .expect d c => some (0xCF#8 ++ d ++ 0x0#17 ++ c)
  | .dcnt d a b => some (0xD0#8 ++ d ++ a ++ b ++ 0x0#9)
  | .taskq a b m => some (0x1A20#13 ++ a ++ b ++ 0x0#6 ++ m ++ 0x0#2)
  | .taskqCap a b m => some (0x1A20#13 ++ a ++ b ++ 0x0#6 ++ m ++ 0x1#2)
  | .taskqOwn a b => some (0x1A20#13 ++ a ++ b ++ 0x2#9)
  | .taskend a => some (0x1A40#13 ++ a ++ 0x0#14)
  | .opcall d a o => some (0xD3#8 ++ d ++ a ++ o)
  | .wfe d a => some (0xD4#8 ++ d ++ a ++ 0x0#14)
  | .trap a n => some (0x1B00#13 ++ a ++ 0x0#9 ++ n)
  | .eret => some (0xD9000000#32)
  | .ckpt d a f => some (0xDA#8 ++ d ++ a ++ 0x0#13 ++ f)
  | .step d n => some (0xDB#8 ++ d ++ 0x0#5 ++ n)
  | .migpt d => some (0xDC#8 ++ d ++ 0x0#19)
  | .migptBind d => some (0xDC#8 ++ d ++ 0x1#19)
  | .migptFree d => some (0xDC#8 ++ d ++ 0x2#19)
  | .casc d a m => some (0xDD#8 ++ d ++ a ++ 0x0#13 ++ m)
  | .wideInstructionAtHead => none
  | .scalarResultReturn => none
  | .windowSpill => none
  | .windowFill => none
  | .storeResolve => none
  | .storePerform => none
  | .storeFaultRecord => none
  | .ldqEntryArrival => none
  | .waitEntryRetry => none
  | .remoteWindowAccess => none
  | .bridgeHold => none
  | .tlbMissWalkStart => none
  | .walkComplete => none
  | .patrolScrub => none
  | .engineCommandStart => none
  | .engineCommandComplete => none
  | .engineFault => none
  | .engineError => none
  | .slotBecomesFull => none
  | .slotBecomesFree => none
  | .deliveryArrival => none
  | .deliveryAck => none
  | .remoteCommandAccept => none
  | .hostWrite => none
  | .hostRead => none
  | .dramChannelExit => none
  | .channelPowerDownEntry => none
  | .channelSelfRefreshEntry => none
  | .lumWrite => none
  | .xltinvPartition => none
  | .xltinvAsn => none
  | .xltinvAsnPage => none
  | .xltinvPageAllAsn => none
  | .xltinvWalkCaches => none
  | .xltinvDone => none
  | .sharingMapWrite => none
  | .sharingMapClearDone => none
  | .capkeyStageLow => none
  | .capkeyCommit => none
  | .fpFlagsSync => none
  | .ovrInfoClear => none
  | .launchqWrite => none
  | .launchRecordTake => none
  | .launchNextRecord => none
  | .slotcfgWrite => none
  | .rotWrite => none
  | .contextPlace => none
  | .contextPreempt => none
  | .parkedEvict => none
  | .timeSliceExpiry => none
  | .budgetPeriod => none
  | .grpkill => none
  | .barrierRowSignal => none
  | .barrierColumnSignal => none
  | .barrierRelease => none
  | .barrierBreak => none
  | .staggeredReleaseApply => none
  | .wfeDeadline => none
  | .loadBalance => none
  | .memberFinished => none
  | .trapEntryHandler => none
  | .trapToCmc => none
  | .ctxcmdResume => none
  | .ctxcmdResumeAt => none
  | .ctxcmdReset => none
  | .ctxcmdReleaseFrozen => none
  | .ctxcmdRaise => none
  | .tmbheadAdvance => none
  | .tmbfreeMark => none
  | .errcntRead => none
  | .cmcGroupStop => none
  | .hangWatchdog => none
  | .wallTimeLimit => none
  | .imageWriteback => none
  | .contextSave => none
  | .contextRestore => none
  | .checkpointTimer => none
  | .resumeqWrite => none
  | .resumeImageTake => none
  | .meshLinkFailure => none
  | .islctlWake => none
  | .islctlRetention => none
  | .islctlOff => none
  | .acreAutoRetention => none
  | .acreAutoOff => none
  | .acreEntryDone => none
  | .acreWakeDone => none
  | .croftStandbyEntry => none
  | .croftWake => none
  | .unitPowerGate => none
  | .unitWake => none
  | .pspatWrite => none
  | .lendingPeriod => none
  | .lenderRecall => none
  | .recallComplete => none
  | .launchSkewExpiry => none
  | .thermalMigrationCrossing => none
  | .thermalRequestWithdraw => none
  | .throttleStep => none
  | .emergencySave => none
  | .thermalTrip => none
  | .croftThermalTrip => none
  | .inhibitClear => none
  | .retentionRecordClear => none
  | .migreqRaise => none
  | .migrationHonour => none
  | .migrationTimeout => none
  | .migrationComplete => none
  | .partitionSwapOut => none
  | .partitionSwapIn => none
  | .linkPortFailure => none
  | .vfFlr => none
  | .powerOnBoot => none
  | .measExtend => none
  | .getMeasurements => none
  | .registerWrite => none
  | .receiveQueueArrival => none
  | .apertureAccess => none
  | .deviceOff => none

end Sys2Proof
end

