-- ==== Sys2Proof/Config.lean ====
section
/-! DEFINITION. What an implementation fixes and the spec leaves open. An opaque constant has no body any proof can see:
a statement holds whatever its value is. -/

namespace Sys2Proof.Config

/-- A free choice (log 8): applied to the state's counter `fresh`, which every use advances. -/
opaque freeNat : Nat → Nat

/-- The firmware image's fields, whose places in the header R425 does not give (log 16): the public key's 97 bytes. -/
opaque imageKey : List Byte → List Byte
/-- The security version SVN of an image (R425). -/
opaque imageSvn : List Byte → Nat
/-- The header and body bytes the signature covers (R425). -/
opaque imageSigned : List Byte → List Byte
/-- The signature (r, s) of an image (R425). -/
opaque imageSig : List Byte → Nat × Nat
/-- The fused KEYHASH (R425), 48 bytes. -/
opaque keyHash : List Nat
/-- The fused SVNMIN (R425). -/
opaque svnMin : Nat
/-- The CMC images an accepted firmware image loads (R425). -/
opaque cmcImages : List Byte → List (List Byte)
/-- What boot extends measurement register n with (R427): the ROM, the firmware image, the CMC images, the configuration. -/
opaque measData : Nat → List Byte → List Byte
/-- The identity key's secret scalar, from the fused device secret and MEAS1 (R427). -/
opaque identityKey : BitVec 384 → Nat
/-- The nonce of the signature made at this count. -/
opaque signNonce : Nat → Nat

/-- Whether this is a 256 GiB part (R36); otherwise 128 GiB is populated. -/
opaque bigPart : Bool

/-- The populated bytes of a linked device's DRAM (R422), by device number. -/
opaque peerBytes : Nat → Nat

/-- Whether linked device `d` admits this device's traffic (R421, R422), at a moment given by `fresh`. -/
opaque peerAdmits : Nat → Nat → Bool

end Sys2Proof.Config
end

