-- ==== Sys2Proof/Machine/State.lean ====
section
/-! DEFINITION. The whole state of the device as plain data: contexts, units, clusters, partitions, the device registers,
memory, what is in flight between agents, and the agenda that says which agent acts next. -/

namespace Sys2Proof.Machine

/-- Why a step can stop. -/
inductive Fault where
  /-- The agenda names a unit, cluster, partition, context or queue place the device does not have. Raised by the device
  steps alone. Safe: no device has such an agent, so nothing is claimed of one. -/
  | noSuchAgent
deriving DecidableEq, Repr

/-- Why a step has no meaning. -/
inductive Refusal where
  /-- An instruction without a meaning in this model. Safe: nothing is claimed of it. -/
  | notModelled (mnemonic : String)
deriving DecidableEq, Repr

/-- Scalar registers s8 to s23 of an older resident window (R168, R204), numbered 8 to 23, with their full bits. -/
structure Win where
  regs : Map Word := []
  full : BitVec 16 := BitVec.allOnes 16
deriving DecidableEq, Repr

/-- An entry of a load-data queue (R212): before arrival it names the place it reads. -/
structure LdqEnt where
  id : Nat
  loc : Nat
  va : Word := 0
  arrived : Bool := false
  val : Word := 0
  mark : Nat := 0
  /-- issued while trap.rec.IN was 1 (R369) -/
  inH : Bool := false
deriving DecidableEq, Repr

/-- A queue port's binding (R170): kind 0 unbound, 1 ld, 2 tx, 3 rx, 4 rr. -/
structure Port where
  kind : Nat := 0
  dir : Nat := 0
  ring : Nat := 0
  ldq : List LdqEnt := []
deriving DecidableEq, Repr

/-- A dispatch-queue entry (R21, R226): the word, its address and the scalars read at issue. `store` is the store-buffer
entry that takes its data when this entry reaches the head; `fmt` is fmt.cfg at issue (R95); `bad` is the mask a scatter
leaves (R244). -/
structure DqEnt where
  word : BitVec 32
  pc : Word
  scalars : List Word
  store : Option Nat := none
  fmt : Word := 0
  bad : BitVec 256 := 0
deriving DecidableEq, Repr

/-- The overwrite record (R185, R434). -/
structure Ovr where
  v : Bool := false
  count : Nat := 0
  cls : Nat := 0
  idx : Nat := 0
  sender : Nat := 0
  val : VWord := 0
deriving DecidableEq, Repr

/-- What a conversion task under way needs until its TASKEND (R358): the entry, the result granules, and what remains. -/
structure Conv where
  entry : Nat
  result : Word
  outg : Nat
  operand : Nat
  target : Word
  tag : Nat
deriving DecidableEq, Repr

/-- The task state (R349, R354, R358, R374). -/
structure Task where
  active : Bool := false
  pkt : Word := 0
  /-- the MOV bit of the ring entry that dispatched it (R355) -/
  mov : Bool := false
  ring : Nat := 0
  opcall : Bool := false
  chain : List Nat := []
  meth : Nat := 0
  opcPc : Word := 0
  opcRd : Nat := 0
  inserted : Bool := false
  cur : Option Conv := none
  todo : List Conv := []
  operands : List Word := []
  routine : Word := 0
  /-- read from an image the device kept nothing beside: what the image does not hold is found again (R349, log 12) -/
  lost : Bool := false
deriving DecidableEq, Repr

/-- What a parked context waits for: a name for the reader, the cycle it parked at, and whether it waits in a packet or
wait list (then it does not execute again until that is served or withdrawn, R76, R214). -/
structure Wait where
  why : Nat
  since : Nat
  external : Bool := false
deriving DecidableEq, Repr

/-- What came back over the mesh for one place that a waiting instruction reads in another unit's or cluster's scratchpad: `n` bytes
at a home, or, with `n` = 0, its granule's tag; or the cause that ended the read (R114, R243). -/
structure Got where
  loc : Nat
  n : Nat
  val : Word := 0
  cause : Nat := 0
deriving DecidableEq, Repr

/-- The architectural state of one context, as its image holds it (R163, R373, R374). Scalar registers 1 to 7, the current
window 8 to 31; `csr` holds the readable and writable control registers by number (R174, R380). -/
structure Ctx where
  sreg : Map Word := []
  sFull : BitVec 32 := BitVec.allOnes 32
  wins : List Win := []
  mreg : Map Word := []
  mFull : BitVec 16 := 0
  vreg : Map VWord := []
  vFull : BitVec 32 := BitVec.allOnes 32
  kreg : Map (BitVec 256) := []
  areg : Map (BitVec 8192) := []
  aInt : BitVec 8 := 0
  aFull : BitVec 8 := BitVec.allOnes 8
  hreg : Map (BitVec 512) := []
  cb : Map (BitVec 256) := []
  ports : Map Port := []
  pc : Word := 0
  grp : Nat := 0
  asn : Nat := 0
  sup : Bool := false
  csr : Map Word := []
  ovr : Ovr := {}
  dq : List DqEnt := []
  outst : BitVec 32 := 0
  results : List (Nat × Word) := []
  trec : List Word := []
  held : Bool := false
  frozen : Bool := false
  task : Task := {}
  barr : Option (Nat × Nat) := none
  wdcnt : Nat := 0
  lcka : Word := 0
  ckdue : Nat := 0
  ckseq : Nat := 0
  wait : Option Wait := none
  /-- what the instruction that waits has fetched of other units' scratchpads (R114, R243); dropped when it ends or traps -/
  got : List Got := []
deriving DecidableEq, Repr

/-- Where a context is (R22, R323): nowhere yet, in a slot, in the TCC, saved in its DRAM area, in a shadow-store slice. -/
inductive Place where
  | none
  | slot (u s : Nat)
  | tcc (u : Nat)
  | saved
  | shadow (cl u s : Nat)
  | reserve (cl : Nat)
deriving DecidableEq, Repr

/-- An asynchronous cause waiting for a context (R368). -/
structure Async where
  cause : Nat
  addr : Word := 0
  data : Word := 0
  aux : Word := 0
  pc : Word := 0
  inH : Bool := false
deriving DecidableEq, Repr

/-- A directory entry (R323) and what the device keeps of a context outside its image (R179, R348, R409; log 12). State:
0 free, 1 live, 2 halted. -/
structure Dir where
  st : Nat := 0
  part : Nat := 0
  prio : Nat := 0
  home : Nat := 0
  gens : BitVec 48 := 0
  save : Word := 0
  saveAsn : Nat := 0
  frozen : Bool := false
  /-- its release was commanded while accesses of it were pending (R321, R379) -/
  releasing : Bool := false
  place : Place := .none
  launch : Nat := 0
  bound : Bool := false
  arrived : Bool := false
  event : Bool := false
  async : List Async := []
  unacked : Nat := 0
  issued : Nat := 0
  sibRead : List Nat := []
  /-- a FENCE passed while its scope held no other agent and earlier accesses were pending: its scope and its place in issue
  order (R312, R313) -/
  fenced : Option (Nat × Nat) := none
  ready : Bool := true
  since : Nat := 0
  placedAt : Nat := 0
  freeAt : Nat := 0
  deadline : Nat := 0
  ckDue : Bool := false
  /-- the image of the last completed checkpoint, or nothing (R387) -/
  ckImage : List Byte := []
  xfail : Word := 0
  xfailNo : Nat := 0
  xfailNew : Bool := false
  flagsAcc : Nat := 0
  migptDone : Bool := false
  /-- the barrier register it is parked at (R344, R401) -/
  barWait : Option Nat := none
  /-- the last instruction it completed was a DRAIN (R219) -/
  drained : Bool := false
  /-- the handle of the HWAIT or HSPACE it parked in, and whether that has been freed since (R139) -/
  hwait : Option Nat := none
  hfreed : Bool := false
  /-- fmt.cfg at issue of each entry of a saved dispatch queue, and which pending records of an image come from the handler's
  work: kept beside the image (R95, R367, log 12) -/
  dqFmt : List Word := []
  /-- the addresses of the entries of a saved dispatch queue, beside the image (log 12) -/
  dqPc : List Word := []
  pendH : List Bool := []
  /-- the port bindings of an image, kept beside it: kind, direction and ring (R171, R348, log 12) -/
  portsKept : List (Nat × Nat × Nat) := []
  /-- the destination register of the MIGPT it arrived at (R410) -/
  arrRd : Nat := 0
  task : Task := {}
deriving DecidableEq, Repr

/-- One piece of a store: a virtual address, its home once resolved, a width in bytes, the data, and for VSCADD the element
type of the addition (R244). -/
structure Piece where
  va : Word
  loc : Nat := 0
  n : Nat
  data : Nat := 0
  add : Option Nat := none
deriving DecidableEq, Repr

/-- A store-buffer entry (R210): rs 0 unresolved, 1 resolved, 2 failed. `data` says its data are there; `aft` are the
entries R311 orders before it; `ar` holds later reads back. -/
structure Store where
  id : Nat
  ctx : Nat
  pc : Word
  size : Nat
  pieces : List Piece
  setFull : Bool := false
  keepTag : Bool := false
  rel : Bool := false
  ar : Bool := false
  sc : Nat := 0
  aft : List Nat := []
  rs : Nat := 0
  cause : Nat := 0
  level : Nat := 7
  fva : Word := 0
  data : Bool := true
  age : Nat := 0
  inH : Bool := false
deriving DecidableEq, Repr

/-- A record of the store-fault record queue (R371): doublewords 0 to 4 as the fields they are made of. -/
structure Rec where
  ctx : Nat
  cause : Nat
  kind : Nat
  orig : Nat := 0
  size : Nat := 0
  level : Nat := 7
  pc : Word := 0
  addr : Word := 0
  data : Word := 0
  aux : Word := 0
  inH : Bool := false
  /-- the place in issue order of the work it came from, beyond any for a record that no finishing member waits for (R299) -/
  no : Nat := 2 ^ 64
deriving DecidableEq, Repr

/-- An advance of R141 not yet effective: the slot, what it becomes, and the commands and stores it waits for. -/
structure Adv where
  slot : Nat
  full : Bool
  cmds : List Nat
  ctx : Nat
  issue : Nat
  stores : List Nat
deriving DecidableEq, Repr

/-- An allocated buffer handle (R136, R138): slot states 0 free, 1 filling, 2 full, 3 draining. -/
structure Handle where
  part : Nat
  base : Nat
  ssize : Nat
  nslot : Nat
  p : Nat := 0
  c : Nat := 0
  slots : List Nat
  adv : List Adv := []
deriving DecidableEq, Repr

/-- A byte range a command reads or writes (R147, R148): window homes stand above 2^64, virtual addresses below. -/
structure Region where
  lo : Nat
  len : Nat
deriving DecidableEq, Repr

/-- An address operand of a command: as given, and its home when it is a window address, resolved at issue (R28). -/
structure Opnd where
  va : Word
  home : Option Nat := none
  /-- a window address whose logical unit was unmapped at issue: what reads or writes it finds no page (R28, R159, R277) -/
  unmapped : Bool := false
  /-- the homes found for its pages when a commit was checked, one for each 4 KiB from the first (R301, R302) -/
  pages : List Nat := []
deriving DecidableEq, Repr

/-- An accepted engine command (R145): the instruction as issued, the scalars read, the captured shape and state. `issuer`
is the context the status and faults go to; `dev` its device. -/
structure Cmd where
  seq : Nat
  issuer : Nat
  no : Nat
  lunit : Nat
  pc : Word
  inH : Bool := false
  word : BitVec 32
  ops : List Opnd := []
  args : List Word := []
  shape : BitVec 512 := 0
  fmt : Word := 0
  cbs : List (BitVec 256) := []
  part : Nat
  ctx : Nat
  asn : Nat := 0
  sup : Bool := false
  home : Nat := 0
  reads : List Region := []
  writes : List Region := []
  handles : List Nat := []
  acc : Option (Nat × Nat) := none
  iter : Option Nat := none
  remote : Bool := false
  /-- the slot among whose eight reserved scheduler entries it stands; none for a shared entry (R145) -/
  slot : Option Nat := none
  /-- its place among all acceptances of the device (R160) -/
  order : Nat := 0
  started : Bool := false
  /-- a command accepted later has ended since it started, and bars its replay (R160) -/
  stale : Bool := false
  /-- an internal error cuts its effect short; set only while that part is worked out (R160) -/
  cut : Bool := false
  /-- 1 when a GSEND has written its slot and still owes its decrement (R284) -/
  phase : Nat := 0
deriving DecidableEq, Repr

/-- A barrier register (R343) with its binding (R435) and held signals (R345). -/
structure Bar where
  val : Word := 0
  part : Nat := 0
  lunit : Nat := 0
  row : Bool := false
  col : Bool := false
deriving DecidableEq, Repr

/-- A ready ring (R351): owner, partition, threshold, frozen flag and entries; `seen` is the depth each neighbour last
reported of its ring of this number, by direction (R360). -/
structure Ring where
  owner : Option Nat := none
  part : Nat := 0
  thr : Nat := 0
  frozen : Bool := false
  q : List Word := []
  seen : Map Nat := []
deriving DecidableEq, Repr

/-- A TLB entry (R51): the page's level (2, 3 or 4), its virtual page number, the leaf and where the leaf stands. -/
structure TlbEnt where
  part : Nat
  asn : Nat
  level : Nat
  vpn : Nat
  pte : Word
  ptePa : Nat
deriving DecidableEq, Repr

/-- A non-leaf entry in an island's walk cache (R52): its partition, its physical address and its value. -/
structure WalkEnt where
  part : Nat
  pa : Nat
  pte : Word
deriving DecidableEq, Repr

/-- A pending miss or a walk under way (R52): requester units, the contexts of them that asked, and whether a walker has taken
it. -/
structure Miss where
  part : Nat
  asn : Nat
  vpn : Nat
  croft : Bool
  units : List Nat
  ctxs : List Nat := []
  walking : Bool := false
  /-- the level a walk failed at, until each requester has learned of it -/
  failed : Option Nat := none
deriving DecidableEq, Repr

/-- A delivery's kind (R181, R264, R353). -/
inductive DKind where
  | send
  | sendw
  | mcmd (word : BitVec 32) (shape : BitVec 512) (fmt : Word)
  | taskq (entry : Word)
deriving DecidableEq, Repr

/-- A delivery in flight (R183): the sender, the capability, the value. -/
structure Delivery where
  dev : Nat
  sender : Nat
  pc : Word
  cap : Word
  val : VWord
  kind : DKind
  no : Nat := 0
  inH : Bool := false
  /-- the sender was reset: nothing is reported to it (R342) -/
  orphan : Bool := false
deriving DecidableEq, Repr

/-- A command queued at a unit by MCMD (R264). -/
structure RemCmd where
  d : Delivery
  target : Nat
  acc : Nat
deriving DecidableEq, Repr

/-- A scalar access as data: what to do at its home and where the result goes (R208, R213, R217, R128, R129, R352); `elem` and
`elemTag` are reads of one place, `n` bytes or a tag, for an instruction that reads several (R114, R243). -/
inductive MemOp where
  | load (n : Nat) (signed : Bool)
  | ldfe
  | ldff
  | stef
  | amo (opa n : Nat)
  | ttag (cas : Bool)
  | tget
  | dcnt
  | elem (n : Nat)
  | elemTag
deriving DecidableEq, Repr

/-- An access waiting for its home: the requester, the home, the operation, data and compare values, the result register. -/
structure MemReq where
  ctx : Nat
  loc : Nat
  op : MemOp
  data : Word := 0
  cmp : Word := 0
  rd : Nat := 0
  va : Word := 0
  insn : BitVec 32 := 0
deriving DecidableEq, Repr

/-- A barrier packet (R345, R346): 0 row, 1 column, 2 release, 3 break; the register described and its fields. -/
structure Sig where
  kind : Nat
  part : Nat
  lunit : Nat
  reg : Nat
  desc : Word
  /-- the unit whose proxy entry it is, while a proxy holds it -/
  unit : Nat := 0
deriving DecidableEq, Repr

/-- What a packet carries. -/
inductive PktBody where
  | access (r : MemReq)
  | delivery (d : Delivery)
  | ack (ctx : Nat) (r : Option Rec) (no : Nat) (inH : Bool)
  | push (dir : Nat) (v : Word)
  | sig (g : Sig)
  /-- the request of a store or of a queued load, named by its id, to a scratchpad beyond a bridge (R19, R114) -/
  | request (id : Nat)
  /-- the answer to an access performed over the mesh: its value, or the cause that ended it (R15, R114) -/
  | answer (r : MemReq) (v : Word) (cause : Nat)
deriving DecidableEq, Repr

/-- What naming a logical unit at issue gave a packet (R28): its destination, a unit to wait for at the issuing unit, or none. -/
inductive Way where
  | to
  | waits (part lunit : Nat)
  | nowhere
deriving DecidableEq, Repr

/-- A packet in the mesh (R15, R18, R19): physical source and destination, whether a bridge holds it and as which in order,
what its logical unit was at issue (R28), and whether it has reached its unit and waits there. -/
structure Pkt where
  src : Nat
  dst : Nat
  body : PktBody
  held : Bool := false
  heldAt : Nat := 0
  way : Way := .to
  arrived : Bool := false
deriving DecidableEq, Repr

/-- A wait-list entry (R214): refused ones stand outside the list until retried. A watch is no entry: it says for which
word a context that left its unit and so withdrew its entry will be ready again (R215, R333, R394). -/
structure WaitEnt where
  req : MemReq
  refused : Bool := false
  watch : Bool := false
deriving DecidableEq, Repr

/-- A release whose wake steps are delayed (R401). -/
structure Stagger where
  u : Nat
  reg : Nat
  at_ : Nat
  /-- the contexts parked at the barrier when it released -/
  ctxs : List Nat := []
deriving DecidableEq, Repr

/-- One unit's state (R20): one record for units 0 to 259, the resources of a unit being the same on both islands (R13). -/
structure UnitSt where
  slots : Map Nat := []
  tcc : List Nat := []
  rot : Word := 0x7654321076543210
  rotNext : Option Word := none
  slotcfg : Word := 0x000020FF00000000
  cyc : Nat := 0
  segOn : BitVec 8 := 0
  retained : BitVec 8 := 0
  sb : List Store := []
  sfq : List Rec := []
  bt : Map Handle := []
  cmds : List Cmd := []
  seq : Nat := 0
  done : List (Nat × Word) := []
  rcq : List RemCmd := []
  mbox : List (Delivery × Nat) := []
  rxq : Map (List Word) := []
  rings : Map Ring := []
  bars : Map Bar := []
  tlb : List TlbEnt := []
  gated : Bool := false
  /-- frozen-ring reports that wait for a place in their owner's record queue (R355, R371) -/
  reports : List Rec := []
  temp : Nat := 0
  /-- issue turns used by partition in this budget period (R335) -/
  spent : Map Nat := []
  lastActive : Nat := 0
  /-- the cycle of the last depth exchange (R360) -/
  balanced : Nat := 0
deriving DecidableEq, Repr

/-- A mailbox entry of a cluster management core (R370): record doublewords, its unit, whether marked done, and, of a context that
is held, its partition and generations as they were at the trap. -/
structure MbEnt where
  words : List Word
  unit : Option Nat
  done : Bool := false
  part : Nat := 0
  gens : BitVec 48 := 0
deriving DecidableEq, Repr

/-- One cluster's state, cluster 16 being Croft (R23, R24, R370, R397, R398). -/
structure ClusterSt where
  tlb : List TlbEnt := []
  proxy : List Sig := []
  mbox : List MbEnt := []
  head : Nat := 0
  waiting : List MbEnt := []
  ctxCmd : Word := 0
  ctxPc : Word := 0
  link : Nat := 0
  corr : Nat := 0
  rply : Nat := 0
  kreq : Nat := 16
  kgrant : Nat := 16
  ktherm : Nat := 16
  k : Nat := 16
  allow : Nat := 0xFFFF
  pmax : Nat := 0x50
  borrow : Nat := 0
  lst : Nat := 0
  lastStep : Nat := 0
deriving DecidableEq, Repr

/-- A queued launch record (R324, R414): its address and whether its origin permits priv = 1 (R327). -/
structure LqEnt where
  addr : Word
  sup : Bool
  started : List Word := []
  asn : Nat := 0
  retain : Option Nat := none
deriving DecidableEq, Repr

/-- One partition's registers (R26, R46, R53, R177, R324, R342, R356, R389, R417). -/
structure PartSt where
  lum : Map (BitVec 32) := []
  astBase : Word := 0
  xltva : Word := 0
  xltinv : Word := 0
  key : BitVec 128 := 0
  keyLow : Option Word := none
  launchQ : List LqEnt := []
  lFirst : Nat := 0
  lCause : Nat := 0
  lOvf : Bool := false
  lFail : Bool := false
  resumeQ : List Word := []
  rFirst : Nat := 0
  rCause : Nat := 0
  rOvf : Bool := false
  rFail : Bool := false
  methBase : Word := 0
  methCnt : Nat := 0
  grpKill : Nat := 0
  pst : Nat := 0
  /-- PARTCTL.CMD (R417) -/
  pcmd : Nat := 0
  /-- a VF reset whose groups are still to be stopped when the swap out ends (R424) -/
  flr : Bool := false
  en : Bool := false
  budget : Word := BitVec.allOnes 64
deriving DecidableEq, Repr

/-- A record being run (R328): its chain, the contexts it created that are still live, and the slot limit of R326. -/
structure Launch where
  part : Nat
  next : Word
  started : List Word
  sup : Bool
  asn : Nat := 0
  live : List Nat
  slots : Nat
deriving DecidableEq, Repr

/-- A snapshot record (R300). -/
structure SnapRec where
  q : Nat
  node : Nat
  live : Word
  n : Nat
  off : Nat
deriving DecidableEq, Repr

/-- A member of an iteration (R295): st 0 unfinished, 1 finishing, 2 finished; `no` is its place in issue order at snap.fin. -/
structure Member where
  ctx : Nat
  st : Nat := 0
  no : Nat := 0
deriving DecidableEq, Repr

/-- An iteration entry of the SSU (R293): st 0 free, 1 open, 2 committing, 3 abandoned. -/
structure Iter where
  gen : Nat := 0
  st : Nat := 0
  part : Nat := 0
  opener : Nat := 0
  area : Word := 0
  asize : Nat := 0
  seqs : List Word := []
  used : Nat := 0
  recs : List SnapRec := []
  members : List Member := []
  owes : Bool := false
  /-- the cause that abandoned it (R364) -/
  cause : Nat := 0
deriving DecidableEq, Repr

/-- A migration request (R407): kind 1 island, 2 thermal, 3 forced. -/
structure Mig where
  src : Nat
  dst : Nat
  kind : Nat
  raised : Nat
  honoured : Bool := false
  reg : Bool := false
deriving DecidableEq, Repr

/-- Acre's state (R390) and what it is changing to. -/
structure Island where
  /-- 0 on, 1 retention, 2 off, 3 transition -/
  st : Nat := 2
  /-- the state before a transition -/
  from_ : Nat := 2
  /-- the state a transition leads to -/
  to_ : Nat := 2
  busy : Bool := false
  /-- the command under way is a wake, which is busy until Acre is on (R392) -/
  waking : Bool := false
  cmd : Nat := 0
  offIdle : Nat := 0
  retIdle : Nat := 0x100
  auto : Bool := false
  ref : Bool := false
  inh : Bool := false
  wakeReq : Nat := 0
  wakeIss : Nat := 0
  request : Bool := false
  emergency : Bool := false
  lastActive : Nat := 0
  since : Nat := 0
  standby : Bool := false
  div : Nat := 0
  stbyIdle : Nat := 0x40
  croftActive : Nat := 0
deriving DecidableEq, Repr

/-- One channel's power state (R39): 0 active, 1 power-down, 2 self-refresh; the time of its last access. -/
structure Chan where
  st : Nat := 0
  idle : Nat := 0
  /-- an access waits for it to be active (R39, R40) -/
  want : Bool := false
deriving DecidableEq, Repr

/-- What an aperture access does (R422). -/
inductive ApertureOp where
  | read
  | write
  | ldfe
  | ldff
  | stef
  | stff
  | amo (opa : Nat)
deriving DecidableEq, Repr

/-- The operands of a device step, as the agenda gives them (Syntax names which stands for what). -/
structure Arg where
  n0 : Nat := 0
  n1 : Nat := 0
  n2 : Nat := 0
  v : Word := 0
  w : Word := 0
  data : List Byte := []
  op : ApertureOp := .read
deriving DecidableEq, Repr

/-- Who acts in a turn of the agenda: a unit's scalar pipeline, a device step with its operands, the management core, which sets the
event bit of a context (R348, log 48), a linked device, which sends a delivery or changes its own DRAM (R421, R422, log 15), or the
host's boot flash interface in recovery (R426, log 78). -/
inductive Act where
  | issue (u : Nat)
  | event (i : Instr) (a : Arg)
  | setEvent (c : Nat)
  | linkDelivery (d : Delivery)
  | peerStore (a : Nat) (l : List Byte) (fe : Option Bool)
  | flashWrite (l : List Byte)
deriving DecidableEq, Repr

/-- One turn of the agenda: the reference time that passes before it, and who acts. -/
structure Turn where
  dt : Nat
  act : Act
deriving DecidableEq, Repr

/-- The device. -/
structure State where
  ctxs : Map Ctx := []
  /-- the registers of a halted context as its last instruction left them, until its number is used again (R338, R428) -/
  halted : Map Ctx := []
  dir : Map Dir := []
  units : Map UnitSt := []
  clusters : Map ClusterSt := []
  parts : Map PartSt := []
  launches : Map Launch := []
  mem : List Host.Cell := []
  fe : List Nat := []
  tags : Map (BitVec 16) := []
  /-- the contents of segments that have powered down, which nothing reads: the first access clears them (R118, R428) -/
  faded : List Host.Cell := []
  memErr : Map Nat := []
  tagErr : Map Nat := []
  regErr : Map Nat := []
  imgErr : Map Nat := []
  sharing : List Nat := []
  sharingClear : List Nat := []
  hostLines : List Nat := []
  chans : Map Chan := []
  /-- channels and segments whose contents a partial self-refresh lost (R42) -/
  scrap : List (Nat × Nat) := []
  /-- the bursts of those written in full since -/
  mended : List Nat := []
  pinRate : Nat := 0
  mempwr : Word := 0x0000000000401001
  misses : List Miss := []
  /-- the walk caches of Acre and of Croft, and the cluster each island's walkers served last (R52) -/
  walkAcre : List WalkEnt := []
  walkCroft : List WalkEnt := []
  walkLast : Nat := 15
  pkts : List Pkt := []
  waits : List WaitEnt := []
  staggers : List Stagger := []
  ssu : Map Iter := []
  migs : List Mig := []
  island : Island := {}
  migReg : Word := 0
  migTmo : Nat := 1000
  cascDst : Map Word := []
  slew : Word := 0x0000000000040000
  phase0 : Word := 0
  phase1 : Word := 0
  therm : Word := 0x000000000069645F
  retRec : List Nat := []
  /-- the contexts lost with Acre whose cause 0x48 the next wake reports, each with its home unit (R406) -/
  retTell : List (Nat × Nat) := []
  linkcfg : Word := 0
  lroute : Word := 0x00000000FFFFFFFF
  badLinks : List (Nat × Nat) := []
  bootStage : Nat := 0
  bootErr : Nat := 0
  meas : Map (BitVec 384) := []
  flash : List Byte := []
  power : Bool := true
  time : Nat := 0
  reply : List Byte := []
  /-- the reply's poison indication (R34) -/
  replyBad : Bool := false
  agenda : List Turn := []
  steps : Nat := 0
  /-- the budget period whose counters stand (R335) -/
  period : Nat := 0
  /-- the period whose lending has been computed (R399) -/
  lent : Nat := 0
  nextUnit : Nat := 0
  cur : Nat := 0
  npc : Word := 0
  fresh : Nat := 0
  ids : Nat := 0
  insn : BitVec 32 := 0
  arg : Arg := {}
deriving DecidableEq, Repr

/-- The device right after power-on reset: every register at the value the spec states, and where it states none at the
value logs 3 and 4 name; no context is live, Croft is on and Acre is off (R390, R425). -/
def State.reset : State := {}

end Sys2Proof.Machine
end

