-- ==== Sys2Proof/Machine/Mem.lean ====
section
/-! DEFINITION. Memory by home (R303): one flat space of bytes with full/empty bits and tags. Physical addresses stand below
2^48; the DRAM of linked devices and the unit, cluster, die and Croft scratchpads stand in ranges of their own above it. -/

namespace Sys2Proof.Machine

/-- The flat place of an offset in a unit scratchpad. -/
def unitLoc (u off : Nat) : Nat := 2 ^ 50 + u * 2 ^ 20 + off
/-- The flat place of an offset in an Acre cluster scratchpad. -/
def clusterLoc (c off : Nat) : Nat := 2 ^ 51 + c * 2 ^ 24 + off
/-- The flat place of an offset in the Acre die scratchpad. -/
def dieLoc (off : Nat) : Nat := 2 ^ 52 + off
/-- The flat place of an offset in Croft SRAM. -/
def croftLoc (off : Nat) : Nat := 2 ^ 53 + off

/-- A home in a scratchpad. -/
def isPad (loc : Nat) : Bool := 2 ^ 50 ≤ loc
/-- A home in a unit scratchpad. -/
def isUnitPad (loc : Nat) : Bool := 2 ^ 50 ≤ loc && loc < 2 ^ 51
/-- The unit of a home in a unit scratchpad. -/
def padUnit (loc : Nat) : Nat := (loc - 2 ^ 50) / 2 ^ 20
/-- A home in a scratchpad of Acre (R23, R25). -/
def isAcrePad (loc : Nat) : Bool := (isUnitPad loc && padUnit loc < 256) || (2 ^ 51 ≤ loc && loc < 2 ^ 53)
/-- A home in device DRAM (R36). -/
def isDram (loc : Nat) : Bool := loc < 2 ^ 38
/-- The populated device DRAM (R36). -/
def populated (loc : Nat) : Bool := decide (loc < 2 ^ 37) || (decide (loc < 2 ^ 38) && Config.bigPart)
/-- A physical address in a register block (R36). -/
def isRegBlock (pa : Nat) : Bool := 0x7F0000000000 ≤ pa && pa < 0x7F0002000000
/-- A physical address behind bit 47: host memory or an aperture (R36, R422). -/
def isHostPa (loc : Nat) : Bool := 2 ^ 47 ≤ loc && loc < 2 ^ 48
/-- The flat place of an offset in the DRAM of a linked device, which its aperture names (R422). -/
def peerLoc (d off : Nat) : Nat := 2 ^ 49 + d * 2 ^ 38 + off
/-- A home in a linked device's DRAM. -/
def isPeer (loc : Nat) : Bool := 2 ^ 49 ≤ loc && loc < 2 ^ 50
/-- The device of such a home. -/
def peerOf (loc : Nat) : Nat := (loc - 2 ^ 49) / 2 ^ 38

/-- What a device that goes off leaves of the memory: the host's, and that of linked devices. -/
def outside (loc : Nat) : Bool := isHostPa loc || isPeer loc

/-- What an unlisted byte reads as (R118 for the scratchpads, log 3 for DRAM and host memory). -/
def emptyByte : Byte := 0

/-- The byte at a home. -/
def memGet (m : List Host.Cell) (a : Nat) : Byte :=
  match m with
  | [] => emptyByte
  | (b, v) :: t => if b = a then v else if a < b then emptyByte else memGet t a

/-- The entries of a run of bytes from a home upwards: none for a byte that an unlisted address reads as. -/
def cellsFrom (a : Nat) : List Byte → List Host.Cell
  | [] => []
  | b :: t => if b = emptyByte then cellsFrom (a + 1) t else (a, b) :: cellsFrom (a + 1) t

/-- Writes bytes from a home upwards, keeping the canonical form: addresses strictly rising, no entry that an unlisted address
reads as. -/
def memWrite (m : List Host.Cell) (a : Nat) (l : List Byte) : List Host.Cell :=
  m.filter (fun c => c.1 < a) ++ cellsFrom a l ++ m.filter (fun c => a + l.length ≤ c.1)

/-- Writes one byte. -/
def memSet (m : List Host.Cell) (a : Nat) (x : Byte) : List Host.Cell := memWrite m a [x]

/-- Removes every entry in `[lo, hi)`. -/
def memDrop (m : List Host.Cell) (lo hi : Nat) : List Host.Cell := m.filter (fun c => c.1 < lo || hi ≤ c.1)

/-- Addresses rise strictly from above `lo`, and no entry holds what an unlisted address reads as. -/
def memOkFrom (lo : Nat) (m : List Host.Cell) : Bool :=
  match m with
  | [] => true
  | (a, v) :: t => lo ≤ a && v != emptyByte && memOkFrom (a + 1) t

/-- The canonical form of memory. -/
def Memory.wf (m : List Host.Cell) : Bool := memOkFrom 0 m

/-- The `n` bytes from a home upwards, one by one. -/
def memBytes (m : List Host.Cell) (a : Nat) : Nat → List Byte
  | 0 => []
  | n + 1 => memGet m a :: memBytes m (a + 1) n

/-- Reads `n` bytes from a home upwards: the entries below it are passed over once. -/
def memRead (m : List Host.Cell) (a n : Nat) : List Byte := memBytes (m.dropWhile (fun c => c.1 < a)) a n

/-- The `n`-byte little-endian value at a home. -/
def State.peek (s : State) (a n : Nat) : Nat := ofBytes (memRead s.mem a n)

/-- The host's copies of the lines a device write meets go (R57). -/
def State.dropHost (s : State) (a n : Nat) : State :=
  if s.hostLines.isEmpty then s else { s with hostLines := s.hostLines.filter (fun l => !rangesMeet (64 * l) 64 a n) }

/-- Writes a run of bytes at a home, data only. -/
def State.pokeRun (s : State) (a : Nat) (l : List Byte) : State := { s.dropHost a l.length with mem := memWrite s.mem a l }

/-- Writes the low `n` bytes of a value at a home, data only. -/
def State.pokeRaw (s : State) (a n x : Nat) : State := s.pokeRun a (toBytes n x)

/-- The full/empty bit of the word that holds a home (R32, R115). -/
def State.feAt (s : State) (a : Nat) : Bool := s.fe.contains (a / 8)

/-- Sets the full/empty bit of the word that holds a home. -/
def State.setFe (s : State) (a : Nat) (b : Bool) : State :=
  { s with fe := if b then nins s.fe (a / 8) else ndel s.fe (a / 8) }

/-- The tag of the granule that holds a scratchpad home (R120). -/
def State.tagAt (s : State) (a : Nat) : BitVec 16 := mget s.tags (a / 1024) 0

/-- Sets a granule's tag; homes outside the scratchpads keep none. -/
def State.setTag (s : State) (a : Nat) (t : BitVec 16) : State :=
  if isPad a then { s with tags := if t = 0 then mdel s.tags (a / 1024) else mset s.tags (a / 1024) t } else s

/-- Clears V of the granule's tag (R123). -/
def State.clearV (s : State) (a : Nat) : State := s.setTag a (s.tagAt a &&& 0xFFDF)

/-- The channel of a DRAM address (R38). -/
def chanOf (a : Nat) : Nat := a / 256 % 32
/-- The segment of a DRAM address (R42). -/
def segOf (a : Nat) : Nat := a / (if Config.bigPart then 2 ^ 35 else 2 ^ 34) % 8

/-- The segments not retained in self-refresh (R41). -/
def State.lostSegs (s : State) : List Nat := (List.range 8).filter (fun g => bit s.mempwr (24 + g))

/-- An access waits for a channel that is not active (R39, R40). -/
def State.wantChan (s : State) (a : Nat) : State :=
  { s with chans := mset s.chans (chanOf a) { mget s.chans (chanOf a) {} with want := true } }

/-- Whether an access to a home must wait for its channel (R40). -/
def State.asleep (s : State) (a : Nat) : Bool := isDram a && (mget s.chans (chanOf a) {}).st != 0

/-- A channel is active from now on (R39): leaving self-refresh it loses the segments not retained (R42). DESIGN CHOICE: which
those are MEMPWR.PASR says at the exit (log 49). -/
def State.exitChan (s : State) (ch : Nat) : State :=
  let st := (mget s.chans ch {}).st
  let s : State := { s with chans := mset s.chans ch { st := 0, idle := s.time, want := false } }
  if st != 2 || s.lostSegs.isEmpty then s else
  let lost := fun (a : Nat) => isDram a && chanOf a == ch && s.lostSegs.contains (segOf a)
  { s with
    mem := s.mem.filter (fun c => !lost c.1)
    fe := s.fe.filter (fun w => !lost (8 * w))
    memErr := s.memErr.filter (fun e => !lost (8 * e.1))
    mended := s.mended.filter (fun b => !lost (32 * b))
    scrap := s.lostSegs.foldl (fun l g => if l.contains (ch, g) then l else l ++ [(ch, g)]) s.scrap }

/-- An access to a home: the segment of a unit scratchpad is powered, with nothing left of what it held (R118), the channel of a DRAM address is active (R39, R40). -/
def State.touch (s : State) (a : Nat) : State :=
  if isUnitPad a then
    let u := padUnit a
    let x := mget s.units u {}
    let seg := (a % 2 ^ 20) / 0x10000
    let lo := unitLoc u (seg * 0x10000)
    if bit x.segOn seg then s else
      { s with units := mset s.units u { x with segOn := putBit x.segOn seg true }, faded := s.faded.filter (fun c => c.1 < lo || lo + 0x10000 ≤ c.1) }
  else if isDram a then s.exitChan (chanOf a)
  else s

/-- An access to every byte of a run: its first byte, then each aligned 256 bytes it enters. -/
def State.touchRun (s : State) (a n : Nat) : State :=
  (rangeFrom (a / 256 + 1) ((a + n - 1) / 256 - a / 256)).foldl (fun s b => s.touch (256 * b)) (s.touch a)

/-- The key of the error record of a home: bursts in DRAM, words elsewhere (R33, R116). -/
def errKey (a : Nat) : Nat := if isDram a then a / 32 * 4 else a / 8

/-- Whether a burst lies in what a partial self-refresh lost and has not been written in full since (R42). -/
def State.scrapped (s : State) (a : Nat) : Bool := isDram a && s.scrap.contains (chanOf a, segOf a) && !s.mended.contains (a / 32)

/-- The soft error standing at a home: 0 none, 1 correctable, 2 uncorrectable or poisoned (R33, R117). A burst lost in partial
self-refresh takes the uncorrectable outcome (R42, log 20). -/
def State.errAt (s : State) (a : Nat) : Nat := if s.scrapped a then 2 else mget s.memErr (errKey a) 0

/-- Notes bursts written in full (R42). -/
def State.mend (s : State) (l : List Nat) : State := if s.scrap.isEmpty then s else { s with mended := l.foldl nins s.mended }

/-- The cause of an uncorrectable read at a home (R33, R117). -/
def errCause (a : Nat) : Nat := if isPad a then 0x42 else 0x43

/-- The first uncorrectable cause met by a read of `n` bytes, or 0. -/
def State.readErr (s : State) (a n : Nat) : Nat :=
  match (rangeFrom (a / 8) ((a + n - 1) / 8 + 1 - a / 8)).find? (fun w => s.errAt (8 * w) == 2) with
  | some w => errCause (8 * w)
  | none => 0

/-- The bursts a write from a home upwards covers only in part: the channel controller reads them first (R34). -/
def partBursts (a n : Nat) : List Nat :=
  if !isDram a then [] else
  ((if a % 32 = 0 && 32 ≤ n then [] else [a / 32]) ++ (if (a + n) % 32 = 0 || (a + n - 1) / 32 = a / 32 then [] else [(a + n - 1) / 32])).map (32 * ·)

/-- Writes the low `n` bytes of a value at a home: a whole scratchpad word clears its error (R117); a DRAM write of less
than a burst to a poisoned burst leaves it poisoned (R34). -/
def State.poke (s : State) (a n x : Nat) : State :=
  let s := (s.touch a).pokeRaw a n x
  if isPad a && n == 8 then { s with memErr := mdel s.memErr (errKey a) } else s

/-- Whether a partial write at a home finds an uncorrectable burst (R34). -/
def State.poisoned (s : State) (a : Nat) : Bool := isDram a && s.errAt a == 2

/-- Writes a run of bytes as an engine does: whole words and whole bursts clear errors (R34, R117). -/
def State.pokeBytes (s : State) (a : Nat) (l : List Byte) : State :=
  let s := (s.touchRun a l.length).pokeRun a l
  let full := fun k => if isDram (8 * k) then a ≤ 8 * k && 8 * k + 32 ≤ a + l.length else a ≤ 8 * k && 8 * k + 8 ≤ a + l.length
  let s := s.mend ((rangeFrom (a / 32) (l.length / 32 + 1)).filter (fun b => a ≤ 32 * b && 32 * b + 32 ≤ a + l.length))
  { s with memErr := s.memErr.filter (fun e => !full e.1) }

/-- Clears data, full/empty bits, tags and errors of a range of homes (R118). -/
def State.wipe (s : State) (lo hi : Nat) : State :=
  { s with
    mem := memDrop s.mem lo hi
    fe := s.fe.filter (fun w => 8 * w < lo || hi ≤ 8 * w)
    tags := s.tags.filter (fun g => g.1 * 1024 < lo || hi ≤ g.1 * 1024)
    tagErr := s.tagErr.filter (fun g => g.1 * 1024 < lo || hi ≤ g.1 * 1024)
    memErr := s.memErr.filter (fun e => 8 * e.1 < lo || hi ≤ 8 * e.1) }

/-- The home bank of a home, as a number (R110, R309 item 2); host memory has none. -/
def bankOf (a : Nat) : Option Nat :=
  if isUnitPad a then some (2 ^ 40 + padUnit a * 128 + a / 8 % 128)
  else if isPad a && a < 2 ^ 52 then some (2 ^ 41 + (a - 2 ^ 51) / 2 ^ 24 * 128 + a / 8 % 128)
  else if isPad a && a < 2 ^ 53 then some (2 ^ 42 + a / 1024 % 4 * 128 + a / 8 % 128)
  else if isPad a then some (2 ^ 43 + a / 8 % 128)
  else if isPeer a then some (2 ^ 44 + (a - 2 ^ 49) / 32)
  else if isDram a then some (a / 32)
  else none

/-- The wait-list home of a place and its capacity (R214). -/
def waitHome (a : Nat) : Nat × Nat :=
  if isUnitPad a then (2 ^ 40 + padUnit a, 64)
  else if isPad a && a < 2 ^ 52 then (2 ^ 41 + (a - 2 ^ 51) / 2 ^ 24, 128)
  else if isPad a && a < 2 ^ 53 then (2 ^ 42, 256)
  else if isPad a then (2 ^ 43, 256)
  else if isPeer a then (2 ^ 44 + peerOf a * 32 + a / 256 % 32, 256)
  else (a / 256 % 32, 256)

end Sys2Proof.Machine
end

