-- ==== Sys2Proof/Machine/Ops.lean ====
section
/-! DEFINITION. The named operations over contexts, units and registers, the ways an instruction can end, and the one
operation that takes a trap (R361 to R367) with the return from it. -/

namespace Sys2Proof.Machine

/-- What a trap's record says besides what every record says (R363, R364). -/
structure TrapInfo where
  cause : Nat
  addr : Word := 0
  data : Word := 0
  aux : Word := 0
  size : Nat := 0
  level : Nat := 7
  orig : Nat := 0
  kind : Nat := 0
  rpc : Option Word := none
  /-- the ring and entry a fault of Dispatch freezes (R355) -/
  ring : Option (Nat × Word) := none
  /-- the place in issue order of the work a class I record came from (R299) -/
  no : Nat := 2 ^ 64
  /-- the iteration that a trap of SCOMMIT's checks abandons (R301) -/
  iter : Option Nat := none
deriving DecidableEq, Repr

/-- How an instruction ends other than by completing: a trap (R75), a park, or an operand naming no agent. A park `sync` is
one that a task must not make (R349); `ext` says a packet or wait list now holds the operation. -/
inductive Stop where
  | trap (t : TrapInfo)
  | park (why : Nat) (sync ext : Bool)
  | bad
deriving DecidableEq, Repr

/-- An instruction's effect: it reads and changes the state and may end early. -/
abbrev M := EStateM Stop State

/-- Ends the instruction with a cause (R75). -/
def trapC {α : Type} (cause : Nat) : M α := throw (.trap { cause := cause })
/-- Ends the instruction with a memory fault's record (R364). -/
def trapAt {α : Type} (cause : Nat) (va : Word) (level size : Nat) : M α :=
  throw (.trap { cause := cause, addr := va, level := level, size := size })
/-- Raises a cause when a condition holds. -/
def trapIf (b : Bool) (cause : Nat) : M Unit := if b then trapC cause else pure ()
/-- Parks on a register scoreboard or a back-pressure limit, which a task may do (R349). -/
def stall {α : Type} (why : Nat) : M α := throw (.park why false false)
/-- Parks on a wait that a task must not make: cause 0x18 there (R349). -/
def parkSync {α : Type} (why : Nat) : M α := throw (.park why true false)
/-- Parks with the operation held outside the context (R114, R214). -/
def parkExt {α : Type} (why : Nat) : M α := throw (.park why false true)
/-- Parks unless a condition holds (R75). -/
def parkUnless (b : Bool) (why : Nat) : M Unit := if b then pure () else parkSync why
/-- Stalls unless a condition holds. -/
def stallUnless (b : Bool) (why : Nat) : M Unit := if b then pure () else stall why

/-- Names for what a context waits on. -/
def wReg : Nat := 1
def wQueue : Nat := 2
def wStore : Nat := 3
def wMem : Nat := 4
def wOrder : Nat := 5
def wWindow : Nat := 6
def wHandle : Nat := 7
def wEngine : Nat := 8
def wBarrier : Nat := 9
def wMessage : Nat := 10
def wEvent : Nat := 11
def wRing : Nat := 12
def wMigrate : Nat := 13
def wDeliver : Nat := 14
def wTlb : Nat := 15
def wLum : Nat := 16
def wDispatch : Nat := 17
def wPower : Nat := 18
def wFwd : Nat := 19

namespace State

/-- A context's state. -/
def ctx (s : State) (c : Nat) : Ctx := mget s.ctxs c {}
/-- Replaces a context's state. -/
def setCtx (s : State) (c : Nat) (x : Ctx) : State := { s with ctxs := mset s.ctxs c x }
/-- Changes a context's state. -/
def modCtx (s : State) (c : Nat) (f : Ctx → Ctx) : State := s.setCtx c (f (s.ctx c))
/-- A context's directory entry (R323). -/
def dirE (s : State) (c : Nat) : Dir := mget s.dir c {}
/-- Changes a directory entry. -/
def modDir (s : State) (c : Nat) (f : Dir → Dir) : State := { s with dir := mset s.dir c (f (s.dirE c)) }
/-- A unit's state. -/
def unit (s : State) (u : Nat) : UnitSt := mget s.units u {}
/-- Changes a unit's state. -/
def modUnit (s : State) (u : Nat) (f : UnitSt → UnitSt) : State := { s with units := mset s.units u (f (s.unit u)) }
/-- A cluster's state; cluster 16 is Croft. -/
def cluster (s : State) (c : Nat) : ClusterSt := mget s.clusters c {}
/-- Changes a cluster's state. -/
def modCluster (s : State) (c : Nat) (f : ClusterSt → ClusterSt) : State :=
  { s with clusters := mset s.clusters c (f (s.cluster c)) }
/-- A partition's registers. -/
def part (s : State) (p : Nat) : PartSt := mget s.parts p {}
/-- Changes a partition's registers. -/
def modPart (s : State) (p : Nat) (f : PartSt → PartSt) : State := { s with parts := mset s.parts p (f (s.part p)) }

end State

/-- The cluster of a unit (R14, R24). -/
def clusterOf (u : Nat) : Nat := if 256 ≤ u then 16 else u % 16 / 4 + u / 64 * 4

/-- A unit on Croft (R17). -/
def isCroft (u : Nat) : Bool := 256 ≤ u

/-- The units of a cluster (R14, R17). -/
def unitsOf (c : Nat) : List Nat :=
  if c = 16 then [256, 257, 258, 259] else (List.range 256).filter (fun u => clusterOf u == c)

/-- The outcome of naming a logical unit (R28). -/
inductive LumRes where
  | unmapped
  | migrating
  | to (u : Nat)
deriving DecidableEq, Repr

/-- The LUM entry of a logical unit (R26). -/
def State.lumEntry (s : State) (p n : Nat) : BitVec 32 := mget (s.part p).lum n 0

/-- The table of R28, for entry values alone: fenced and unmapped act alike. -/
def lumResOf (e : BitVec 32) : LumRes :=
  if !bit e 31 || 260 ≤ bits e 8 0 then .unmapped
  else match bits e 30 29 with
    | 0 => .to (bits e 8 0)
    | 1 => .migrating
    | _ => .unmapped

/-- Resolves a logical unit of a partition (R28). -/
def State.lumRes (s : State) (p n : Nat) : LumRes := lumResOf (s.lumEntry p n)

/-- The unit a context is in, or the one its home maps to (R323). -/
def State.unitOf (s : State) (c : Nat) : Nat :=
  match (s.dirE c).place with
  | .slot u _ => u
  | .tcc u => u
  | _ => bits (s.lumEntry (s.dirE c).part (s.dirE c).home) 8 0

/-- The ctx.id of a context of this device (R174). -/
def State.ctxId (s : State) (c : Nat) : Nat := bits s.linkcfg 2 0 * 65536 + c

/-- A fresh free value's argument (log 8). -/
def State.bump (s : State) : State := { s with fresh := s.fresh + 1 }

/-- Reads the executing context. -/
def getC : M Ctx := do let s ← get; pure (s.ctx s.cur)
/-- Changes the executing context. -/
def modC (f : Ctx → Ctx) : M Unit := modify (fun s => s.modCtx s.cur f)
/-- The executing context's directory entry. -/
def getD : M Dir := do let s ← get; pure (s.dirE s.cur)
/-- Changes the executing context's directory entry. -/
def modD (f : Dir → Dir) : M Unit := modify (fun s => s.modDir s.cur f)
/-- The unit the executing context is in. -/
def myUnit : M Nat := do let s ← get; pure (s.unitOf s.cur)
/-- Changes the unit the executing context is in. -/
def modU (f : UnitSt → UnitSt) : M Unit := modify (fun s => s.modUnit (s.unitOf s.cur) f)
/-- The state of the unit the executing context is in. -/
def getU : M UnitSt := do let s ← get; pure (s.unit (s.unitOf s.cur))

/-! ### Control registers by number -/

/-- The value of a control register of a context as stored; fmt.cfg resets with DBS 0x3F80 (R93, R174). -/
def Ctx.csrGet (x : Ctx) (n : Nat) : Word := mget x.csr n (if n = 0x10 then 0x3F800000 else 0)
/-- Stores a control register. -/
def Ctx.csrSet (x : Ctx) (n : Nat) (v : Word) : Ctx := { x with csr := mset x.csr n v }
/-- fmt.cfg (R93). -/
def Ctx.fmt (x : Ctx) : Word := x.csrGet 0x10
/-- Whether the context's handler is running: trap.rec.IN (R365). -/
def Ctx.inHandler (x : Ctx) : Bool := bit (x.csrGet 0x31) 8

/-- Accrues sticky flags (R94). -/
def Ctx.accrue (x : Ctx) (f : Nat) : Ctx :=
  if f = 0 then x else x.csrSet 0x11 (x.csrGet 0x11 ||| w64 f)

/-! ### Registers (R163, R165, R192) -/

/-- Register i of class s: s0 reads zero (R163). -/
def Ctx.s (x : Ctx) (i : Nat) : Word := if i = 0 then 0 else mget x.sreg i 0
/-- Whether s register i is full and no result is outstanding to it (R163, R167). -/
def Ctx.sReady (x : Ctx) (i : Nat) : Bool := i == 0 || (bit x.sFull i && !bit x.outst i)
/-- A local write of an s register sets it full; a write to s0 is discarded (R75, R165). -/
def Ctx.setS (x : Ctx) (i : Nat) (v : Word) : Ctx :=
  if i = 0 then x else { x with sreg := mset x.sreg i v, sFull := putBit x.sFull i true }
/-- Register i of class v. -/
def Ctx.v (x : Ctx) (i : Nat) : VWord := mget x.vreg i 0
/-- A local write of a v register sets it full. -/
def Ctx.setV (x : Ctx) (i : Nat) (v : VWord) : Ctx :=
  { x with vreg := mset x.vreg i v, vFull := putBit x.vFull i true }
/-- Register i of class k: k0 reads all ones (R164). -/
def Ctx.k (x : Ctx) (i : Nat) : BitVec 256 := if i = 0 then BitVec.allOnes 256 else mget x.kreg i 0
/-- A write of a mask; writes to k0 are discarded (R163). -/
def Ctx.setK (x : Ctx) (i : Nat) (v : BitVec 256) : Ctx := if i = 0 then x else { x with kreg := mset x.kreg i v }

/-! ### The cluster management core (R370) -/

/-- The mailbox entries reserved to the units of a cluster: two each (R370). -/
def reservedMb (cl : Nat) : Nat := if cl = 16 then 8 else 32

/-- Whether a record of unit `u` (none for class R) finds a free mailbox entry: of a unit's entries the first two use its
own places, all others are shared (R370). -/
def mbFree (cl : Nat) (m : List MbEnt) (u : Option Nat) : Bool :=
  let mine := fun (v : Nat) => (m.filter (fun e => e.unit == some v)).length
  let shared := m.length - nsum ((unitsOf cl).map (fun v => min 2 (mine v)))
  match u with
  | some v => mine v < 2 || shared < 64 - reservedMb cl
  | none => shared < 64 - reservedMb cl

/-- Moves waiting records into the mailbox as far as places allow, in arrival order per unit (R370). -/
def mbFill (cl : Nat) : List MbEnt → List MbEnt → List MbEnt → List MbEnt × List MbEnt
  | [], m, w => (m, w)
  | e :: t, m, w =>
    if mbFree cl m e.unit && !w.any (fun x => x.unit == e.unit) then mbFill cl t (m ++ [e]) w else mbFill cl t m (w ++ [e])

/-- A record reaches the mailbox of a cluster, or waits for a place (R370). -/
def State.toMailbox (s : State) (cl : Nat) (e : MbEnt) : State :=
  s.modCluster cl (fun x =>
    let (m, w) := mbFill cl (x.waiting ++ [e]) x.mbox []
    { x with mbox := m, waiting := w })

/-- A record of class R, with CTX = 0 (R362, R370). -/
def State.logR (s : State) (cl cause : Nat) (addr : Word) : State :=
  let s := s.toMailbox cl { words := [w64 (cause + 7 * 2 ^ 11 + 5 * 2 ^ 8), 0, addr, 0, 0, w64 s.time, 0, 0], unit := none }
  s.modCluster cl (fun x =>
    if cause = 0x40 then { x with corr := min (x.corr + 1) 0xFFFF }
    else if cause = 0x44 then { x with rply := min (x.rply + 1) 0xFFFF } else x)

/-! ### Soft errors at reads (R33, R117) -/

/-- The cluster a scratchpad's records go to; the die scratchpad's go to cluster 0 (log 44). -/
def padCluster (a : Nat) : Nat :=
  if isUnitPad a then clusterOf (padUnit a) else if 2 ^ 53 ≤ a then 16 else if 2 ^ 52 ≤ a then 0 else (a - 2 ^ 51) / 2 ^ 24 % 16

/-- The first bytes of the checked units a run of bytes meets: bursts in DRAM, words elsewhere. -/
def errRuns (a n : Nat) : List Nat :=
  let g := if isDram a then 32 else 8
  (rangeFrom (a / g) ((a + n - 1) / g + 1 - a / g)).map (g * ·)

/-- Corrects what a read of `n` bytes finds correctable, with a record each (R33, R117). DESIGN CHOICE: the record of a
scratchpad's word goes to the cluster the scratchpad belongs to, whoever reads it (log 44); that of a burst to the requesting
unit's. -/
def State.correct (s : State) (u a n : Nat) : State :=
  if s.memErr.isEmpty then s else
  (errRuns a n).foldl (fun s w =>
    if s.errAt w == 1 then ({ s with memErr := mdel s.memErr (errKey w) }).logR (if isPad w then padCluster w else clusterOf u) 0x40 (w64 w)
    else s) s

/-- Reads a granule's tag: a correctable error is recorded, an uncorrectable one leaves the tag zero with a record (R117). -/
def State.tagRead (s : State) (a : Nat) : State × BitVec 16 :=
  match mget s.tagErr (a / 1024) 0 with
  | 0 => (s, s.tagAt a)
  | 1 => (({ s with tagErr := mdel s.tagErr (a / 1024) }).logR (padCluster a) 0x40 (w64 a), s.tagAt a)
  | _ => ((({ s with tagErr := mdel s.tagErr (a / 1024) }).setTag a 0).logR (padCluster a) 0x42 (w64 a), 0)

/-! ### Register reads -/

/-- The key of a register's soft error (R383): class as R364 codes it. -/
def regKey (c cls i : Nat) : Nat := c * 4096 + cls * 256 + i

/-- The check of R383 at the read of a register: a corrected error is recorded, an uncorrectable one ends the instruction
with cause 0x41. -/
def regCheck (cls i : Nat) : M Unit := do
  let s ← get
  match mget s.regErr (regKey s.cur cls i) 0 with
  | 0 => pure ()
  | 1 =>
    let cl := clusterOf (s.unitOf s.cur)
    set ({ s with regErr := mdel s.regErr (regKey s.cur cls i) }.logR cl 0x40 (w64 (cls * 256 + i)))
  | _ => throw (.trap { cause := 0x41, addr := w64 (cls * 256 + i), kind := 5 })

/-- The check of a mask at its read; k0 is no register (R164, R383). -/
def maskCheck (k : Nat) : M Unit := if k = 0 then pure () else regCheck 3 k

/-- Reads s register i: waits while it is empty or a result is outstanding to it (R163, R167). -/
def rdS (i : BitVec 5) : M Word := do
  let x ← getC
  stallUnless (x.sReady i.toNat) wReg
  if i.toNat = 0 then pure 0 else do
    regCheck 0 i.toNat
    pure (x.s i.toNat)

/-- A source s register: waits as its read would (R163, R167, R192). -/
def needS (i : BitVec 5) : M Unit := do
  let x ← getC
  stallUnless (x.sReady i.toNat) wReg

/-- A destination s register: waits while a result is outstanding to it (R167). -/
def needD (i : BitVec 5) : M Unit := do
  let x ← getC
  stallUnless (i.toNat == 0 || !bit x.outst i.toNat) wReg

/-- Writes s register i (R165). -/
def wrS (i : BitVec 5) (v : Word) : M Unit := modC (fun x => x.setS i.toNat v)

/-- Whether a wait ends only by an event that marks the context ready (R333). -/
def waitsForEvent (why : Nat) : Bool := [wReg, wQueue, wHandle, wEngine, wBarrier, wMessage, wEvent, wRing].contains why

/-- Sets the next pc (R75). -/
def setNpc (t : Word) : M Unit := modify (fun s => { s with npc := t })

/-- The address of the executing instruction. -/
def getPc : M Word := do let x ← getC; pure x.pc

/-! ### The fabric's wake rules -/

/-- Sets a context's event bit (R348). -/
def State.signal (s : State) (c : Nat) : State := s.modDir c (fun d => { d with event := true })

/-- Ends a park of a context that waits on a register or event; it executes again (R76). -/
def State.unpark (s : State) (c : Nat) : State :=
  let s := s.modDir c (fun d => { d with ready := true, since := if d.ready then d.since else s.time })
  match mfind s.ctxs c with
  | some x => match x.wait with
    | some w => if w.external then s else s.setCtx c { x with wait := none }
    | none => s
  | none => s

/-- What a unit's contexts waited for may now hold: each of them is ready to try again (R333). -/
def State.wakeUnit (s : State) (u : Nat) : State :=
  s.dir.foldl (fun s e => if e.2.st == 1 && s.unitOf e.1 == u then s.unpark e.1 else s) s

/-! ### Register windows (R168, R169, R204, R205) -/

/-- win.base.BASE in bytes (R168). -/
def Ctx.winBase (x : Ctx) : Nat := bits (x.csrGet 0x28) 18 3 * 8
/-- win.depth.DEPTH (R168). -/
def Ctx.depth (x : Ctx) : Nat := bits (x.csrGet 0x29) 15 0
/-- win.depth.LIMIT (R168). -/
def Ctx.limit (x : Ctx) : Nat := bits (x.csrGet 0x29) 31 16
/-- The windows resident, the current one included (R204). -/
def Ctx.resident (x : Ctx) : Nat := x.wins.length + 1
/-- A spill of frame `d` stays within LIMIT and the unit scratchpad (R169). -/
def Ctx.frameOk (x : Ctx) (d : Nat) : Bool := d < x.limit && x.winBase + d * 136 + 136 ≤ 0x80000
/-- The frames that can still be spilled, of the next `n`. -/
def Ctx.canSpill (x : Ctx) (n : Nat) : Bool := (List.range n).all (fun i => x.frameOk (x.depth + i))

/-- The current window's s8 to s23, as a window to stand behind a new one. -/
def Ctx.asWin (x : Ctx) : Win :=
  { regs := x.sreg.filter (fun e => 8 ≤ e.1 && e.1 < 24), full := x.sFull.extractLsb' 8 16 }

/-- Opens a window: s8 to s15 are the caller's s24 to s31 with their full bits, s16 to s31 zero and full (R204). -/
def Ctx.openWin (x : Ctx) : Ctx :=
  let out := (x.sreg.filter (fun e => 24 ≤ e.1 && e.1 < 32)).map (fun e => (e.1 - 16, e.2))
  let f := BitVec.ofNat 32 (bits x.sFull 7 0 + bits x.sFull 31 24 * 256 + 0xFFFF * 65536)
  { x with wins := x.asWin :: x.wins, sreg := x.sreg.filter (fun e => e.1 < 8) ++ out, sFull := f }

/-- Closes the current window: the one behind it becomes current, its s24 to s31 being the discarded s8 to s15 (R205). -/
def Ctx.closeWin (x : Ctx) : Ctx :=
  match x.wins with
  | [] => x
  | w :: ws =>
    let ins := (x.sreg.filter (fun e => 8 ≤ e.1 && e.1 < 16)).map (fun e => (e.1 + 16, e.2))
    let f := BitVec.ofNat 32 (bits x.sFull 7 0 + w.full.toNat * 256 + bits x.sFull 15 8 * 2 ^ 24)
    { x with wins := ws, sreg := x.sreg.filter (fun e => e.1 < 8) ++ w.regs.filter (fun e => 8 ≤ e.1 && e.1 < 24) ++ ins, sFull := f }

/-- Writes a frame: dwords 0 to 15 are s8 to s23, dword 16 the full bits; every granule written loses V (R168, R123). -/
def State.writeFrame (s : State) (loc : Nat) (w : Win) : State :=
  let s := (List.range 16).foldl (fun s i => (s.poke (loc + 8 * i) 8 (mget w.regs (8 + i) 0).toNat).clearV (loc + 8 * i)) s
  (s.poke (loc + 128) 8 w.full.toNat).clearV (loc + 128)

/-- The window a frame holds (R168). -/
def State.readFrame (s : State) (loc : Nat) : Win :=
  { regs := (List.range 16).map (fun i => (8 + i, w64 (s.peek (loc + 8 * i) 8))), full := BitVec.ofNat 16 (s.peek (loc + 128) 8) }

/-- One spill: the oldest resident window of a context goes to frame DEPTH (R169). -/
def State.spill (s : State) (c : Nat) : State :=
  let x := s.ctx c
  match x.wins.getLast? with
  | none => s
  | some w =>
    let s := s.writeFrame (unitLoc (s.unitOf c) (x.winBase + x.depth * 136)) w
    s.setCtx c ({ x with wins := x.wins.dropLast }.csrSet 0x29 (putBits (x.csrGet 0x29) 15 0 (x.depth + 1)))

/-- The own-unit window address of an offset (R43). -/
def ownWindow (off : Nat) : Word := 0xFFFF100000000000 + w64 off

/-- The own-unit offset of the frame a fill reads (R169). An offset far beyond the scratchpad stays within the place its unit has, where
nothing is held beyond 0x7FFFF (log 67). -/
def Ctx.fillOff (x : Ctx) : Nat := min (x.winBase + (x.depth - 1) * 136) 0xFFF00

/-- Whether the frame a fill reads can be delivered (R117). -/
def State.fillOk (s : State) (c : Nat) : Bool := s.readErr (unitLoc (s.unitOf c) (s.ctx c).fillOff) 136 == 0

/-- One fill: frame DEPTH - 1 becomes the oldest resident window (R169). DESIGN CHOICE: of a frame that a rewritten win.base puts
beyond the scratchpad's 0x80000 bytes, the bytes beyond read as zero (log 67). -/
def State.fill (s : State) (c : Nat) : State :=
  let x := s.ctx c
  let loc := unitLoc (s.unitOf c) x.fillOff
  let s := (s.touch loc).correct (s.unitOf c) loc 136
  let w := s.readFrame loc
  s.setCtx c ({ x with wins := x.wins ++ [w] }.csrSet 0x29 (putBits (x.csrGet 0x29) 15 0 (x.depth - 1)))

/-- Spills until two windows more fit (R366), as many as are needed. -/
def State.makeRoom (s : State) (c : Nat) : Nat → State
  | 0 => s
  | n + 1 => if (s.ctx c).resident ≤ 2 then s else (s.spill c).makeRoom c n

/-- Whether `n` windows can be opened without cause 0x0E (R169, R366). -/
def Ctx.canOpen (x : Ctx) (n : Nat) : Bool := x.canSpill (x.resident + n - 4)

/-! ### Engine command ends (R146, R157, R158) -/

/-- A status word (R158). -/
def statusWord (st cause misscnt first : Nat) : Word :=
  w64 (st + cause * 256 + misscnt % 2 ^ 24 * 65536 + (if misscnt = 0 then 0 else first % 2 ^ 24 * 2 ^ 40))

/-- The commands of every unit with their unit. -/
def State.allCmds (s : State) : List (Nat × Cmd) := s.units.flatMap (fun e => e.2.cmds.map (fun k => (e.1, k)))

/-- Whether two ranges share a byte. -/
def Region.meets (a b : Region) : Bool := rangesMeet a.lo a.len b.lo b.len

/-- Whether two commands may not overlap in time (R148). -/
def Cmd.conflicts (a b : Cmd) : Bool :=
  a.writes.any (fun r => (b.reads ++ b.writes).any (·.meets r)) || b.writes.any (fun r => a.reads.any (·.meets r))

/-- The same accepted command: sequence numbers come again after 2^24 (R146). -/
def Cmd.same (j k : Cmd) : Bool := j.seq == k.seq && j.order == k.order

/-- A command of the Gaussian message engine (R275). -/
def Cmd.isGme (k : Cmd) : Bool := 0xA4 ≤ bits k.word 31 24 && bits k.word 31 24 ≤ 0xAC

/-- Bars the replay of commands that a predicate picks (R160). -/
def State.staleBy (s : State) (hit : Cmd → Bool) : State :=
  if s.allCmds.any (fun uj => hit uj.2) then
    { s with units := s.units.map (fun e => (e.1, { e.2 with cmds := e.2.cmds.map (fun j => if hit j then { j with stale := true } else j) })) }
  else s

/-- A command that starts bars the replay of every one accepted before it whose write regions it meets (R160). -/
def State.staleStart (s : State) (k : Cmd) : State :=
  s.staleBy (fun j => j.order < k.order && (k.reads ++ k.writes).any (fun r => j.writes.any (·.meets r)))

/-- A checkpoint copy command (R386, R387). -/
def Cmd.isCkpt (k : Cmd) : Bool := bits k.word 31 24 == 0xDA

/-- Whether a command that ends with a status may have written (R159, R160, R161, R277). -/
def Cmd.mayWrite (k : Cmd) (st : Word) : Bool :=
  k.started && bits st 2 0 != 3 && !(bits st 2 0 == 2 && (k.isGme || bits st 15 8 == 0x12 || bits st 15 8 == 0x0D))

/-- A command that has written bars the replay of every one accepted before it whose read regions it wrote (R160). -/
def State.staleEnd (s : State) (k : Cmd) : State :=
  s.staleBy (fun j => j.order < k.order && k.writes.any (fun r => j.reads.any (·.meets r)))

/-- The kept statuses of a unit when a command ends: one whose sequence number a later command bears keeps none (R146). -/
def UnitSt.doneWith (x : UnitSt) (k : Cmd) (st : Word) : List (Nat × Word) :=
  if x.cmds.any (fun j => j.seq == k.seq && k.order < j.order) || x.done.any (fun e => e.1 == k.seq) then x.done
  else ((k.seq, st) :: x.done).take 256

/-- Ends a command with a status: it leaves the scheduler, its status is among the 256 kept, a failure sets XFAIL (R157),
and its issuer's event bit is set (R348). After a checkpoint that does not complete the next one copies every block (R387). An issuer on
another device is numbered from 65536 on and keeps nothing here. -/
def State.endCmd (s : State) (u : Nat) (k : Cmd) (st : Word) : State :=
  let s := (if k.mayWrite st then s.staleEnd k else s).modUnit u (fun x => { x with cmds := x.cmds.filter (fun y => !y.same k), done := x.doneWith k st })
  if 65536 ≤ k.issuer then s else
  let fail := bits st 2 0 == 2 || bits st 2 0 == 3
  let s := s.modDir k.issuer (fun d =>
    let d := if fail && k.isCkpt then { d with ckImage := [] } else d
    if fail && d.xfailNo ≤ k.no then { d with xfail := st, xfailNo := k.no, xfailNew := true } else d)
  (s.signal k.issuer).unpark k.issuer

/-! ### Iterations of the snapshot unit (R293 to R298) -/

/-- The stores of a context still in its unit's buffer. -/
def State.ownStores (s : State) (c : Nat) : List Store := (s.unit (s.unitOf c)).sb.filter (fun e => e.ctx == c)

/-- This device's number (R420). -/
def State.devNo (s : State) : Nat := bits s.linkcfg 2 0

/-- Whether a delivery or remote command a context sent before a point is not acknowledged yet (R183, R188, R264). -/
def State.unackedBefore (s : State) (c no : Nat) : Bool :=
  let mine := fun (d : Delivery) => d.dev == s.devNo && d.sender == c && !d.orphan && d.no < no
  s.pkts.any (fun p => match p.body with | .delivery d => mine d | .ack r _ n _ => r == c && n < no | _ => false) ||
    s.units.any (fun e => e.2.mbox.any (fun m => mine m.1) || e.2.rcq.any (fun r => mine r.d))

/-- Whether everything a context did before a point has ended, and every fault of it has been taken (R299). -/
def State.finishedBefore (s : State) (c no : Nat) : Bool :=
  !(s.ownStores c).any (fun e => e.id < no) && !s.unackedBefore c no && !s.allCmds.any (fun uk => uk.2.issuer == c && uk.2.no < no) &&
    !(s.unit (s.unitOf c)).sfq.any (fun r => r.ctx == c && r.no < no)

/-- Whether a member is finished (R295, R299): so marked, or finishing with all that it waits for at an end. -/
def State.memberDone (s : State) (m : Member) : Bool := m.st == 2 || (m.st == 1 && s.finishedBefore m.ctx m.no)

/-- The SNAP commands of an iteration that have not started are cancelled, and in a chain the later commands of their unit that
waited for them (R161, R298). -/
def cancelled (e : Nat) : List Cmd → List Cmd → List Cmd
  | _, [] => []
  | bad, k :: l =>
    if (k.iter == some e && !k.started) || bad.any (fun b => b.conflicts k || (b.acc.isSome && b.acc == k.acc)) then
      k :: cancelled e (k :: bad) l
    else cancelled e bad l

/-- Abandons an iteration (R298): its records go, its unstarted commands are cancelled with cause 0x28, and the opener takes
cause 0x28 unless the trigger is its own trap, SABORT, halt or reset (`exempt`). -/
def State.abandon (s : State) (e trigger cause : Nat) (exempt : Bool) : State :=
  let it := mget s.ssu e {}
  if it.st != 1 then s else
  let told := exempt && trigger == it.opener
  let s := { s with ssu := mset s.ssu e { it with st := 3, recs := [], owes := !told, cause := cause } }
  let s := s.units.foldl (fun s u => (cancelled e [] u.2.cmds).foldl (fun s k => s.endCmd u.1 k (statusWord 3 0x28 0 0)) s) s
  if told then s
  else (s.modDir it.opener (fun d => { d with async := d.async ++ [{ cause := 0x28, addr := w64 (it.gen * 256 + e), aux := w64 cause }] })).unpark it.opener

/-- Abandons every open iteration of which a context is an unfinished member (R296 items 1 to 3): `no` is the place of the work whose
fault is being taken, which is unfinished till then (R299). -/
def State.abandonOf (s : State) (c cause no : Nat) (exempt : Bool) : State :=
  s.ssu.foldl (fun s e =>
    if e.2.members.any (fun m => m.ctx == c && (!s.memberDone m || (m.st == 1 && no < m.no))) then s.abandon e.1 c cause exempt else s) s

/-- Abandons every open iteration that a context opened: it halts or is reset (R296 item 4). -/
def State.abandonOpened (s : State) (c : Nat) : State :=
  s.ssu.foldl (fun s e => if e.2.opener == c then s.abandon e.1 c 0 true else s) s

/-- An abandoned or committing entry returns to free once nothing names it (R293). -/
def State.reapIters (s : State) : State :=
  { s with ssu := s.ssu.map (fun e =>
      if (e.2.st == 2 || (e.2.st == 3 && !e.2.owes)) && !s.allCmds.any (fun uk => uk.2.iter == some e.1) then
        (e.1, { e.2 with st := 0, recs := [], members := [] })
      else e) }

/-! ### Taking a trap (R361 to R367) -/

/-- The causes whose traps always go to the management core (R362). -/
def causeToCmc (cause : Nat) : Bool := cause == 0x30 || cause == 0x41 || cause == 0x34 || cause == 0x40 || cause == 0x44 || cause == 0x48

/-- The traps that wait for a context, as NREC counts them (R363). -/
def State.waitingTraps (s : State) (c : Nat) : Nat :=
  ((s.unit (s.unitOf c)).sfq.filter (fun r => r.ctx == c)).length + (s.dirE c).async.length

/-- Doublewords 0 to 7 of a record (R363). -/
def State.record (s : State) (c : Nat) (t : TrapInfo) (imp : Bool) (pc rpc : Word) (insn : BitVec 32) : List Word :=
  let info := s.ctxId c * 2 ^ 32 + min (s.waitingTraps c) 255 * 2 ^ 24 + t.orig % 128 * 2 ^ 17 + t.size % 8 * 2 ^ 14 +
    t.level % 8 * 2 ^ 11 + t.kind % 8 * 2 ^ 8 + b2n imp * 128 + t.cause % 128
  [w64 info, pc, t.addr, t.data, t.aux, w64 s.time, insn.setWidth 64, rpc]

/-- A trap in a task freezes the ring that supplied it, and a report sets out to the ring's owner (R355): it enters the record
queue when there is room (R371). What waits on the ring finds it frozen (R333, R354). -/
def State.freezeRing (s : State) (c r : Nat) (entry : Word) (cause : Nat) : State :=
  let u := s.unitOf c
  let ring := mget (s.unit u).rings r {}
  let s := (s.modUnit u (fun x => { x with rings := mset x.rings r { ring with frozen := true } })).wakeUnit u
  match ring.owner with
  | none => s
  | some o =>
    let rec' : Rec := { ctx := o, cause := 0x1C, kind := 4, addr := entry, data := w64 (r + s.ctxId c * 65536), aux := w64 cause }
    if (s.dirE o).st != 1 then s else s.modUnit u (fun x => { x with reports := x.reports ++ [rec'] })

/-- What a trap does to the task and the iterations of the context, whichever way it goes (R296, R355): cause 0x28 has been told to an
opener when the trap that R298 raised for it, an asynchronous one, is taken (R293). -/
def State.trapSides (s : State) (c : Nat) (t : TrapInfo) : State :=
  let x := s.ctx c
  let s := match t.ring with
    | some (r, e) => s.freezeRing c r e t.cause
    | none => if x.task.active && !x.task.opcall then s.freezeRing c x.task.ring (x.task.pkt ||| w64 (b2n x.task.mov)) t.cause else s
  let s := s.abandonOf c t.cause t.no true
  let s := match t.iter with | some e => s.abandon e c t.cause true | none => s
  { s with ssu := s.ssu.map (fun e => if t.cause == 0x28 && t.kind == 5 && e.2.opener == c && t.addr == w64 (e.2.gen * 256 + e.1) then (e.1, { e.2 with owes := false }) else e) }

/-- Whether a trap goes to the context's handler (R366, R367): destination H, EN = 1, IN = 0, two windows can be opened, and
it does not come from work the handler issued. -/
def State.toHandler (s : State) (c : Nat) (t : TrapInfo) (fromHandler : Bool) : Bool :=
  let x := s.ctx c
  !causeToCmc t.cause && bit (x.csrGet 0x30) 0 && !x.inHandler && !fromHandler && x.canOpen 2

/-- Whether entry to the handler must wait: a scalar result is outstanding to s8 to s31 (R366). -/
def Ctx.resultsOut (x : Ctx) : Bool := (x.outst >>> 8) != 0

/-- Entry to the handler (R366): keeper window, handler window, the record in s8 to s15, trap.rec, and the pc. -/
def State.enterHandler (s : State) (c cause : Nat) (rec' : List Word) : State :=
  let s := s.makeRoom c 4
  let x := (s.ctx c).openWin.openWin
  let x := (List.range 8).foldl (fun x i => x.setS (8 + i) (rec'.getD i 0)) x
  let x := x.csrSet 0x31 (w64 (256 + cause))
  s.setCtx c { x with pc := x.csrGet 0x30 &&& ~~~3, trec := rec', wait := none }

/-- A trap that goes to the management core holds the context and posts its record (R370). -/
def State.holdAtCmc (s : State) (c : Nat) (rec' : List Word) : State :=
  let u := s.unitOf c
  let s := s.modCtx c (fun x => { x with held := true, trec := rec', wait := none })
  s.toMailbox (clusterOf u) { words := rec', unit := some u, part := (s.dirE c).part, gens := (s.dirE c).gens }

/-- Drops what an instruction that did not end has fetched over the mesh (R114, R361). -/
def State.dropGot (s : State) (c : Nat) : State := if (s.ctx c).got.isEmpty then s else s.modCtx c (fun x => { x with got := [] })

/-- A context that goes on is at no barrier and not just behind a DRAIN any more, and at its MIGPT only where told (R219, R401, R409). -/
def State.moveOn (s : State) (c : Nat) (keepArrival : Bool) : State :=
  let d := s.dirE c
  if (d.arrived && !keepArrival) || d.drained || d.barWait.isSome then
    s.modDir c (fun d => { d with arrived := d.arrived && keepArrival, drained := false, barWait := none })
  else s

/-- TAKING A TRAP: the one operation for every class (R361, R366, R367, R370). `pc` and `rpc` are the record's PC and the
resume PC; `fromHandler` is said of records whose work was issued while IN = 1. -/
def State.takeTrap (s : State) (c : Nat) (t : TrapInfo) (imp : Bool) (pc rpc : Word) (insn : BitVec 32) (fromHandler : Bool) : State :=
  let rec' := s.record c t imp pc rpc insn
  let s := if (s.dirE c).hwait.isSome then s.modDir c (fun d => { d with hwait := none, hfreed := false }) else s
  let s := s.dropGot c
  if s.toHandler c t fromHandler then
    if (s.ctx c).resultsOut then s.modCtx c (fun x => { x with wait := some { why := wReg, since := (s.unit (s.unitOf c)).cyc } })
    else ((s.moveOn c false).trapSides c t).enterHandler c t.cause rec'
  else ((s.moveOn c false).trapSides c t).holdAtCmc c rec'

/-- The return of ERET (R369): both windows are discarded, trap.rec is cleared, and the pc is the handler's s15. -/
def Ctx.leaveHandler (x : Ctx) : Ctx × Word :=
  let t := x.s 15
  (x.closeWin.closeWin.csrSet 0x31 0, t)

/-! ### The dispatch queue (R21, R224, R226, R383) -/

/-- The instructions whose context issues nothing after them until they have run at the head of the dispatch queue: loads, codebook
loads, matrix and GME instructions (R243, R253, R262, R263, R276). -/
def runsAtHead (i : Instr) : Bool :=
  match i with
  | .vld _ _ _ _ _ _ | .vlds _ _ _ _ _ _ | .vgath _ _ _ _ _ _ | .kld _ _ _ | .ald _ _ _ _ | .cbld _ _ => true
  | .mma _ _ _ _ _ _ _ | .mmaz _ _ _ _ _ _ _ | .mmas _ _ _ _ _ _ _ | .azeroF32 _ | .azeroI32 _ => true
  | .gld _ _ _ _ | .gst _ _ _ | .gacc _ _ _ _ _ | .gsub _ _ _ _ _ | .gschur _ _ _ _ | .gdamp _ _ _ _ | .gsolve _ _ _
  | .gresid _ _ _ _ | .gsend _ _ _ _ _ => true
  | _ => false

/-- The vector stores: their entries take data at the head of the queue (R243). -/
def isWideStore (i : Instr) : Bool :=
  match i with
  | .vst _ _ _ _ _ _ _ | .vsts _ _ _ _ _ _ _ | .vscat _ _ _ _ _ _ _ | .vscadd _ _ _ _ _ _ _ | .kst _ _ _ _ | .ast _ _ _ _ _ _ => true
  | _ => false

/-- Whether an entry is still to be issued from the queue: one that runs at the head, or a store that has come back from an image
(R226, log 13). -/
def DqEnt.unissued (e : DqEnt) : Bool :=
  match decode e.word with
  | .instr i => runsAtHead i || (isWideStore i && e.store.isNone)
  | .illegal _ => false

/-- The oldest entry of a queue still to be issued, with its place: the context executes it before any other instruction. -/
def Ctx.nextWide (x : Ctx) : Option (DqEnt × Nat) := x.dq.zipIdx.find? (fun e => e.1.unissued)

/-- The entries ahead of the executing wide instruction. -/
def Ctx.dqAhead (x : Ctx) : List DqEnt := match x.nextWide with | some e => x.dq.take e.2 | none => x.dq

/-- Drops a context's queue from place `n` on: stores that have not taken data leave the store buffer, and results that will not come
are awaited no longer (R167, R383). -/
def State.dropQueue (s : State) (c n : Nat) : State :=
  let x := s.ctx c
  let ids := (x.dq.drop n).filterMap (·.store)
  let s := s.modUnit (s.unitOf c) (fun u => { u with sb := u.sb.filter (fun e => !(ids.contains e.id)) })
  let left := (x.dq.take n).filterMap (fun e => match decode e.word with
    | .instr i => match i with
      | .vredsum d _ _ _ _ | .vredmax d _ _ _ _ | .vredmin d _ _ _ _ | .vargmax d _ _ _ _ | .kpop d _ | .kfirst d _ => some d.toNat
      | _ => none
    | .illegal _ => none) ++ x.results.map (·.1)
  s.setCtx c { x with dq := x.dq.take n, outst := left.foldl (fun o r => if r = 0 then o else putBit o r true) 0 }

/-- A wide instruction that waits in the queue with nothing issued behind it is taken back at a boundary where a trap is taken: it
has not executed (R76, log 13). -/
def State.unissue (s : State) (c : Nat) : State :=
  let x := s.ctx c
  match x.dq.getLast? with
  | some e => if e.unissued && e.pc + 4 == x.pc then s.setCtx c { x with dq := x.dq.dropLast, pc := e.pc } else s
  | none => s

/-! ### Running one instruction -/

/-- Marks a context parked: it keeps its pc and executes the instruction again when woken (R76). -/
def State.parkCtx (s : State) (why : Nat) (ext : Bool) : State :=
  let now := (s.unit (s.unitOf s.cur)).cyc
  s.modCtx s.cur (fun x => { x with wait := some { why := why, since := (x.wait.map (·.since)).getD now, external := ext } })

/-- A context has issued an instruction: each of its unresolved stores has one more behind it (R210). -/
def State.ageStores (s : State) (c : Nat) : State :=
  let u := s.unitOf c
  if (s.unit u).sb.any (fun e => e.ctx == c && e.rs == 0) then
    s.modUnit u (fun x => { x with sb := x.sb.map (fun e => if e.ctx == c && e.rs == 0 then { e with age := e.age + 1 } else e) })
  else s

/-- A context has executed an instruction: its pc moves, the hang count restarts (R381), and its stores age (R210). -/
def State.advance (s : State) (c : Nat) (npc : Word) : State :=
  (s.modCtx c (fun x => { x with pc := npc, wait := none, wdcnt := 0, got := [] })).ageStores c

/-- Completion of the executing instruction: the arrival at a MIGPT ends unless it is one (R409). -/
def State.retire (s : State) (keepArrival : Bool) : State := (s.advance s.cur s.npc).moveOn s.cur keepArrival

/-- A precise trap of the executing instruction: record PC and resume PC by R361. -/
def State.preciseTrap (s : State) (t : TrapInfo) (insn : BitVec 32) : State :=
  let pc := (s.ctx s.cur).pc
  s.takeTrap s.cur t false pc (t.rpc.getD pc) (if t.cause = 0x41 then 0 else insn) false

/-- A precise trap of an instruction that has issued, so that it counts behind the context's unresolved stores (R210); while entry to the
handler waits it has not. -/
def State.issuedTrap (s : State) (t : TrapInfo) (insn : BitVec 32) : State :=
  (if s.toHandler s.cur t false && (s.ctx s.cur).resultsOut then s else s.ageStores s.cur).preciseTrap t insn

/-- Runs an instruction's effect for the executing context: completion (then `fin`), a trap (class P, R361), or a park; in a task a
synchronising park is cause 0x18 (R349). -/
def runAs (insn : BitVec 32) (fin : State → State) (body : M Unit) (s : State) : Host.Outcome State Fault Refusal :=
  match body { s with npc := (s.ctx s.cur).pc + 4, insn := insn } with
  | .ok _ s' => .next (fin s')
  | .error (.trap t) s' => .next (s'.issuedTrap t insn)
  | .error (.park why sync ext) s' =>
    if sync && (s'.ctx s'.cur).task.active then .next (s'.issuedTrap { cause := 0x18 } insn)
    else .next (s'.parkCtx why ext)
  | .error .bad _ => .fault .noSuchAgent

/-- Runs an encoded instruction; its word stands in the record of a precise trap (R363). -/
def runInstr (i : Instr) (body : M Unit) (s : State) : Host.Outcome State Fault Refusal :=
  runAs ((encode i).getD 0) (fun t => t.retire false) body s

/-- Runs a device step: one that is not enabled in this state changes nothing. -/
def runEvent (body : M Unit) (s : State) : Host.Outcome State Fault Refusal :=
  match body s with
  | .ok _ s' => .next s'
  | .error .bad _ => .fault .noSuchAgent
  | .error _ _ => .next s

/-- A device step that reaches the register blocks: in recovery they are closed (R426). -/
def runOpen (body : M Unit) (s : State) : Host.Outcome State Fault Refusal := if s.bootErr = 0 then runEvent body s else .next s

/-- A device step's guard: what it says must hold, or nothing happens. -/
def enabled (b : Bool) : M Unit := if b then pure () else stall 0

/-- A device step's operand names an agent the device has. -/
def exists_ (b : Bool) : M Unit := if b then pure () else throw .bad

end Sys2Proof.Machine
end

