-- ==== Sys2Proof/Machine/Translate.lean ====
section
/-! DEFINITION. From virtual address to home: the untranslated windows (R43), the page-table walk (R45 to R49), the two
levels of TLB (R51) and the wake request of an access to a sleeping Acre (R19, R25, R394). -/

namespace Sys2Proof.Machine

/-! ### Routes (R15 to R18, R384) -/

/-- Whether an access from unit `u` travels as a mesh request (R114). -/
def isRemote (u a : Nat) : Bool :=
  (isUnitPad a && padUnit a != u) || (2 ^ 51 ≤ a && a < 2 ^ 52 && (a - 2 ^ 51) / 2 ^ 24 != clusterOf u) || (2 ^ 53 ≤ a && !isCroft u)

/-- The unit a request for a home travels to. DESIGN CHOICE: a cluster scratchpad answers at the first unit of its cluster, Croft
SRAM at unit 256, for a requester on the other island; the die scratchpad is not reached by mesh (log 50). -/
def homeUnit (u a : Nat) : Nat :=
  if isUnitPad a then padUnit a
  else if 2 ^ 53 ≤ a then (if isCroft u then u else 256)
  else if 2 ^ 51 ≤ a && a < 2 ^ 52 then ((unitsOf ((a - 2 ^ 51) / 2 ^ 24)).head?.getD u)
  else u

/-- The links of a path in dimension order through a grid of width `w` whose units are numbered from `base` (R15). -/
def gridPath (base w a b : Nat) : List (Nat × Nat) :=
  let ax := (a - base) % w
  let ay := (a - base) / w
  let bx := (b - base) % w
  let by_ := (b - base) / w
  let at_ := fun (x y : Nat) => base + y * w + x
  (rangeFrom (min ax bx) (max ax bx - min ax bx)).map (fun x => (at_ x ay, at_ (x + 1) ay)) ++
    (rangeFrom (min ay by_) (max ay by_ - min ay by_)).map (fun y => (at_ bx y, at_ bx (y + 1)))

/-- The bridge link that a route between the islands uses, by the row of its Acre end: its Croft unit and its Acre unit (R17,
R18). -/
def bridgeOf (acre : Nat) : Nat × Nat := if acre / 16 ≤ 7 then (257, 112) else (259, 128)

/-- The links of a packet's route, each with its lower unit first (R15 to R18). -/
def routeOf (a b : Nat) : List (Nat × Nat) :=
  let l := match isCroft a, isCroft b with
    | true, true => gridPath 256 2 a b
    | false, false => gridPath 0 16 a b
    | true, false => let (c, u) := bridgeOf b; gridPath 256 2 a c ++ [(u, c)] ++ gridPath 0 16 u b
    | false, true => let (c, u) := bridgeOf a; gridPath 0 16 a u ++ [(u, c)] ++ gridPath 256 2 c b
  l.map (fun e => (min e.1 e.2, max e.1 e.2))

/-- Whether a route between two units, there or back, crosses a link that has failed (R384). -/
def State.pathBad (s : State) (a b : Nat) : Bool :=
  !s.badLinks.isEmpty && (routeOf a b ++ routeOf b a).any (fun l => s.badLinks.contains l)

/-! ### Translation -/

/-- What an access is, for the checks of R48: full/empty and atomic operations are writes or reads with step 6. -/
structure Acc where
  fetch : Bool := false
  write : Bool := false
  fe : Bool := false
deriving DecidableEq, Repr

/-- A plain read. -/
def accR : Acc := {}
/-- A plain write. -/
def accW : Acc := { write := true }
/-- A fetch. -/
def accX : Acc := { fetch := true }
/-- A full/empty or atomic operation checked as a write. -/
def accFW : Acc := { write := true, fe := true }
/-- LDFF: a full/empty operation checked as a read. -/
def accFR : Acc := { fe := true }

/-- The not-present cause of an access: 0x09 for a write, 0x08 otherwise (R48). -/
def Acc.absent (k : Acc) : Nat := if k.write then 0x09 else 0x08

/-- On whose behalf an address is translated. -/
structure Who where
  u : Nat
  part : Nat
  asn : Nat
  sup : Bool
  /-- the context, for one that queues misses (R52) -/
  c : Option Nat := none
deriving DecidableEq, Repr

/-- The outcome of resolving an address. -/
inductive XRes where
  | ok (loc : Nat)
  | fault (cause level : Nat)
  | miss
  | wait (why : Nat)
deriving DecidableEq, Repr

/-- An untranslated address (R43). -/
def isWindow (va : Word) : Bool := bits va 63 48 == 0xFFFF

/-- The home a window address names for a requester in unit `u` of partition `p` (R24, R28, R30, R43, R113). DESIGN CHOICE: a
logical cluster of window 0x5 that maps to Croft names the first 4 MiB of Croft SRAM, from either island (log 51). -/
def State.windowHome (s : State) (u p : Nat) (va : Word) (k : Acc) : XRes :=
  let off := bits va 43 0
  let no := XRes.fault k.absent 7
  match bits va 47 44 with
  | 1 => if off < 0x80000 then .ok (unitLoc u off) else no
  | 2 => if off < 0x400000 then .ok (if isCroft u then croftLoc off else clusterLoc (clusterOf u) off) else no
  | 3 => if off < 0x2000000 then .ok (if isCroft u then croftLoc off else dieLoc off) else no
  | 4 =>
    if bits va 43 33 ≠ 0 ∨ 0x80000 ≤ bits va 23 0 then no
    else match s.lumRes p (bits va 32 24) with
      | .unmapped => no
      | .migrating => .wait wLum
      | .to v => .ok (unitLoc v (bits va 23 0))
  | 5 =>
    if bits va 43 33 ≠ 0 ∨ 0x400000 ≤ bits va 27 0 then no
    else match s.lumRes p (16 * bits va 32 28) with
      | .unmapped => no
      | .migrating => .wait wLum
      | .to v => .ok (if isCroft v then croftLoc (bits va 27 0) else clusterLoc (clusterOf v) (bits va 27 0))
  | _ => no

/-- The limit of a window address's window: bytes from `va` to its end, or none when `va` is out of range (R43). -/
def windowRoom (va : Word) : Option Nat :=
  let lim := match bits va 47 44 with
    | 1 => if bits va 43 0 < 0x80000 then some (0x80000 - bits va 43 0) else none
    | 2 => if bits va 43 0 < 0x400000 then some (0x400000 - bits va 43 0) else none
    | 3 => if bits va 43 0 < 0x2000000 then some (0x2000000 - bits va 43 0) else none
    | 4 => if bits va 43 33 = 0 ∧ bits va 23 0 < 0x80000 then some (0x80000 - bits va 23 0) else none
    | 5 => if bits va 43 33 = 0 ∧ bits va 27 0 < 0x400000 then some (0x400000 - bits va 27 0) else none
    | _ => none
  if isWindow va then lim else none

/-- The index of a level (R45). -/
def vaIndex (va level : Nat) : Nat :=
  match level with
  | 0 => va >>> 48
  | 1 => (va >>> 39) % 512
  | 2 => (va >>> 30) % 512
  | 3 => (va >>> 21) % 512
  | _ => (va >>> 12) % 512

/-- The page shift of a leaf level (R45). -/
def levelShift (level : Nat) : Nat := if level = 2 then 30 else if level = 3 then 21 else 12

/-- The outcome of a walk: failure at a level, or a leaf and where it stands. -/
inductive WalkRes where
  | fail (level : Nat)
  | leaf (level : Nat) (pte : Word) (pa : Nat)
deriving DecidableEq, Repr

/-- Whether a leaf page may be mapped for a partition (R48 step 2). -/
def leafPageOk (p level pa : Nat) : Bool :=
  let size := 2 ^ levelShift level
  populated (pa + size - 1) || isHostPa pa ||
    (level == 4 && 0x7F0000000000 + p * 0x100000 ≤ pa && pa < 0x7F0000000000 + (p + 1) * 0x100000)

/-- What a leaf or a table pointer that a walk reads at a level must be (R48 step 2): `some` says whether it is a leaf. -/
def pteKind (p level : Nat) (e : Word) : Option Bool :=
  let base := bits e 47 12 * 4096
  if !bit e 0 || bits e 63 48 ≠ 0 || bits e 11 9 ≠ 0 then none
  else if bit e 1 then
    if level < 2 || (level == 2 && bits e 29 12 ≠ 0) || (level == 3 && bits e 20 12 ≠ 0) || !leafPageOk p level base then none
    else some true
  else if level == 4 || bits e 8 2 ≠ 0 || !populated (base + 4095) then none
  else some false

/-- A read of a table word for a unit: the channel is active, correctable errors are corrected (R33, R39); none where the word
lies outside populated DRAM or its burst cannot be delivered (log 52). -/
def State.tableRead (s : State) (u pa : Nat) : Option Word × State :=
  if !populated (pa + 7) then (none, s) else
  let s := (s.touch pa).correct u pa 8
  (if s.readErr pa 8 = 0 then some (w64 (s.peek pa 8)) else none, s)

/-- The walk cache of a unit's island (R52). -/
def State.walkCache (s : State) (u : Nat) : List WalkEnt := if isCroft u then s.walkCroft else s.walkAcre

/-- Enters a table pointer in the walk cache, which holds 256 (R52). -/
def State.cachePte (s : State) (u : Nat) (e : WalkEnt) : State :=
  let l := (e :: s.walkCache u).take 256
  if isCroft u then { s with walkCroft := l } else { s with walkAcre := l }

/-- The walk from a table downwards (R48 step 2), on fuel of levels left; table pointers are read through the walk cache of the
unit's island (R52). -/
def State.walkFrom (s : State) (u p va level table : Nat) : Nat → WalkRes × State
  | 0 => (.fail level, s)
  | fuel + 1 =>
    let pa := table + 8 * vaIndex va level
    match (s.walkCache u).find? (fun e => e.part == p && e.pa == pa) with
    | some e => s.walkFrom u p va (level + 1) (bits e.pte 47 12 * 4096) fuel
    | none =>
      match s.tableRead u pa with
      | (none, s) => (.fail level, s)
      | (some e, s) =>
        match pteKind p level e with
        | none => (.fail level, s)
        | some true => (.leaf level e pa, s)
        | some false => (s.cachePte u { part := p, pa := pa, pte := e }).walkFrom u p va (level + 1) (bits e 47 12 * 4096) fuel

/-- The five-level walk of a virtual address in an address space, for a unit (R45, R46, R48 steps 1 and 2). -/
def State.walk (s : State) (u p asn va : Nat) : WalkRes × State :=
  match s.tableRead u (((s.part p).astBase &&& ~~~0x7FFF).toNat + 8 * asn) with
  | (none, s) => (.fail 0, s)
  | (some e, s) =>
    let root := bits e 47 19 * 2 ^ 19
    if !bit e 63 || bits e 62 48 ≠ 0 || bits e 18 0 ≠ 0 || !populated (root + 2 ^ 19 - 1) then (.fail 0, s)
    else s.walkFrom u p va 0 root 5

/-- A TLB entry that maps an address (R51). -/
def TlbEnt.hits (e : TlbEnt) (p asn va : Nat) : Bool :=
  e.part == p && (e.asn == asn || bit e.pte 7) && e.vpn == va >>> levelShift e.level

/-- Enters a translation in a TLB of `sets` sets of `ways` ways; a full set gives up the entry a free value picks (R51). -/
def tlbInsert (l : List TlbEnt) (e : TlbEnt) (sets ways pick : Nat) : List TlbEnt :=
  let l := l.filter (fun x => !(x.part == e.part && x.asn == e.asn && x.level == e.level && x.vpn == e.vpn))
  let mine := l.filter (fun x => x.vpn % sets == e.vpn % sets)
  if mine.length < ways then e :: l
  else e :: l.filter (fun x => some x != mine[pick % mine.length]?)

/-- Enters a translation in the second-level TLB of a unit's cluster and the unit's first-level TLB (R52). -/
def State.tlbFill (s : State) (u : Nat) (e : TlbEnt) : State :=
  let pick := Config.freeNat s.fresh
  let s := s.modUnit u (fun x => { x with tlb := tlbInsert x.tlb e 32 12 pick })
  let s := s.modCluster (clusterOf u) (fun x => { x with tlb := tlbInsert x.tlb e 256 16 pick })
  s.bump

/-- Sets a bit of a page-table entry in memory, for a unit, and in a TLB entry's copy (R49): a partial write of its burst, which is
corrected as it is read (R33, R34). -/
def State.setPte (s : State) (u : Nat) (e : TlbEnt) (b : Nat) : State × TlbEnt :=
  let v := putBit e.pte b true
  (((s.touch e.ptePa).correct u e.ptePa 8).pokeRaw e.ptePa 8 v.toNat, { e with pte := v })

/-- A walk that succeeds sets A, and installs its leaf for a unit (R49, R52). -/
def State.install (s : State) (u p asn va level : Nat) (pte : Word) (pa : Nat) : State × TlbEnt :=
  let e : TlbEnt := { part := p, asn := asn, level := level, vpn := va >>> levelShift level, pte := pte, ptePa := pa }
  let (s, e) := if bit pte 5 then (s, e) else s.setPte u e 5
  (s.tlbFill u e, e)

/-- The linked device whose enabled aperture holds a physical address (R422). -/
def State.apertureOf (s : State) (pa : Nat) : Option Nat :=
  let d := (pa - 0xF00000000000) / 2 ^ 38
  if 0xF00000000000 ≤ pa && d < 8 && d != bits s.linkcfg 2 0 && bit s.linkcfg (24 + d) then some d else none

/-- The port for traffic to a device, when LROUTE names one (R420). -/
def State.portTo (s : State) (d : Nat) : Option Nat := if 8 ≤ d || 4 ≤ bits s.lroute (4 * d + 3) (4 * d) then none else some (bits s.lroute (4 * d + 3) (4 * d))

/-- Whether traffic to a device finds its port down (R423). -/
def State.portDown (s : State) (d : Nat) : Bool := match s.portTo d with | some n => !bit s.linkcfg (16 + n) | none => false

/-- Whether an access of a unit to a home crosses a mesh link or a device port that has failed (R384, R423). -/
def State.cutOff (s : State) (u a : Nat) : Bool := s.pathBad u (homeUnit u a) || (isPeer a && s.portDown (peerOf a))

/-- The checks of R48 steps 3 to 6 on a leaf, and the home: behind an enabled aperture, the peer's DRAM (R422). -/
def State.useLeaf (s : State) (w : Who) (va : Nat) (k : Acc) (e : TlbEnt) : XRes :=
  let pa := bits e.pte 47 12 * 4096 + va % 2 ^ levelShift e.level
  if !bit e.pte 4 && !w.sup then .fault 0x04 e.level
  else if k.fetch && !bit e.pte 3 then .fault 0x0B e.level
  else if k.write && !bit e.pte 2 then .fault 0x0A e.level
  else match s.apertureOf pa with
    | some d =>
      if s.portDown d then .fault 0x46 e.level
      else if (s.portTo d).isNone || Config.peerBytes d ≤ pa % 2 ^ 38 || !Config.peerAdmits d s.fresh then .fault k.absent e.level else .ok (peerLoc d (pa % 2 ^ 38))
    | none => if k.fe && isHostPa pa then .fault 0x0D e.level else .ok pa

/-- A translation used by a write whose D is 0 sets D, if the entry still stands as the walk read it; otherwise the TLB
entry is dropped and the access walks again (R49). -/
def State.markDirty (s : State) (w : Who) (va : Nat) (k : Acc) (e : TlbEnt) : XRes × State :=
  match s.useLeaf w va k e with
  | .ok pa =>
    if !k.write || bit e.pte 6 then (.ok pa, s)
    else if w64 (s.peek e.ptePa 8) != e.pte then
      let drop := fun (l : List TlbEnt) => l.filter (fun x => x != e)
      (.miss, (s.modUnit w.u (fun x => { x with tlb := drop x.tlb })).modCluster (clusterOf w.u) (fun x => { x with tlb := drop x.tlb }))
    else
      let (s, e') := s.setPte w.u e 6
      let upd := fun (l : List TlbEnt) => l.map (fun x => if x = e then e' else x)
      (.ok pa, (s.modUnit w.u (fun x => { x with tlb := upd x.tlb })).modCluster (clusterOf w.u) (fun x => { x with tlb := upd x.tlb }))
  | r => (r, s)

/-- A miss for a page that no walk has answered yet (R52). -/
def Miss.asks (m : Miss) (p asn vpn : Nat) : Bool := m.part == p && m.asn == asn && m.vpn == vpn && m.failed.isNone

/-- A walk for a page has failed: every requester that waits for it is to learn so (R52). -/
def State.missFailed (s : State) (p asn vpn level : Nat) : State :=
  let gone := s.misses.filter (·.asks p asn vpn)
  if gone.isEmpty then s else
  let l := (s.misses.map (fun m => if m.asks p asn vpn then { m with walking := false, failed := some level } else m)).filter (fun m => m.failed.isNone || !m.ctxs.isEmpty)
  (gone.flatMap (·.units)).foldl (fun s u => s.wakeUnit u) { s with misses := l }

/-- A walk for a page has found its leaf: the TLBs of every requester that waits for it are filled before any goes on (R52). -/
def State.missFilled (s : State) (p asn vpn : Nat) (e : TlbEnt) : State :=
  let gone := s.misses.filter (·.asks p asn vpn)
  if gone.isEmpty then s else
  let us := gone.flatMap (·.units)
  us.foldl (fun s u => s.wakeUnit u) (us.foldl (fun s u => s.tlbFill u e) { s with misses := s.misses.filter (fun m => !m.asks p asn vpn) })

/-- Translates through the TLBs; a miss walks at once when `now`, and what the walk gives goes to all who wait for the same page; else it
answers `miss` (R51, R52, log 11). -/
def State.translate (s : State) (w : Who) (va : Nat) (k : Acc) (now : Bool) : XRes × State :=
  let walkNow := fun (s : State) =>
    match s.walk w.u w.part w.asn va with
    | (.fail l, s) => (XRes.fault k.absent l, s.missFailed w.part w.asn (va >>> 12) l)
    | (.leaf l pte pa, s) =>
      let (s, e) := s.install w.u w.part w.asn va l pte pa
      (s.missFilled w.part w.asn (va >>> 12) e).markDirty w va k e
  match (s.unit w.u).tlb.find? (fun e => e.hits w.part w.asn va) with
  | some e =>
    match s.markDirty w va k e with
    | (.miss, s) => if now then walkNow s else (.miss, s)
    | r => r
  | none =>
    match (s.cluster (clusterOf w.u)).tlb.find? (fun e => e.hits w.part w.asn va) with
    | some e =>
      let s := s.modUnit w.u (fun x => { x with tlb := tlbInsert x.tlb e 32 12 (Config.freeNat s.fresh) })
      match s.bump.markDirty w va k e with
      | (.miss, s) => if now then walkNow s else (.miss, s)
      | r => r
    | none =>
      if now then walkNow s else
      let mine := fun (m : Miss) => m.part == w.part && m.asn == w.asn && m.vpn == va >>> 12 && m.failed.isSome && w.c.any m.ctxs.contains
      match s.misses.find? mine with
      | some m => (.fault k.absent (m.failed.getD 0), { s with misses := (s.misses.map (fun x =>
          if x = m then { x with ctxs := x.ctxs.filter (fun c => some c != w.c) } else x)).filter (fun x => x.failed.isNone || !x.ctxs.isEmpty) })
      | none => (.miss, s)

/-- Resolves any virtual address for an access (R43, R45). -/
def State.resolve (s : State) (w : Who) (va : Word) (k : Acc) (now : Bool) : XRes × State :=
  if isWindow va then
    if k.fetch then (.fault 0x0B 7, s) else (s.windowHome w.u w.part va k, s)
  else
    match s.translate w va.toNat k now with
    | (.ok pa, s) => (.ok pa, s)
    | r => r

/-- On whose behalf the executing context accesses memory. -/
def State.whoIs (s : State) (c : Nat) : Who :=
  { u := s.unitOf c, part := (s.dirE c).part, asn := (s.ctx c).asn, sup := (s.ctx c).sup, c := some c }

/-- Acre's state, read as ISLCTL.STATE (R392). -/
def State.acreOn (s : State) : Bool := s.island.st == 0

/-- Raises an Acre wake request (R394): the time of the first is kept, and a change under way is reversed; while wakes are
inhibited or an emergency save runs it only stands (R404, R405). -/
def State.wakeAcre (s : State) : State :=
  if s.island.st = 0 then s else
  let i : Island := { s.island with request := true, wakeReq := if s.island.request then s.island.wakeReq else s.time }
  let j : Island :=
    if i.inh || i.emergency then i
    else if i.st = 3 then { i with to_ := 0 } else { i with from_ := i.st, st := 3, to_ := 0, since := s.time }
  { s with island := j }

/-- Adds a pending miss, joining one for the same page (R52). -/
def State.queueMiss (s : State) (w : Who) (va : Nat) : State :=
  let same := fun (m : Miss) => m.asks w.part w.asn (va >>> 12)
  if s.misses.any same then
    { s with misses := s.misses.map (fun m => if same m then { m with units := nins m.units w.u, ctxs := w.c.toList.foldl nins m.ctxs } else m) }
  else if 64 ≤ (s.misses.filter (fun m => !m.walking && m.units.any (fun v => clusterOf v == clusterOf w.u))).length then s
  else { s with misses := s.misses ++ [{ part := w.part, asn := w.asn, vpn := va >>> 12, croft := isCroft w.u, units := [w.u], ctxs := w.c.toList }] }

/-- Resolves an address for the executing context: traps with the fault's record, parks on a miss or a migrating unit (R28, R48,
R52). What it then does at a sleeping Acre's scratchpad is held at the bridge (R19). -/
def home (va : Word) (k : Acc) (n : Nat) (now : Bool) : M Nat := do
  let s ← get
  let w := s.whoIs s.cur
  match s.resolve w va k now with
  | (.ok loc, s') => do
    set s'
    pure loc
  | (.fault cause level, s') => do
    set s'
    trapAt cause va level (Nat.log2 n)
  | (.miss, s') => do
    set (s'.queueMiss w va.toNat)
    stall wTlb
  | (.wait why, s') => do
    set s'
    stall why

end Sys2Proof.Machine
end

