-- ==== Sys2Proof/Machine/Signal.lean ====
section
/-! DEFINITION. Barrier registers and the signals between them (R343, R345, R346), the release (R401), and what an access to a
sleeping unit or island wakes (R346, R391, R396). -/

namespace Sys2Proof.Machine

/-- The live contexts homed on a unit. -/
def State.homedOn (s : State) (u : Nat) : List Nat := (s.dir.filter (fun e => e.2.st == 1 && s.unitOf e.1 == u)).map (·.1)

/-! ### The register (R343) -/

def Bar.grp (b : Bar) : Nat := bits b.val 63 48
def Bar.y0 (b : Bar) : Nat := bits b.val 47 43
def Bar.x0 (b : Bar) : Nat := bits b.val 42 39
def Bar.wm1 (b : Bar) : Nat := bits b.val 38 35
def Bar.hm1 (b : Bar) : Nat := bits b.val 34 30
def Bar.nloc (b : Bar) : Nat := bits b.val 29 20
def Bar.narr (b : Bar) : Nat := bits b.val 19 10
def Bar.phase (b : Bar) : Nat := bits b.val 9 2
def Bar.v (b : Bar) : Bool := bit b.val 1
def Bar.brk (b : Bar) : Bool := bit b.val 0
/-- What identifies a barrier: its group and rectangle. -/
def barDesc (v : Word) : Word := v &&& 0xFFFFFFFFC0000000
/-- The unit's logical position (R345). -/
def Bar.x (b : Bar) : Nat := b.lunit % 16
def Bar.y (b : Bar) : Nat := b.lunit / 16

/-- A unit's barrier register. -/
def State.bar (s : State) (u r : Nat) : Bar := mget (s.unit u).bars r {}
/-- Replaces a barrier register. -/
def State.setBar (s : State) (u r : Nat) (b : Bar) : State := s.modUnit u (fun x => { x with bars := mset x.bars r b })

/-- Row-done (R345). -/
def Bar.rowDone (b : Bar) : Bool := b.v && b.narr == b.nloc && (b.x == b.x0 + b.wm1 || b.row)
/-- Column-done (R345). -/
def Bar.colDone (b : Bar) : Bool := b.x == b.x0 && b.rowDone && (b.y == b.y0 + b.hm1 || b.col)

/-! ### Signals (R345, R346) -/

/-- Sends a barrier packet from a unit to a logical unit of the barrier's partition, as the LUM has it now (R28). -/
def State.sendSig (s : State) (u kind lunit r : Nat) (b : Bar) : State :=
  let g : Sig := { kind := kind, part := b.part, lunit := lunit, reg := r, desc := barDesc b.val }
  let (dst, way) := match s.lumRes b.part lunit with
    | .to v => (v, Way.to)
    | .migrating => (u, .waits b.part lunit)
    | .unmapped => (u, .nowhere)
  { s with pkts := s.pkts ++ [{ src := u, dst := dst, way := way, body := .sig g }] }

/-- The signals a register sends when it changes from `old` to `new`: each done condition is announced as it comes true; a
corner that is column-done releases itself by a packet of its own. -/
def State.announce (s : State) (u r : Nat) (old new : Bar) : State :=
  let s := s.setBar u r new
  if new.rowDone && !old.rowDone && new.x0 < new.x then s.sendSig u 0 (new.lunit - 1) r new
  else if new.colDone && !old.colDone then
    if new.y0 < new.y then s.sendSig u 1 (new.lunit - 16) r new else s.sendSig u 2 new.lunit r new
  else s

/-- Whether a signal is for a register as it stands (R346). -/
def Sig.fits (g : Sig) (b : Bar) : Bool := b.v && b.part == g.part && b.lunit == g.lunit && barDesc b.val == g.desc

/-- The clusters of a barrier's rectangle, each once, by physical number. -/
def State.spanned (s : State) (b : Bar) : List Nat :=
  let l := (List.range (b.hm1 + 1)).flatMap (fun j => (List.range (b.wm1 + 1)).map (fun i => 16 * (b.y0 + j) + b.x0 + i))
  l.foldl (fun a n => match s.lumRes b.part n with | .to u => nins a (clusterOf u) | _ => a) []

/-- How long a unit's wake steps are delayed (R401). -/
def State.stagger (s : State) (u : Nat) (b : Bar) : Nat :=
  let cs := s.spanned b
  if bits s.slew 33 32 = 1 ∧ 1 < cs.length then
    (cs.filter (fun c => c < clusterOf u)).length / max 1 (bits s.slew 23 16) * bits s.slew 15 0
  else 0

/-- A unit receives or starts a release (R345): the phase, the arrivals and the held signals at once, the wake steps now or
staggered (R401), the event bits of its contexts (R348), and the release onwards. -/
def State.release (s : State) (u r : Nat) (b : Bar) : State :=
  let n : Bar := { b with val := putBits (putBits b.val 9 2 (b.phase + 1)) 19 10 0, row := false, col := false }
  let s := s.setBar u r n
  let s := if n.x == n.x0 && n.y < n.y0 + n.hm1 then s.sendSig u 2 (n.lunit + 16) r n else s
  let s := if n.x < n.x0 + n.wm1 then s.sendSig u 2 (n.lunit + 1) r n else s
  let d := s.stagger u n
  let s := (s.homedOn u).foldl (fun s c => s.signal c) s
  let s := if d = 0 then s.wakeUnit u else
    { s with staggers := s.staggers ++ [{ u := u, reg := r, at_ := s.time + d, ctxs := (s.homedOn u).filter (fun c => (s.dirE c).barWait == some r) }] }
  s.announce u r { n with val := 0 } n

/-- Applies a signal to the register it fits. -/
def State.applySig (s : State) (u : Nat) (g : Sig) : State :=
  let b := s.bar u g.reg
  match g.kind with
  | 0 => s.announce u g.reg b { b with row := true }
  | 1 => s.announce u g.reg b { b with col := true }
  | 2 => s.release u g.reg b
  | _ => (s.setBar u g.reg { b with val := putBits b.val 1 0 1 }).wakeUnit u

/-- The proxy's capacity (R346). -/
def proxyCap : Nat := 64

/-- Applies the signals a cluster's proxy holds for a unit's register, in arrival order, as far as they fit. -/
def State.unproxy (s : State) (u r : Nat) : Nat → State
  | 0 => s
  | n + 1 =>
    let cl := clusterOf u
    let mine := fun (g : Sig) => g.reg == r && g.unit == u && g.fits (s.bar u r)
    match (s.cluster cl).proxy.find? mine with
    | none => s
    | some g =>
      let s := s.modCluster cl (fun c => { c with proxy := c.proxy.erase g })
      (s.applySig u g).unproxy u r n

/-! ### Waking units and Croft (R346, R391, R396) -/

/-- A gated unit wakes and applies the signals its proxy holds (R346, R396). -/
def State.wakeGated (s : State) (u : Nat) : State :=
  if !(s.unit u).gated then s else
  (List.range 8).foldl (fun s r => s.unproxy u r proxyCap) (s.modUnit u (fun x => { x with gated := false }))

/-- Croft leaves standby (R391). -/
def State.wakeCroft (s : State) : State := { s with island := { s.island with standby := false, croftActive := s.time } }

/-- Whether a home lies on Croft. -/
def isCroftPad (a : Nat) : Bool := 2 ^ 53 ≤ a || (isUnitPad a && 256 ≤ padUnit a)

/-- An access that reaches a scratchpad wakes Croft from standby and a gated unit (R391, R396). -/
def State.rouse (s : State) (a : Nat) : State :=
  let s := if isCroftPad a && s.island.standby then s.wakeCroft else s
  if isUnitPad a then s.wakeGated (padUnit a) else s

end Sys2Proof.Machine
end

