-- ==== Sys2Proof/Machine/Access.lean ====
section
/-! DEFINITION. Accesses at their homes: atomic operations, full/empty operations with their wait lists (R213 to R217), loads
that see pending stores (R306), the store buffer (R209 to R211, R305, R309 to R311) and remote requests (R114). -/

namespace Sys2Proof.Machine

/-! ### Atomic operations (R216) -/

/-- The bit string of `n` bytes read as signed. -/
def sgnOf (n x : Nat) : Int := if 2 ^ (8 * n - 1) ≤ x then (x : Int) - (2 ^ (8 * n) : Nat) else x

/-- One half of AMOBFADD2: a BF16 sum rounded once, no flag (R216). -/
def bfAdd (x y : Nat) : Nat := (bf16.roundNE (fvAdd 0 (bf16.decode (x % 65536)) (bf16.decode (y % 65536))).1.ex).1

/-- The new value an AMO writes, or none where CAS fails (R216): old `o`, operand `p`, compare value `q`, `n` bytes. -/
def amoNew (opa n o p q : Nat) : Option Nat :=
  let m := 2 ^ (8 * n)
  match opa with
  | 0 => some ((o + p) % m)
  | 1 => some (Nat.land o p)
  | 2 => some (Nat.lor o p)
  | 3 => some (Nat.xor o p)
  | 4 => some (if sgnOf n o ≤ sgnOf n p then o else p)
  | 5 => some (if sgnOf n p ≤ sgnOf n o then o else p)
  | 6 => some (min o p)
  | 7 => some (max o p)
  | 8 => some p
  | 9 => if o = q then some p else none
  | 10 => some (f32.roundNE (fvAdd 0 (f32.decode o) (f32.decode p)).1.ex).1
  | _ => some (bfAdd o p + 65536 * bfAdd (o / 65536) (p / 65536))

/-- VSCADD's addition for an element type (R244): RoundNE for floats, wrap-around for i32. -/
def scaddNew (ty n o x : Nat) : Nat :=
  if ty = 4 then (o + x) % 2 ^ (8 * n)
  else ((ffmt ty).roundNE (fvAdd 0 ((ffmt ty).decode o) ((ffmt ty).decode x)).1.ex).1

/-! ### Completion outside the issuing turn -/

/-- The bytes an access names, as log2 (R363). -/
def MemOp.size : MemOp → Nat
  | .load n _ => Nat.log2 n
  | .amo _ n => Nat.log2 n
  | .elem n => Nat.log2 n
  | _ => 3

/-- The causes of memory faults, whose record gives the data of a store (R364). -/
def isMemCause (cause : Nat) : Bool := [0x04, 0x05, 0x08, 0x09, 0x0A, 0x0B, 0x0D, 0x42, 0x43, 0x46].contains cause

/-- A memory fault of a store's address or page gives its data (R364). -/
def withData {α : Type} (y : Word) (body : M α) : M α :=
  tryCatch body (fun e => match e with
    | .trap t => throw (.trap (if isMemCause t.cause then { t with data := y } else t))
    | e => throw e)

/-- The trap of an access that fails at its home (R364): the data of STEF and of an atomic operation are store data. -/
def MemReq.trap (r : MemReq) (cause : Nat) : TrapInfo :=
  if !isMemCause cause then { cause := cause } else
  { cause := cause, addr := r.va, level := 7, size := r.op.size, data := match r.op with | .stef => r.data | .amo _ n => w64 (r.data.toNat % 2 ^ (8 * n)) | _ => 0 }

/-- The bytes a read of one place asks for, 0 for a tag; none for an access that is an instruction's own. -/
def MemOp.part : MemOp → Option Nat
  | .elem n => some n
  | .elemTag => some 0
  | _ => none

/-- What a read of one place for an instruction of several gave, or the cause that ended it: the instruction executes again, and finds it
(R114, R243). -/
def State.gotPart (s : State) (r : MemReq) (g : Got) : State :=
  (s.modCtx r.ctx (fun x => { x with got := x.got ++ [g], wait := none })).modDir r.ctx (fun d => { d with ready := true, since := s.time })

/-- The unit a request comes from; one of a linked device reads by Croft's first unit. -/
def State.reqUnit (s : State) (r : MemReq) : Nat := if 65536 ≤ r.ctx then 256 else s.unitOf r.ctx

/-- A parked context's access has been performed: its result is written, its pc moves on and it is no longer at a MIGPT (R114, R315,
R409). A requester on a linked device, numbered from 65536 on, is answered over the link (R422). -/
def State.endReq (s : State) (r : MemReq) (v : Word) : State :=
  if 65536 ≤ r.ctx then { s with reply := toBytes 8 v.toNat, replyBad := false } else
  match r.op.part with
  | some n => s.gotPart r { loc := r.loc, n := n, val := v }
  | none =>
  let s := s.modCtx r.ctx (fun x => x.setS r.rd v)
  let s := (s.advance r.ctx ((s.ctx r.ctx).pc + 4)).moveOn r.ctx false
  s.modDir r.ctx (fun d => { d with ready := true, since := s.time })

/-- The end of an access that traps at its home: the requester, parked there, takes the trap precisely (R361); one on a linked
device is told that its data are bad (R422). -/
def State.endTrap (s : State) (r : MemReq) (t : TrapInfo) : State :=
  if 65536 ≤ r.ctx then { s with reply := [], replyBad := true } else
  match r.op.part with
  | some n => s.gotPart r { loc := r.loc, n := n, cause := t.cause }
  | none => { ({ s with cur := r.ctx } : State).issuedTrap t r.insn with cur := s.cur }

/-- A packet of the response class (R15). -/
def PktBody.isResponse : PktBody → Bool
  | .ack _ _ _ _ => true
  | .answer _ _ _ => true
  | _ => false

/-- Whether no packet of a class is on its way from one unit to another: what is injected now arrives at once (R15). -/
def State.pathClear (s : State) (a b : Nat) (resp : Bool) : Bool :=
  !s.pkts.any (fun q => q.src == a && q.dst == b && !q.arrived && q.way == .to && q.body.isResponse == resp)

/-- Whether the answer to a request must follow others on its way: it comes back over the mesh, behind responses that were injected
before it (R15, R114). -/
def State.answerWaits (s : State) (r : MemReq) : Bool :=
  let u := s.reqUnit r
  r.ctx < 65536 && isRemote u r.loc && !s.pathClear (homeUnit u r.loc) u true

/-- Sends an answer behind the responses before it: a value, or the cause that ended the access. -/
def State.answerLater (s : State) (r : MemReq) (v : Word) (cause : Nat) : State :=
  { s with pkts := s.pkts ++ [({ src := homeUnit (s.reqUnit r) r.loc, dst := s.reqUnit r, body := .answer r v cause } : Pkt)] }

/-- The end of an access that has been performed: at once, or when its answer arrives (R15, R114). -/
def State.finishReq (s : State) (r : MemReq) (v : Word) : State := if s.answerWaits r then s.answerLater r v 0 else s.endReq r v

/-- The end of an access that failed with a cause, likewise. -/
def State.trapReq (s : State) (r : MemReq) (t : TrapInfo) : State := if s.answerWaits r then s.answerLater r 0 t.cause else s.endTrap r t

/-- Whether an answer for a context is on its way. -/
def State.answerDue (s : State) (c : Nat) : Bool := s.pkts.any (fun p => match p.body with | .answer r _ _ => r.ctx == c | _ => false)

/-- Whether a request's condition holds (R213). -/
def State.wouldServe (s : State) (r : MemReq) : Bool := s.feAt r.loc != (r.op == .stef)

/-- Serves one wait-list entry if its condition holds: the state after and whether it was served (R213, R214). What its read finds
correctable is corrected; a word whose data cannot be delivered ends the access with its cause (R33, R117). An LDFE empties the word
by a read-modify-write, before which the host's copies of its line go (R57). -/
def State.serve (s : State) (r : MemReq) : State × Bool :=
  if !s.wouldServe r then (s, false) else
  let s := (s.touch r.loc).correct (s.reqUnit r) r.loc 8
  if s.readErr r.loc 8 ≠ 0 then (s.trapReq r (r.trap (s.readErr r.loc 8)), true)
  else
    match r.op with
    | .ldfe => (((s.dropHost r.loc 8).setFe r.loc false).finishReq r (w64 (s.peek r.loc 8)), true)
    | .ldff => (s.finishReq r (w64 (s.peek r.loc 8)), true)
    | .stef => ((((s.poke r.loc 8 r.data.toNat).clearV r.loc).setFe r.loc true).finishReq { r with rd := 0 } 0, true)
    | _ => (s, false)

/-- One pass over a word's wait list, in join order (R214). -/
def State.scanList (s : State) (w : Nat) : List WaitEnt → State × List WaitEnt
  | [] => (s, [])
  | e :: t =>
    if e.req.loc / 8 = w ∧ e.refused = false ∧ e.watch = false then
      match s.serve e.req with
      | (s', true) => s'.scanList w t
      | (s', false) => let (s'', l) := s'.scanList w t; (s'', e :: l)
    else let (s'', l) := s.scanList w t; (s'', e :: l)

/-- The scan that follows a change of a word's full/empty bit (R214): the entries are served, then contexts away from their
units whose condition now holds are ready. -/
def State.scan (s : State) (a : Nat) : State :=
  let (s', l) := s.scanList (a / 8) s.waits
  let up := l.filter (fun e => e.watch && e.req.loc / 8 == a / 8 && s'.wouldServe e.req)
  up.foldl (fun s e => s.unpark e.req.ctx) { s' with waits := l.filter (fun e => !up.contains e) }

/-- Gives a word a full/empty bit and, if that changes it, scans its wait list (R214). -/
def State.feChange (s : State) (a : Nat) (b : Bool) : State :=
  if s.feAt a = b then s else (s.setFe a b).scan a

/-- An access joins its word's wait list, or is refused where the home's list is full (R214). -/
def State.joinWait (s : State) (r : MemReq) : State :=
  let (h, cap) := waitHome r.loc
  let used := (s.waits.filter (fun e => (waitHome e.req.loc).1 == h && !e.refused && !e.watch)).length
  { s with waits := s.waits ++ [{ req := r, refused := cap ≤ used }] }

/-- A context asks for no translation any more (R52). -/
def dropMiss (c : Nat) (l : List Miss) : List Miss :=
  (l.map (fun m => { m with ctxs := ndel m.ctxs c })).filter (fun m => m.failed.isNone || !m.ctxs.isEmpty)

/-- A context that leaves its unit, or is reset, withdraws its entries and packets' accesses (R215). -/
def State.withdraw (s : State) (c : Nat) : State :=
  { s with
    misses := dropMiss c s.misses
    waits := s.waits.filter (fun e => e.req.ctx != c)
    pkts := s.pkts.filter (fun p => match p.body with | .access r => r.ctx != c | .answer r _ _ => r.ctx != c | _ => true) }

/-- A context leaves its unit: its entries are withdrawn, and what it waited for is kept as a watch (R215, R333). -/
def State.leaveWaits (s : State) (c : Nat) : State :=
  { s with
    misses := dropMiss c s.misses
    waits := s.waits.map (fun e => if e.req.ctx = c then { e with refused := false, watch := true } else e)
    pkts := s.pkts.filter (fun p => match p.body with | .access r => r.ctx != c | _ => true) }

/-- Whether a context that leaves its unit in a wait stays ready: not when it waits for an event or a word (R333). -/
def State.readyAway (s : State) (c : Nat) (w : Option Wait) : Bool :=
  match w with
  | some w => !waitsForEvent w.why && !s.waits.any (fun e => e.req.ctx == c)
  | none => true

/-! ### One access at its home -/

/-- What an access does at its home: not yet (its condition is false), a cause, or done with a result (R208, R213, R217,
R128, R129), each with what it leaves: the channel active, what it read corrected (R33, R39). A TTAG carries the new tag and, for .cas, the expected one in its data. -/
inductive AtHome where
  | wait (s : State)
  | cause (s : State) (n : Nat)
  | done (s : State) (v : Word)

/-- An access performed at its home for a requester in unit `u`; its data faults are precise and change no data (R213). A read-modify-write
that writes nothing, of a failing CAS, invalidates the host's copies too (R57). DESIGN CHOICE: a STEF or an AMO that meets an
uncorrectable burst takes cause 0x43 precisely and writes nothing, as a load does; R34's partial write it does not make (log 66). -/
def State.atHome (s : State) (u : Nat) (r : MemReq) : AtHome :=
  let s := s.rouse r.loc
  let s := match r.op with
    | .load n _ => (s.touch r.loc).correct u r.loc n
    | .amo _ n => (s.touch r.loc).correct u r.loc n
    | .ldfe => (s.touch r.loc).correct u r.loc 8
    | .ldff => (s.touch r.loc).correct u r.loc 8
    | .stef => (s.touch r.loc).correct u r.loc 8
    | .elem n => (s.touch r.loc).correct u r.loc n
    | _ => s.touch r.loc
  let bad := s.readErr r.loc 8
  match r.op with
  | .load n sg =>
    if s.readErr r.loc n ≠ 0 then .cause s (s.readErr r.loc n)
    else .done s (if sg then signExt (s.peek r.loc n) (8 * n) else w64 (s.peek r.loc n))
  | .ldfe =>
    if bad ≠ 0 then .cause s bad
    else if s.feAt r.loc then let v := w64 (s.peek r.loc 8); .done ((s.dropHost r.loc 8).feChange r.loc false) v else .wait s
  | .ldff => if bad ≠ 0 then .cause s bad else if s.feAt r.loc then .done s (w64 (s.peek r.loc 8)) else .wait s
  | .stef => if bad ≠ 0 then .cause s bad else if s.feAt r.loc then .wait s else .done (((s.poke r.loc 8 r.data.toNat).clearV r.loc).feChange r.loc true) 0
  | .amo opa n =>
    if s.readErr r.loc n ≠ 0 then .cause s (s.readErr r.loc n) else
    let o := s.peek r.loc n
    let v := if n = 4 then signExt o 32 else w64 o
    match amoNew opa n o (r.data.toNat % 2 ^ (8 * n)) (r.cmp.toNat % 2 ^ (8 * n)) with
    | some x => .done ((s.poke r.loc n x).clearV r.loc) v
    | none => .done (s.dropHost r.loc n) v
  | .tget =>
    let (s, g) := s.tagRead r.loc
    .done s (g.setWidth 64)
  | .ttag cas =>
    let (s, old) := s.tagRead r.loc
    if cas && old.toNat != bits r.data 31 16 then .done s (old.setWidth 64)
    else .done (s.setTag r.loc (BitVec.ofNat 16 (bits r.data 15 0))) (old.setWidth 64)
  | .dcnt => .wait s
  | .elem n => if s.readErr r.loc n ≠ 0 then .cause s (s.readErr r.loc n) else .done s (w64 (s.peek r.loc n))
  | .elemTag =>
    let (s, g) := s.tagRead r.loc
    .done s (g.setWidth 64)

/-! ### Pending stores (R305, R306, R309, R310) -/

/-- Whether a store's pieces meet `n` bytes at a home. -/
def Store.meets (e : Store) (a n : Nat) : Bool := e.pieces.any (fun p => rangesMeet p.loc p.n a n)

/-- Whether two stores write to a common location, an aligned 64-bit word (R303, R304). -/
def Store.sharesWord (e f : Store) : Bool := f.pieces.any (fun p => e.meets (p.loc / 8 * 8) ((p.loc % 8 + p.n + 7) / 8 * 8))

/-- Whether a store goes to a register block (R37). -/
def Store.toReg (e : Store) : Bool := e.pieces.any (fun p => isRegBlock p.loc)

/-- Whether two stores share a home bank (R309 item 2). -/
def Store.sameBank (e f : Store) : Bool :=
  e.pieces.any (fun p => f.pieces.any (fun q => (bankOf p.loc).isSome && bankOf p.loc == bankOf q.loc))

/-- Whether store `e` must be performed, or fault, before store `f` (R303, R304, R309, R311). An earlier store whose home is not
known yet counts (log 6). -/
def Store.precedes (e f : Store) : Bool :=
  e.id < f.id && e.rs != 2 &&
    (e.rs == 0 || e.sharesWord f || (e.ctx == f.ctx && (e.sameBank f || e.toReg)) || (f.rel && f.aft.contains e.id))

/-- The un-arrived LDQ entries of a context. -/
def Ctx.ldqOut (x : Ctx) : List LdqEnt := x.ports.flatMap (fun p => p.2.ldq.filter (fun e => !e.arrived))

/-- Whether a release waits for an earlier LDQ read of its context (R311). -/
def State.ldqHolds (s : State) (e : Store) : Bool := e.rel && (s.ctx e.ctx).ldqOut.any (fun q => q.id < e.id)

/-- Whether a pending store is available to siblings: no store of its own context, nor one that its release waits for, must be
performed before it (R306, R310, R311). -/
def State.available (s : State) (sb : List Store) (e : Store) : Bool :=
  e.rs == 1 && e.data && !s.ldqHolds e && !sb.any (fun f => f.precedes e && (f.ctx == e.ctx || (e.rel && e.aft.contains f.id)))

/-- Whether a scope contains no agent but a context of unit `u`: no other context in the slots and TCCs of its units, and no
accepted command (R313). The scopes beyond a cluster always contain others. -/
def State.scopeAlone (s : State) (u c sc : Nat) : Bool :=
  let us := match sc with
    | 0 => [u]
    | 1 => unitsOf (clusterOf u)
    | _ => []
  !us.isEmpty && us.all (fun v => (s.unit v).cmds.isEmpty && (s.unit v).slots.all (fun e => e.2 == c) && (s.unit v).tcc.all (· == c))

/-- Lays a store's bytes over a run of bytes read at a home. -/
def overlayAt (a : Nat) (p : Piece) : Nat → List Byte → List Byte
  | _, [] => []
  | i, b :: t => (if p.loc ≤ a + i ∧ a + i < p.loc + p.n then BitVec.ofNat 8 (p.data >>> (8 * (a + i - p.loc))) else b) :: overlayAt a p (i + 1) t

/-- Lays a list of stores over bytes, oldest first. -/
def overlay (a : Nat) (l : List Store) (bs : List Byte) : List Byte :=
  l.foldl (fun bs e => e.pieces.foldl (fun bs p => overlayAt a p 0 bs) bs) bs

/-- The conditions of a release (R311): no earlier store pending, no LDQ read to come, no sibling store read while pending. -/
def State.relOk (s : State) (c : Nat) : Bool :=
  let sb := (s.unit (s.unitOf c)).sb
  !sb.any (fun e => e.ctx == c || (s.dirE c).sibRead.contains e.id) && (s.ctx c).ldqOut.isEmpty

/-- Waits as a release (R311). -/
def relWait : M Unit := do
  let s ← get
  stallUnless (s.relOk s.cur) wOrder

/-- Waits as a release of a scope, which orders nothing while the scope holds no other agent (R313). -/
def relWaitIn (sc : Nat) : M Unit := do
  let s ← get
  stallUnless (s.relOk s.cur || s.scopeAlone (s.unitOf s.cur) s.cur sc) wOrder

/-- Whether accesses before a point of issue order are pending: own stores, sibling stores read, LDQ reads (R312). -/
def State.pendingBefore (s : State) (c no : Nat) : Bool :=
  (s.unit (s.unitOf c)).sb.any (fun e => e.id < no && e.rs != 2 && (e.ctx == c || (s.dirE c).sibRead.contains e.id)) ||
    (s.ctx c).ldqOut.any (fun q => q.id < no)

/-- Whether a read is held: an own store not resolved yet, one whose .ar is not performed yet, or a FENCE passed early whose
scope has gained an agent since (R303, R311, R312, R313). -/
def State.readsHeld (s : State) (c : Nat) : Bool :=
  let u := s.unitOf c
  (s.unit u).sb.any (fun e => e.ctx == c && (e.rs == 0 || (e.rs == 1 && e.ar && !s.scopeAlone u c e.sc))) ||
    (s.dirE c).fenced.any (fun f => !s.scopeAlone u c f.1 && s.pendingBefore c f.2)

/-- The siblings' pending stores to the locations that hold `n` bytes at a home, oldest first (R304, R306). -/
def State.sibsOn (s : State) (c a n : Nat) : List Store :=
  (s.unit (s.unitOf c)).sb.filter (fun e => e.ctx != c && e.rs == 1 && e.meets (a / 8 * 8) ((a % 8 + n + 7) / 8 * 8))

/-- Whether a context must read no value of a sibling's store's location from before it: it has read that store, or has itself a
pending store there that entered the buffer later (R304). -/
def State.mustSee (s : State) (c a n : Nat) (e : Store) : Bool :=
  (s.dirE c).sibRead.contains e.id ||
    (s.unit (s.unitOf c)).sb.any (fun f => f.ctx == c && f.rs != 2 && e.id < f.id && f.meets (a / 8 * 8) ((a % 8 + n + 7) / 8 * 8))

/-- Whether a sibling's store that the context must see still waits at a location: a read from home alone must not return an older
value (R304, R306). -/
def State.sibHolds (s : State) (c a n : Nat) : Bool := (s.sibsOn c a n).any (s.mustSee c a n)

/-- The siblings' pending stores a plain read takes, oldest first: all up to the last one it must see, and of the available ones after it as
many as a free value says; stores to one location are performed in the order in which they entered, so none is passed over. None
while one that it must see is not available (R304, R306, R310). -/
def State.sibTaken (s : State) (c a n free : Nat) : Option (List Store) :=
  let ss := s.sibsOn c a n
  let must := (ss.reverse.dropWhile (fun e => !s.mustSee c a n e)).length
  let can := (ss.takeWhile (fun e => s.available (s.unit (s.unitOf c)).sb e && !e.pieces.any (fun p => p.add.isSome))).length
  if can < must then none else some (ss.take (if can = must then must else must + free % (can - must + 1)))

/-! ### Packets (R15, R19) -/

/-- Whether a packet crosses from Croft to Acre. -/
def Pkt.toAcre (p : Pkt) : Bool := isCroft p.src && !isCroft p.dst

/-- Whether the hold buffer of the bridge link between two units is full: then injection at a Croft sender stalls (R19). -/
def State.bridgeFull (s : State) (a b : Nat) : Bool :=
  isCroft a && !isCroft b && !s.acreOn && 16 ≤ (s.pkts.filter (fun q => q.held && q.toAcre && bridgeOf q.dst == bridgeOf b)).length

/-- Whether a bridge's held packets stand before a packet: held packets are delivered in arrival order, before any later packet
on the same link (R19). -/
def State.heldBefore (s : State) (p : Pkt) : Bool :=
  p.toAcre && s.pkts.any (fun q => q.held && q.toAcre && bridgeOf q.dst == bridgeOf p.dst && (p.heldAt == 0 || q.heldAt < p.heldAt))

/-- Whether the packet at a place of the mesh may reach its unit: the unit's island is awake, and no packet of its class from its
source to its destination was injected before it and is still on its way (R15, R19). -/
def State.mayArrive (s : State) (i : Nat) (p : Pkt) : Bool :=
  (if isCroft p.dst then !s.island.standby else s.acreOn) &&
    (p.arrived || (!s.heldBefore p &&
      !(s.pkts.take i).any (fun q => q.src == p.src && q.dst == p.dst && !q.arrived && q.way == .to && q.body.isResponse == p.body.isResponse)))

/-- The place in the mesh of the request of a store or queued load. -/
def State.requestOf (s : State) (id : Nat) : Option (Pkt × Nat) := s.pkts.zipIdx.find? (fun e => e.1.body == .request id)

/-- Whether an access of a unit to a home may go through now: to another unit's or cluster's scratchpad it is a mesh request, behind those
injected before it and behind what a bridge holds (R15, R19, R114). `id` is the store or queued load, whose request a bridge may hold. -/
def State.meshOpen (s : State) (u loc id : Nat) : Bool :=
  !isRemote u loc || (match s.requestOf id with
    | some (p, i) => s.mayArrive i p
    | none => s.pathClear u (homeUnit u loc) false && !s.heldBefore { src := u, dst := homeUnit u loc, body := .request id })

/-- The request of a Croft store or queued load to a sleeping Acre is held at its bridge, if it has room, and asks for a wake (R19,
R394). -/
def State.holdRequest (s : State) (u loc id : Nat) : State :=
  let v := homeUnit u loc
  let first := !s.pkts.any (fun q => q.src == u && q.dst == v && !q.held && !q.arrived && q.way == .to && !q.body.isResponse)
  let s := if (s.requestOf id).isNone && !s.bridgeFull u v && first then
    { s with ids := s.ids + 1, pkts := s.pkts ++ [({ src := u, dst := v, body := .request id, held := true, heldAt := s.ids + 1 } : Pkt)] } else s
  s.wakeAcre

/-- The request of an access that has been made is no longer on its way. -/
def State.dropRequest (s : State) (id : Nat) : State := { s with pkts := s.pkts.filter (fun q => q.body != .request id) }

/-- Whether a store or queued load still stands that a request names. -/
def State.requestLive (s : State) (id : Nat) : Bool :=
  s.units.any (fun e => e.2.sb.any (fun f => f.id == id && f.rs == 1)) || s.ctxs.any (fun e => e.2.ldqOut.any (fun f => f.id == id))

/-- A packet has reached its unit and waits there, so it holds back no other. -/
def State.reached (s : State) (i : Nat) (p : Pkt) : State := { s with pkts := lset s.pkts i { p with held := false, arrived := true } }

/-- A packet has crossed its bridge and waits in the mesh. -/
def State.crossed (s : State) (i : Nat) (p : Pkt) : State := { s with pkts := lset s.pkts i { p with held := false } }

/-- A packet held at its issuing unit while its logical unit migrated goes to the new unit, as though injected now; a unit unmapped
since has the outcome of V = 0 (R28). -/
def State.waySettled (s : State) (n : Nat) (p : Pkt) (part lunit : Nat) : Option State :=
  match s.lumRes part lunit with
  | .migrating => none
  | .to v => some { s with pkts := ldel s.pkts n ++ [{ p with dst := v, way := .to }] }
  | .unmapped => some { s with pkts := lset s.pkts n { p with way := .nowhere } }

/-- Sends a scalar access to its home across the mesh, unless a bridge's hold buffer is full; the context parks until it is performed
(R19, R114). -/
def sendReq {α : Type} (r : MemReq) : M α := do
  let s ← get
  if s.cutOff (s.unitOf s.cur) r.loc then throw (.trap (r.trap 0x46)) else do
    stallUnless (!s.bridgeFull (s.unitOf s.cur) (homeUnit (s.unitOf s.cur) r.loc)) wPower
    set ({ s with pkts := s.pkts ++ [({ src := s.unitOf s.cur, dst := homeUnit (s.unitOf s.cur) r.loc, body := .access r } : Pkt)] } : State)
    parkExt wMem

/-- One place of several that an instruction reads in a scratchpad of another unit or cluster: `n` bytes, or with `n` = 0 the granule's
tag. The first time it asks over the mesh and the context parks; executed again, it finds what came back, or the cause that ended
the read (R114, R243). Pending stores of the context to those bytes, and sibling stores to them that it has read, are performed
first (R304, R306). -/
def readPart (va : Word) (a n : Nat) : M Word := do
  let s ← get
  match (s.ctx s.cur).got.find? (fun g => g.loc == a && g.n == n) with
  | some g => if g.cause = 0 then pure g.val else trapAt g.cause va 7 (Nat.log2 n)
  | none => do
    stallUnless (!s.readsHeld s.cur && !(s.ownStores s.cur).any (fun e => e.rs != 2 && e.meets a n)) wStore
    stallUnless (!s.sibHolds s.cur a n) wOrder
    sendReq { ctx := s.cur, loc := a, op := if n = 0 then .elemTag else .elem n, va := va, insn := s.insn }

/-! ### Reads by an instruction (R306) -/

/-- Waits until the channel of a home is active (R39, R40). -/
def awake (a : Nat) : M Unit := do
  let s ← get
  if s.asleep a then do
    set (s.wantChan a)
    stall wPower
  else pure ()

/-- The value of a read at a home near the context: own pending stores first, then siblings' by free choice unless an
acquire, else the home (R306). `plain` is false for an acquire and for reads of other kinds. An own vector store, or a VSCADD, is
performed first (R244, R245), and so is an own store older than a sibling's that the context has read (R304). -/
def readNear (va : Word) (a n : Nat) (plain : Bool) : M (List Byte) := do
  let s ← get
  let c := s.cur
  let u := s.unitOf c
  let sb := (s.unit u).sb
  if s.cutOff u a then trapAt 0x46 va 7 (Nat.log2 n) else pure ()
  stallUnless (!s.readsHeld c) wStore
  let mine := sb.filter (fun e => e.ctx == c && e.rs != 2 && e.meets a n)
  stallUnless (!mine.any (fun e => !e.data || e.size == 4 || e.pieces.any (fun p => p.add.isSome))) wStore
  let seen := (s.dirE c).sibRead
  stallUnless (!mine.any (fun f => (s.sibsOn c a n).any (fun e => seen.contains e.id && f.id < e.id))) wStore
  stallUnless (plain || !s.sibHolds c a n) wOrder
  awake a
  let took := if plain then s.sibTaken c a n (Config.freeNat s.fresh) else some []
  stallUnless took.isSome wOrder
  let took := took.getD []
  let s := (s.touchRun a n).correct u a n
  let covered := mine.any (fun e => e.pieces.any (fun p => p.loc ≤ a && a + n ≤ p.loc + p.n))
  let err := s.readErr a n
  if err ≠ 0 ∧ covered = false then do
    set s
    trapAt err va 7 (Nat.log2 n)
  else
    let bs := memRead s.mem a n
    let s' := if took.isEmpty then s else (s.modDir c (fun d => { d with sibRead := (took.map (·.id)).foldl nins d.sibRead }))
    set (if (s.sibsOn c a n).isEmpty then s' else s'.bump)
    pure (overlay a mine (overlay a took bs))

/-- One of the reads of an instruction: near the context, or over the mesh (R114, R306). -/
def readLocal (va : Word) (a n : Nat) (plain : Bool) : M (List Byte) := do
  let s ← get
  if isRemote (s.unitOf s.cur) a then do
    let v ← readPart va a n
    pure (toBytes n v.toNat)
  else readNear va a n plain

/-- Performs a blocking access: remote ones travel; a false condition joins the wait list, or is cause 0x18 in a task (R215).
Own pending stores to the word, and sibling stores to it that the context has read, are performed first (R304, R315). -/
def blocking (r : MemReq) : M Word := do
  let s ← get
  let u := s.unitOf s.cur
  let word := r.loc / 8 * 8
  stallUnless (!s.readsHeld s.cur && !(s.unit u).sb.any (fun e => e.ctx == s.cur && e.rs != 2 && e.meets word 8)) wStore
  stallUnless (!s.sibHolds s.cur word 8) wOrder
  if isRemote u r.loc then sendReq r else do
    awake r.loc
    match s.atHome u r with
    | .done s' v => do
      set s'
      pure v
    | .cause s' n => do
      set s'
      throw (.trap (r.trap n))
    | .wait s' => do
      set s'
      if (s.ctx s.cur).task.active then trapC 0x18 else do
        set (s'.joinWait r)
        parkExt wMem

/-! ### Entering the store buffer (R209, R210) -/

/-- What a release of a context comes after: its stores in the buffer and the sibling stores it has read (R311). -/
def State.storeAfter (s : State) (c : Nat) : List Nat :=
  ((s.unit (s.unitOf c)).sb.filter (fun e => e.ctx == c)).map (·.id) ++ (s.dirE c).sibRead

/-- The entry a store of the executing context makes: behind a FENCE passed early it carries that fence's order (R312, R313). -/
def State.entered (s : State) (e : Store) : Store :=
  let x := s.ctx s.cur
  let e := { e with id := s.ids, ctx := s.cur, pc := x.pc, aft := s.storeAfter s.cur, inH := x.inHandler }
  match (s.dirE s.cur).fenced with
  | some (sc, no) =>
    if !s.pendingBefore s.cur no then e
    else if e.rel then { e with sc := max e.sc sc } else { e with rel := true, sc := sc, aft := e.aft.filter (· < no) }
  | none => e

/-- Enters a store, waiting for room (64 entries a unit, 16 a context, R210). -/
def enterStore (e : Store) : M Nat := do
  let s ← get
  let u := s.unitOf s.cur
  let sb := (s.unit u).sb
  stallUnless (sb.length < 64 && (sb.filter (fun f => f.ctx == s.cur)).length < 16) wStore
  set ({ s with ids := s.ids + 1 }.modUnit u (fun y => { y with sb := y.sb ++ [s.entered e] }))
  pure s.ids

/-- A store that fails: its cause, level and address (R211). -/
def Store.fail (e : Store) (cause level : Nat) (va : Word) : Store := { e with rs := 2, cause := cause, level := level, fva := va }

/-- Whether a store may go to a register block: an aligned ST64 (R37). -/
def Store.mayReg (e : Store) : Bool := e.size == 3 && !e.setFull && e.pieces.length == 1 && e.pieces.all (fun p => p.n == 8 && p.add.isNone)

/-- What the translation of a store's pieces gives. -/
inductive Pieces where
  | homes (l : List Piece)
  | fails (cause level : Nat) (va : Word)
  | walks

/-- Translates a store's pieces (R48, R210): all homes, the first failure, or a walk to wait for (R52); `now` walks at once. -/
def resolvePieces (w : Who) (k : Acc) (now : Bool) : List Piece → State → Pieces × State
  | [], s => (.homes [], s)
  | p :: l, s =>
    match s.resolve w p.va k now with
    | (.ok loc, s) =>
      match resolvePieces w k now l s with
      | (.homes ps, s) => (.homes ({ p with loc := loc } :: ps), s)
      | r => r
    | (.fault c lv, s) => (.fails c lv p.va, s)
    | (_, s) => (.walks, s.queueMiss w p.va.toNat)

/-- Resolves a store (R210, R211): with its homes, failed, or still unresolved while a walk is awaited (R52). One to a register block takes its place in program order, after what
its context issued before it and before what it issues later, for every agent (R303). -/
def State.resolveStore (s : State) (e : Store) (now : Bool) : Store × State :=
  match resolvePieces (s.whoIs e.ctx) (if e.setFull then accFW else accW) now e.pieces s with
  | (.walks, s) => (e, s)
  | (.fails c lv va, s) => (e.fail c lv va, s)
  | (.homes ps, s) =>
    match ps.find? (fun p => isRegBlock p.loc) with
    | some p => (if e.mayReg then { e with rs := 1, pieces := ps, rel := true, ar := true, sc := 3 } else e.fail 0x05 7 p.va, s)
    | none => ({ e with rs := 1, pieces := ps }, s)

/-- The home of a store at issue: a window is resolved at once with its precise faults (R209), other addresses wait in the
buffer. -/
def storeHome (va : Word) (n : Nat) : M (Nat × Nat) := do
  if isWindow va then do
    let loc ← home va accW n false
    pure (loc, 1)
  else pure (0, 0)

/-- The address of a scalar access (R207). -/
def scalarAddr (base : Word) (off : BitVec 10) (size : Nat) : Word := base + sx off * w64 size

/-- Natural alignment, else cause 0x05 with the access's record (R207). -/
def aligned (va : Word) (n : Nat) : M Unit := if va.toNat % n = 0 then pure () else trapAt 0x05 va 7 (Nat.log2 n)

end Sys2Proof.Machine
end

