-- ==== Sys2Proof/Machine/Operands.lean ====
section
/-! DEFINITION. The operand spaces of the scalar instructions (R67, R192): s registers, message registers, and queue ports
with the queues behind them (R170, R171, R351). -/

namespace Sys2Proof.Machine

/-! ### Held SENDW values (R186) -/

/-- The class, index and target fields of a capability (R176). -/
def capCls (c : Word) : Nat := bits c 41 39
def capIdx (c : Word) : Nat := bits c 38 33
def capCtx (c : Word) : Nat := bits c 57 42
def capDev (c : Word) : Nat := bits c 63 58
def capGen (c : Word) : Nat := bits c 29 24

/-- Whether a fabric-target register of a context is full (R163). -/
def Ctx.fabricFull (x : Ctx) (cls i : Nat) : Bool :=
  match cls with
  | 0 => bit x.sFull i
  | 1 => bit x.mFull i
  | _ => bit x.vFull i

/-- A delivered value enters a register, which becomes full (R184). -/
def Ctx.fabricWrite (x : Ctx) (cls i : Nat) (v : VWord) : Ctx :=
  match cls with
  | 0 => x.setS i (v.setWidth 64)
  | 1 => { x with mreg := mset x.mreg i (v.setWidth 64), mFull := putBit x.mFull i true }
  | 2 => x.setV i v
  | _ => x.setK i (v.setWidth 256)

/-- An acknowledgement travels to the sender: success, or a record (R182, R188). A sender on another device is told over the
link, which this device does not see (log 15). -/
def State.ackTo (s : State) (u : Nat) (d : Delivery) (r : Option Rec) : State :=
  if d.dev = s.devNo ∧ d.orphan = false then
    { s with pkts := s.pkts ++ [{ src := u, dst := s.unitOf d.sender, body := .ack d.sender r d.no d.inH }] }
  else s

/-- Whether a delivery of one sender's that was issued before another is still on its way, or held for a full register (R189). A
command queued at its unit, or one whose sender was reset, holds back none. -/
def State.deliveredAfter (s : State) (d : Delivery) : Bool :=
  let before := fun (f : Delivery) => f.dev == d.dev && f.sender == d.sender && f.no < d.no && f.orphan == d.orphan
  s.pkts.any (fun p => match p.body with | .delivery f => before f | _ => false) || s.units.any (fun e => e.2.mbox.any (fun m => before m.1))

/-- Whether a held value may be applied: its register is empty, and nothing of its sender must come before it (R186, R189). -/
def State.heldReady (s : State) (e : Delivery × Nat) : Bool :=
  (mfind s.ctxs e.2).isSome && !(s.ctx e.2).fabricFull (capCls e.1.cap) (capIdx e.1.cap) && !s.deliveredAfter e.1

/-- Applies a value held at a unit, with its acknowledgement (R186). -/
def State.applyEntry (s : State) (u : Nat) (e : Delivery × Nat) : State :=
  let s := s.modUnit u (fun x => { x with mbox := x.mbox.erase e })
  let s := s.modCtx e.2 (fun x => x.fabricWrite (capCls e.1.cap) (capIdx e.1.cap) e.1.val)
  ((s.signal e.2).unpark e.2).ackTo u e.1 none

/-- Applies held values that waited for another of their sender's, as many as there are (R186, R189). -/
def State.applyMore (s : State) : Nat → State
  | 0 => s
  | n + 1 =>
    match s.units.findSome? (fun u => (u.2.mbox.find? s.heldReady).map (fun e => (u.1, e))) with
    | some (u, e) => (s.applyEntry u e).applyMore n
    | none => s

/-- When a register empties, the first value held for it is applied and acknowledged, and what waited for that (R186, R187). -/
def State.applyHeld (s : State) (c cls i : Nat) : State :=
  let mine := fun (e : Delivery × Nat) => e.2 == c && capCls e.1.cap == cls && capIdx e.1.cap == i && s.heldReady e
  match s.units.findSome? (fun u => (u.2.mbox.find? mine).map (fun e => (u.1, e))) with
  | none => s
  | some (u, e) => (s.applyEntry u e).applyMore 64

/-! ### Neighbours, rings and ports -/

/-- The neighbour of a unit, directions 0 north, 1 east, 2 south, 3 west (R17, R171). -/
def neighbour (u dir : Nat) : Option Nat :=
  if 256 ≤ u then
    match u, dir with
    | 256, 1 => some 257
    | 256, 2 => some 258
    | 257, 3 => some 256
    | 257, 2 => some 259
    | 257, 1 => some 112
    | 258, 0 => some 256
    | 258, 1 => some 259
    | 259, 0 => some 257
    | 259, 3 => some 258
    | 259, 1 => some 128
    | _, _ => none
  else
    match dir with
    | 0 => if u < 16 then none else some (u - 16)
    | 1 => if u % 16 = 15 then none else some (u + 1)
    | 2 => if 240 ≤ u then none else some (u + 16)
    | _ => if u % 16 = 0 then (if u = 112 then some 257 else if u = 128 then some 259 else none) else some (u - 1)

/-- The opposite direction. -/
def opposite (dir : Nat) : Nat := (dir + 2) % 4

/-- The places taken of a unit's receive queue: entries there and entries on their way (R170). -/
def State.rxUsed (s : State) (u dir : Nat) : Nat :=
  (mget (s.unit u).rxq dir []).length +
    (s.pkts.filter (fun p => p.dst == u && (match p.body with | .push d _ => d == dir | _ => false))).length

/-- A port of the executing context. -/
def getPort (n : Nat) : M Port := do
  let x ← getC
  pure (mget x.ports n {})

/-- A ring of a unit. -/
def State.ring (s : State) (u r : Nat) : Ring := mget (s.unit u).rings r {}
/-- Replaces a ring. -/
def State.setRing (s : State) (u r : Nat) (x : Ring) : State := s.modUnit u (fun y => { y with rings := mset y.rings r x })

/-- Whether a ring serves a partition: it has an owner, of that partition (R351). -/
def Ring.usable (r : Ring) (p : Nat) : Bool := r.owner.isSome && r.part == p

/-- The bindings of a context's ports, wherever it is: kind, direction and ring. -/
def State.portsOf (s : State) (c : Nat) : List (Nat × Nat × Nat) :=
  match mfind s.ctxs c with
  | some x => x.ports.map (fun p => (p.2.kind, p.2.dir, p.2.ring))
  | none => (s.dirE c).portsKept

/-- Sets the event bits of a unit's contexts with a port bound to a ring (R348). -/
def State.ringEvent (s : State) (u r : Nat) : State :=
  s.dir.foldl (fun s e =>
    if e.2.st == 1 && s.unitOf e.1 == u && (s.portsOf e.1).any (fun p => p.1 == 4 && p.2.2 == r) then s.signal e.1 else s) s

/-- Pushes an entry on a ring (R351): contexts with a port bound to it have their event bits set, and what waits on it is ready to
try again, in its slot or away from it (R333, R348). -/
def State.ringPush (s : State) (u r : Nat) (v : Word) : State :=
  let x := s.ring u r
  ((s.setRing u r { x with q := x.q ++ [v] }).ringEvent u r).wakeUnit u

/-- Takes the head of a ring (R351): what waits for a place in it is ready to try again. -/
def State.ringPop (s : State) (u r : Nat) : State :=
  let x := s.ring u r
  (s.setRing u r { x with q := x.q.tail }).wakeUnit u

/-- The capacity of a ring (R351). -/
def ringCap : Nat := 256

/-- The waits of a pop from a port, before anything is consumed: an empty queue, or a load not arrived, parks (R170, R192, R212). -/
def popWait (n : Nat) : M Unit := do
  let p ← getPort n
  let s ← get
  let u := s.unitOf s.cur
  match p.kind with
  | 1 =>
    match p.ldq with
    | [] => parkSync wQueue
    | e :: _ => parkUnless e.arrived wQueue
  | 3 => parkUnless (!(mget (s.unit u).rxq p.dir []).isEmpty) wQueue
  | 4 => parkUnless (!(s.ring u p.ring).usable (s.dirE s.cur).part || (s.ring u p.ring).frozen || !(s.ring u p.ring).q.isEmpty) wQueue
  | _ => pure ()

/-- The traps of a pop: a port not bound to be popped, a ring of another partition, a frozen one, a marked load (R170, R212, R351). -/
def popTrap (n : Nat) : M Unit := do
  let p ← getPort n
  let s ← get
  match p.kind with
  | 1 => match p.ldq with
    | [] => pure ()
    | e :: _ => if e.mark = 0 then pure () else trapAt e.mark e.va 7 3
  | 3 => pure ()
  | 4 => do
    let r := s.ring (s.unitOf s.cur) p.ring
    trapIf (!r.usable (s.dirE s.cur).part) 0x06
    trapIf r.frozen 0x1C
  | _ => trapC 0x06

/-- Pops the head of a port's queue (R170); its waits and traps have passed. A place that becomes free may be what a context waits for. -/
def pop (n : Nat) : M Word := do
  let p ← getPort n
  let s ← get
  let u := s.unitOf s.cur
  match p.kind with
  | 1 => do
    modC (fun x => { x with ports := mset x.ports n { p with ldq := p.ldq.tail } })
    pure ((p.ldq.head?.map (·.val)).getD 0)
  | 3 => do
    let q := mget (s.unit u).rxq p.dir []
    let s := s.modUnit u (fun x => { x with rxq := mset x.rxq p.dir q.tail })
    set (match neighbour u p.dir with | some v => s.wakeUnit v | none => s)
    pure (q.head?.getD 0)
  | _ => do
    set (s.ringPop u p.ring)
    pure ((s.ring u p.ring).q.head?.getD 0)

/-- The waits of a push to a port: a full queue parks, and a push is a release (R170, R192, R320). -/
def pushWait (n : Nat) : M Unit := do
  let p ← getPort n
  let s ← get
  let u := s.unitOf s.cur
  match p.kind with
  | 2 =>
    match neighbour u p.dir with
    | none => pure ()
    | some v => do
      parkUnless (s.rxUsed v (opposite p.dir) < 16) wQueue
      stallUnless (!s.bridgeFull u v) wPower
      relWait
  | 4 =>
    if (s.ring u p.ring).usable (s.dirE s.cur).part then do
      parkUnless ((s.ring u p.ring).q.length < ringCap) wQueue
      relWait
    else pure ()
  | _ => pure ()

/-- The traps of a push: a port not bound to be pushed, or a ring of another partition (R170, R351). -/
def pushTrap (n : Nat) : M Unit := do
  let p ← getPort n
  let s ← get
  let u := s.unitOf s.cur
  match p.kind with
  | 2 => trapIf (neighbour u p.dir).isNone 0x06
  | 4 => trapIf (!(s.ring u p.ring).usable (s.dirE s.cur).part) 0x06
  | _ => trapC 0x06

/-- Pushes a value through a port (R170); its waits and traps have passed. -/
def push (n : Nat) (v : Word) : M Unit := do
  let p ← getPort n
  let s ← get
  let u := s.unitOf s.cur
  match p.kind with
  | 2 =>
    match neighbour u p.dir with
    | none => pure ()
    | some w => modify (fun s => { s with pkts := s.pkts ++ [{ src := u, dst := w, body := .push (opposite p.dir) v }] })
  | _ => set (s.ringPush u p.ring v)

/-! ### Sources and destinations of the SR groups (R67, R192) -/

/-- Waits until the ra source in its space is available, consuming nothing. -/
def needA (a : BitVec 5) (q : BitVec 2) : M Unit := do
  let x ← getC
  match q.toNat with
  | 0 => stallUnless (x.sReady a.toNat) wReg
  | 1 => stallUnless (bit x.mFull a.toNat) wReg
  | _ => popWait a.toNat

/-- The traps of the ra source in its space, taken when every source is available (R192). -/
def checkA (a : BitVec 5) (q : BitVec 2) : M Unit := if q.toNat < 2 then pure () else popTrap a.toNat

/-- Reads the ra source in its space with that class's effect: an m read empties, a q read pops (R67). -/
def takeA (a : BitVec 5) (q : BitVec 2) : M Word := do
  match q.toNat with
  | 0 => rdS a
  | 1 => do
    regCheck 1 a.toNat
    let x ← getC
    modC (fun x => { x with mFull := putBit x.mFull a.toNat false })
    modify (fun s => s.applyHeld s.cur 1 a.toNat)
    pure (mget x.mreg a.toNat 0)
  | _ => pop a.toNat

/-- Waits until the rd destination in its space can take a value (R192). -/
def needDst (d : BitVec 5) (p : BitVec 2) : M Unit :=
  if p.toNat = 0 then needD d else pushWait d.toNat

/-- The traps of the rd destination in its space. -/
def checkDst (d : BitVec 5) (p : BitVec 2) : M Unit := if p.toNat = 0 then pure () else pushTrap d.toNat

/-- Waits for a source and the destination, then their traps (R192): nothing is consumed before all have passed. -/
def ready1 (d a : BitVec 5) (p q : BitVec 2) : M Unit := do
  needA a q
  needDst d p
  checkA a q
  checkDst d p

/-- Writes the rd destination in its space: a q write pushes (R67). -/
def putD (d : BitVec 5) (p : BitVec 2) (v : Word) : M Unit :=
  if p.toNat = 0 then wrS d v else push d.toNat v

/-- An SR operation of two sources: every source available, then read in one cycle, then the destination (R192). -/
def sr2 (d a b : BitVec 5) (p q : BitVec 2) (f : Word → Word → Word) : M Unit := do
  needS b
  ready1 d a p q
  let y ← rdS b
  let x ← takeA a q
  putD d p (f x y)

/-- An SR operation of one source. -/
def sr1 (d a : BitVec 5) (p q : BitVec 2) (f : Word → Word) : M Unit := do
  ready1 d a p q
  let x ← takeA a q
  putD d p (f x)

/-- An SR operation of two sources that accrues flags under fmt.cfg (R94, R199). -/
def srF2 (d a b : BitVec 5) (p q : BitVec 2) (f : Word → Word → Word → Word × Nat) : M Unit := do
  needS b
  ready1 d a p q
  let y ← rdS b
  let x ← takeA a q
  let c ← getC
  let r := f c.fmt x y
  modC (fun c => c.accrue r.2)
  putD d p r.1

/-- The same with one source. -/
def srF1 (d a : BitVec 5) (p q : BitVec 2) (f : Word → Word → Word × Nat) : M Unit := do
  ready1 d a p q
  let x ← takeA a q
  let c ← getC
  let r := f c.fmt x
  modC (fun c => c.accrue r.2)
  putD d p r.1

/-- An operation of one s source and an immediate (R196). -/
def si1 (d a : BitVec 5) (f : Word → Word) : M Unit := do
  let x ← rdS a
  needD d
  wrS d (f x)

end Sys2Proof.Machine
end

