-- ==== Sys2Proof/Machine/Alu.lean ====
section
/-! DEFINITION. Integer arithmetic, immediates, address formation and the random generator (R194 to R198, R201). -/

namespace Sys2Proof.Machine

/-! ### What each operation computes -/

/-- Signed quotient with the cases of R195. -/
def sdiv64 (a b : Word) : Word := if b = 0 then BitVec.allOnes 64 else a.sdiv b
/-- Unsigned quotient with the cases of R195. -/
def udiv64 (a b : Word) : Word := if b = 0 then BitVec.allOnes 64 else a / b
/-- Signed remainder with the cases of R195. -/
def srem64 (a b : Word) : Word := if b = 0 then a else a.srem b
/-- Unsigned remainder with the cases of R195. -/
def urem64 (a b : Word) : Word := if b = 0 then a else a % b
/-- Bits [127:64] of the signed product (R194). -/
def mulh64 (a b : Word) : Word := ((a.signExtend 128 * b.signExtend 128) >>> 64).setWidth 64
/-- Bits [127:64] of the unsigned product (R194). -/
def mulhu64 (a b : Word) : Word := ((a.setWidth 128 * b.setWidth 128) >>> 64).setWidth 64
/-- The shift count Bits(b, 5, 0) (R194). -/
def sh6 (b : Word) : Nat := b.toNat % 64
/-- One for a true condition. -/
def flag64 (b : Bool) : Word := if b then 1 else 0
/-- Leading zero bits, 64 for zero (R194). -/
def clz64 (a : Word) : Word := if a = 0 then 64 else w64 (63 - Nat.log2 a.toNat)
/-- Trailing zero bits counted on fuel. -/
def ctzFrom (x : Nat) : Nat → Nat
  | 0 => 0
  | n + 1 => if x % 2 = 1 then 0 else 1 + ctzFrom (x / 2) n
/-- Trailing zero bits, 64 for zero (R194). -/
def ctz64 (a : Word) : Word := w64 (ctzFrom a.toNat 64)
/-- One bits. -/
def popCount {w : Nat} (a : BitVec w) : Nat := ((List.range w).filter (fun i => bit a i)).length

def execAdd (d a b : BitVec 5) (p q : BitVec 2) (s : State) := runInstr (.add d a b p q) (sr2 d a b p q (fun x y => x + y)) s
def execSub (d a b : BitVec 5) (p q : BitVec 2) (s : State) := runInstr (.sub d a b p q) (sr2 d a b p q (fun x y => x - y)) s
def execAnd (d a b : BitVec 5) (p q : BitVec 2) (s : State) := runInstr (.and d a b p q) (sr2 d a b p q (fun x y => x &&& y)) s
def execOr (d a b : BitVec 5) (p q : BitVec 2) (s : State) := runInstr (.or d a b p q) (sr2 d a b p q (fun x y => x ||| y)) s
def execXor (d a b : BitVec 5) (p q : BitVec 2) (s : State) := runInstr (.xor d a b p q) (sr2 d a b p q (fun x y => x ^^^ y)) s
def execAndn (d a b : BitVec 5) (p q : BitVec 2) (s : State) := runInstr (.andn d a b p q) (sr2 d a b p q (fun x y => x &&& ~~~y)) s
def execSll (d a b : BitVec 5) (p q : BitVec 2) (s : State) := runInstr (.sll d a b p q) (sr2 d a b p q (fun x y => x <<< sh6 y)) s
def execSrl (d a b : BitVec 5) (p q : BitVec 2) (s : State) := runInstr (.srl d a b p q) (sr2 d a b p q (fun x y => x >>> sh6 y)) s
def execSra (d a b : BitVec 5) (p q : BitVec 2) (s : State) := runInstr (.sra d a b p q) (sr2 d a b p q (fun x y => x.sshiftRight (sh6 y))) s
def execMul (d a b : BitVec 5) (p q : BitVec 2) (s : State) := runInstr (.mul d a b p q) (sr2 d a b p q (fun x y => x * y)) s
def execMulh (d a b : BitVec 5) (p q : BitVec 2) (s : State) := runInstr (.mulh d a b p q) (sr2 d a b p q mulh64) s
def execMulhu (d a b : BitVec 5) (p q : BitVec 2) (s : State) := runInstr (.mulhu d a b p q) (sr2 d a b p q mulhu64) s
def execDiv (d a b : BitVec 5) (p q : BitVec 2) (s : State) := runInstr (.div d a b p q) (sr2 d a b p q sdiv64) s
def execDivu (d a b : BitVec 5) (p q : BitVec 2) (s : State) := runInstr (.divu d a b p q) (sr2 d a b p q udiv64) s
def execRem (d a b : BitVec 5) (p q : BitVec 2) (s : State) := runInstr (.rem d a b p q) (sr2 d a b p q srem64) s
def execRemu (d a b : BitVec 5) (p q : BitVec 2) (s : State) := runInstr (.remu d a b p q) (sr2 d a b p q urem64) s
def execSlt (d a b : BitVec 5) (p q : BitVec 2) (s : State) := runInstr (.slt d a b p q) (sr2 d a b p q (fun x y => flag64 (x.slt y))) s
def execSltu (d a b : BitVec 5) (p q : BitVec 2) (s : State) := runInstr (.sltu d a b p q) (sr2 d a b p q (fun x y => flag64 (x.ult y))) s
def execMin (d a b : BitVec 5) (p q : BitVec 2) (s : State) := runInstr (.min d a b p q) (sr2 d a b p q (fun x y => if x.sle y then x else y)) s
def execMax (d a b : BitVec 5) (p q : BitVec 2) (s : State) := runInstr (.max d a b p q) (sr2 d a b p q (fun x y => if y.sle x then x else y)) s
def execMinu (d a b : BitVec 5) (p q : BitVec 2) (s : State) := runInstr (.minu d a b p q) (sr2 d a b p q (fun x y => if x.ule y then x else y)) s
def execMaxu (d a b : BitVec 5) (p q : BitVec 2) (s : State) := runInstr (.maxu d a b p q) (sr2 d a b p q (fun x y => if y.ule x then x else y)) s
def execClz (d a : BitVec 5) (p q : BitVec 2) (s : State) := runInstr (.clz d a p q) (sr1 d a p q clz64) s
def execCtz (d a : BitVec 5) (p q : BitVec 2) (s : State) := runInstr (.ctz d a p q) (sr1 d a p q ctz64) s
def execPopc (d a : BitVec 5) (p q : BitVec 2) (s : State) := runInstr (.popc d a p q) (sr1 d a p q (fun x => w64 (popCount x))) s

def execAddi (d a : BitVec 5) (i : BitVec 14) (s : State) := runInstr (.addi d a i) (si1 d a (fun x => x + sx i)) s
def execAndi (d a : BitVec 5) (i : BitVec 14) (s : State) := runInstr (.andi d a i) (si1 d a (fun x => x &&& sx i)) s
def execOri (d a : BitVec 5) (i : BitVec 14) (s : State) := runInstr (.ori d a i) (si1 d a (fun x => x ||| sx i)) s
def execXori (d a : BitVec 5) (i : BitVec 14) (s : State) := runInstr (.xori d a i) (si1 d a (fun x => x ^^^ sx i)) s
def execSlli (d a : BitVec 5) (i : BitVec 6) (s : State) := runInstr (.slli d a i) (si1 d a (fun x => x <<< i.toNat)) s
def execSrli (d a : BitVec 5) (i : BitVec 6) (s : State) := runInstr (.srli d a i) (si1 d a (fun x => x >>> i.toNat)) s
def execSrai (d a : BitVec 5) (i : BitVec 6) (s : State) := runInstr (.srai d a i) (si1 d a (fun x => x.sshiftRight i.toNat)) s
def execSlti (d a : BitVec 5) (i : BitVec 14) (s : State) := runInstr (.slti d a i) (si1 d a (fun x => flag64 (x.slt (sx i)))) s
def execSltiu (d a : BitVec 5) (i : BitVec 14) (s : State) := runInstr (.sltiu d a i) (si1 d a (fun x => flag64 (x.ult (sx i)))) s

/-- LUI's value (R66, R197). -/
def luiValue (i : BitVec 19) : Word := sx i <<< 14

def execLui (d : BitVec 5) (i : BitVec 19) (s : State) :=
  runInstr (.lui d i) (do needD d; wrS d (luiValue i)) s

def execAuipc (d : BitVec 5) (i : BitVec 19) (s : State) :=
  runInstr (.auipc d i) (do needD d; let pc ← getPc; wrS d (pc + luiValue i)) s

/-- LEA's index (R198). -/
def leaIndex (z : BitVec 1) (x : Word) : Word := if z.toNat = 1 then (x.setWidth 32).setWidth 64 else x

def execLea (d a b : BitVec 5) (z : BitVec 1) (sh : BitVec 3) (s : State) :=
  runInstr (.lea d a b z sh) (do
    needS b
    needD d
    let x ← rdS a
    let y ← rdS b
    wrS d (x + leaIndex z y <<< sh.toNat)) s

/-! ### The random generator (R201) -/

/-- The raw draw for a key and counter. -/
def draw (key ctr : Word) : Word :=
  let z := key + (ctr + 1) * 0x9E3779B97F4A7C15
  let z := (z ^^^ (z >>> 30)) * 0xBF58476D1CE4E5B9
  let z := (z ^^^ (z >>> 27)) * 0x94D049BB133111EB
  z ^^^ (z >>> 31)

/-- The unit-interval form: binary32 of the top 24 bits × 2^-24, exact (R201). -/
def drawF32 (z : Word) : Word := w64 (f32.roundNE (.rat false (z.toNat >>> 40) 1 (-24) false)).1

/-- The bounded form (R201). -/
def drawBnd (z n : Word) : Word := if n = 0 then z else w64 (z.toNat * n.toNat / 2 ^ 64)

/-- Draws: the counter advances by one (R201). -/
def nextDraw : M Word := do
  let x ← getC
  modC (fun x => x.csrSet 0x19 (x.csrGet 0x19 + 1))
  pure (draw (x.csrGet 0x18) (x.csrGet 0x19))

def execRand (d : BitVec 5) (s : State) := runInstr (.rand d) (do needD d; let z ← nextDraw; wrS d z) s
def execRandF32 (d : BitVec 5) (s : State) := runInstr (.randF32 d) (do needD d; let z ← nextDraw; wrS d (drawF32 z)) s
def execRandBnd (d b : BitVec 5) (s : State) :=
  runInstr (.randBnd d b) (do needD d; let n ← rdS b; let z ← nextDraw; wrS d (drawBnd z n)) s

end Sys2Proof.Machine
end

