-- ==== Sys2Proof/Machine/Lend.lean ====
section
/-! DEFINITION. Pulse counts, and the borrowing of power allowances between clusters with its recall (R397 to R400). -/

namespace Sys2Proof.Machine

/-- The pulse count in use: min(KREQ, KGRANT, KTHERM) (R397). -/
def ClusterSt.setK (x : ClusterSt) : ClusterSt := { x with k := min x.kreq (min x.kgrant x.ktherm) }

/-- A count of sixteenths of PMAX, from 1 to 16. -/
def kOf (a pmax : Nat) : Nat := min 16 (max 1 (16 * a / max 1 pmax))

/-- Computes borrowings and grants for standings given by cluster (R399). -/
def State.lend (s : State) (st : Nat → Nat) : State :=
  let cs := List.range 16
  let limited := fun c => (s.cluster c).allow != 0xFFFF
  let pool := nsum ((cs.filter (fun c => st c != 0 && limited c)).map (fun c => (s.cluster c).allow))
  let n := (cs.filter (fun c => st c == 0)).length
  cs.foldl (fun s c => s.modCluster c (fun x =>
    let pm := max 1 x.pmax
    if !limited c then { x with kgrant := 16, borrow := 0, lst := st c }.setK
    else if st c = 0 then
      let b := min (pool / max 1 n) (pm - x.allow)
      { x with borrow := b, kgrant := kOf (x.allow + b) pm, lst := 0 }.setK
    else { x with borrow := 0, kgrant := kOf x.allow pm, lst := st c }.setK)) s

/-- Computes borrowings and grants while the recalls of some clusters go on: each of those is active, lends nothing, and keeps its one
pulse (R399, R400). -/
def State.lendAround (s : State) (st : Nat → Nat) (recalling : List Nat) : State :=
  recalling.foldl (fun t d => t.modCluster d (fun x => { x with lst := 3, borrow := 0, kgrant := 1 }.setK))
    (s.lend (fun c => if recalling.contains c then 0 else st c))

/-- The clusters whose recall is under way, but for one. -/
def State.recalling (s : State) (but : Option Nat) : List Nat :=
  (List.range 16).filter (fun d => some d != but && (s.cluster d).lst == 3)

/-- Whether a cluster lends: its allowance is in the pool (R399). -/
def ClusterSt.lends (x : ClusterSt) : Bool := (x.lst == 1 || x.lst == 2) && x.allow != 0xFFFF

/-- A unit has issued or runs an engine step: where its cluster lends, its allowance is recalled, every borrower comes down to its new
count at once, and the lender keeps one pulse till the recall completes (R400). -/
def State.recall (s : State) (u : Nat) : State :=
  if u < 256 && (s.cluster (clusterOf u)).lends then
    s.lendAround (fun d => (s.cluster d).lst) (clusterOf u :: s.recalling none)
  else s

end Sys2Proof.Machine
end

