-- ==== Sys2Proof/Machine/Fetch.lean ====
section
/-! DEFINITION. What happens at an instruction boundary before the instruction: the traps that wait (R368), the fetch (R63,
R74), and which context of a unit may issue (R331, R332, R335). -/

namespace Sys2Proof.Machine

/-- A fetch from a home for a unit: the channel is active, a correctable error is corrected (R33, R39, R117). -/
def State.fetched (s : State) (u loc : Nat) : State := (s.touch loc).correct u loc 4

/-- Fetches the word at the executing context's pc (R44, R48, R63, R74). DESIGN CHOICE: of the old and the new word of a stored
location, either of which may come before a DRAIN and a taken jump, it is the one memory holds at the fetch (log 53). -/
def fetchWord : M (BitVec 32) := do
  let pc ← getPc
  if pc.toNat % 4 ≠ 0 then trapAt 0x05 pc 7 2 else do
    let loc ← home pc accX 4 false
    if isRegBlock loc then trapAt 0x05 pc 7 2 else do
      awake loc
      let s ← get
      let s := s.fetched (s.unitOf s.cur) loc
      set s
      if s.readErr loc 4 ≠ 0 then trapAt (s.readErr loc 4) pc 7 2
      else pure (BitVec.ofNat 32 (s.peek loc 4))

/-- The trap a class I record gives (R363, R364, R371). -/
def Rec.trap (r : Rec) : TrapInfo :=
  { cause := r.cause, addr := r.addr, data := r.data, aux := r.aux, size := r.size, level := r.level, orig := r.orig, kind := r.kind, no := r.no }

/-- The first record of the queue that a context may take now: while its handler runs, only those of the handler's own
work (R367, R368). -/
def State.nextRecord (s : State) (c : Nat) : Option Rec :=
  let inH := (s.ctx c).inHandler
  (s.unit (s.unitOf c)).sfq.find? (fun r => r.ctx == c && (!inH || r.inH))

/-- The next asynchronous cause a context takes, in ascending code (R368); while its handler runs only those for the
management core (R367). -/
def State.nextAsync (s : State) (c : Nat) : Option Async :=
  let inH := (s.ctx c).inHandler
  minBy (·.cause) ((s.dirE c).async.filter (fun a => !inH || causeToCmc a.cause))

/-- Whether entry to the handler waits for outstanding results (R366): then the trap goes on waiting where it is. -/
def State.entryWaits (s : State) (c : Nat) (t : TrapInfo) (fromHandler : Bool) : Bool :=
  s.toHandler c t fromHandler && (s.ctx c).resultsOut

/-- Takes a class I record: it leaves the queue, a park in progress ends, and the trap is taken (R361, R371). -/
def State.takeRecord (s : State) (c : Nat) (r : Rec) : State :=
  if s.entryWaits c r.trap r.inH then s else
  let s := s.modUnit (s.unitOf c) (fun x => { x with sfq := x.sfq.erase r })
  let s := s.withdraw c
  s.takeTrap c r.trap true r.pc (s.ctx c).pc 0 r.inH

/-- An asynchronous cause as a trap (R363, R364). -/
def Async.trap (a : Async) : TrapInfo := { cause := a.cause, addr := a.addr, data := a.data, aux := a.aux, kind := 5 }

/-- Takes an asynchronous cause (R361). -/
def State.takeAsync (s : State) (c : Nat) (a : Async) : State :=
  if s.entryWaits c a.trap false then s else
  let s := s.modDir c (fun d => { d with async := d.async.erase a })
  let s := s.withdraw c
  s.takeTrap c a.trap false a.pc (if a.cause = 0x41 then a.pc else (s.ctx c).pc) 0 false

/-- Raises an asynchronous cause for a context: it is taken at its next boundary, and a park in progress ends (R361). -/
def State.raise (s : State) (c : Nat) (a : Async) : State := (s.modDir c (fun d => { d with async := d.async ++ [a] })).unpark c

/-- The hang watchdog (R381): the count is taken as DATA and returns to zero. -/
def State.hangDue (s : State) (c : Nat) : Bool :=
  let lim := bits ((s.ctx c).csrGet 0x100) 31 0
  lim != 0 && lim * 1024 ≤ (s.ctx c).wdcnt

/-- Cause 0x30 (R381, R364). -/
def State.hangRaise (s : State) (c : Nat) : State :=
  let x := s.ctx c
  (s.modCtx c (fun x => { x with wdcnt := 0 })).raise c { cause := 0x30, data := w64 x.wdcnt, aux := x.csrGet 0x100 }

/-- The wall-time bound (R382). -/
def State.wallDue (s : State) (c : Nat) : Bool :=
  let lim := (s.ctx c).csrGet 0x101
  lim != 0 && lim.toNat ≤ s.time

/-- Cause 0x31 (R382, R364). -/
def State.wallRaise (s : State) (c : Nat) : State :=
  let lim := (s.ctx c).csrGet 0x101
  (s.modCtx c (fun x => x.csrSet 0x101 0)).raise c { cause := 0x31, data := w64 s.time, aux := lim }

/-- Raises what has fallen due for a context by the time of its boundary (R381, R382). -/
def State.raiseDue (s : State) (c : Nat) : State :=
  let s := if s.hangDue c then s.hangRaise c else s
  if s.wallDue c then s.wallRaise c else s

/-- The word DRAIN is encoded as (R219). -/
def drainWord : BitVec 32 := 0x32000000

/-- Whether a context's next instruction is a DRAIN: then class I records are taken when the DRAIN has completed (R219). -/
def State.atDrain (s : State) (c : Nat) : Bool :=
  let pc := (s.ctx c).pc
  pc.toNat % 4 == 0 &&
    (match s.resolve (s.whoIs c) pc accX true with
      | (.ok loc, _) => s.readErr loc 4 == 0 && BitVec.ofNat 32 (s.peek loc 4) == drainWord
      | _ => false)

/-- The trap a context takes at this boundary, if one waits (R368). An instruction whose access has been performed elsewhere ends first
(R114). Behind one DRAIN a record is not put off for the next (R219). -/
def State.boundaryTrap (s : State) (c : Nat) : Option State :=
  if s.answerDue c then none else
  match s.nextRecord c with
  | some r => if !(s.dirE c).drained && (s.unissue c).atDrain c then none else some ((s.unissue c).takeRecord c r)
  | none =>
    match s.nextAsync c with
    | some a => some ((s.unissue c).takeAsync c a)
    | none => none

/-- Whether a store of a context keeps it from issuing: one unresolved when the seventeenth instruction after
it comes up (R210; its own issue counts as the first of `age`), or one that failed and waits for a place in the record queue (R211). -/
def State.storeBlocked (s : State) (c : Nat) : Bool :=
  (s.unit (s.unitOf c)).sb.any (fun e => e.ctx == c && ((e.rs == 0 && 17 ≤ e.age) || e.rs == 2))

/-- Whether a unit works at all: Croft outside standby, Acre while it is on or changing (R390, R393). -/
def State.powered (s : State) (u : Nat) : Bool :=
  s.power && !(s.unit u).gated && (if isCroft u then !s.island.standby else s.island.st == 0 || s.island.st == 3)

/-- Whether a unit issues at all: its island runs, it is not gated, and no honoured migration takes its work away (R393,
R396, R404, R410). -/
def State.unitRuns (s : State) (u : Nat) : Bool :=
  (if isCroft u then !s.island.standby else s.island.st == 0 && !s.island.emergency) &&
    s.power && !(s.unit u).gated && !s.migs.any (fun m => m.src == u && m.honoured)

/-- Whether a partition has issue budget left on a unit this period (R334, R335). -/
def State.hasIssue (s : State) (u p : Nat) : Bool :=
  let lim := bits (s.part p).budget 63 48
  lim == 0xFFFF || mget (s.unit u).spent p 0 < lim

/-- Budget counters reload when a period of 1,024 ns has begun since they last did (R335). -/
def State.reload (s : State) : State :=
  if s.time / 1024 = s.period then s
  else { s with period := s.time / 1024, units := s.units.map (fun e => (e.1, { e.2 with spent := [] })) }

/-- Whether a resident context may try to issue: neither held nor frozen nor waiting outside, its partition running with
budget. -/
def State.canTry (s : State) (u c : Nat) : Bool :=
  match mfind s.ctxs c with
  | none => false
  | some x =>
    !x.held && !x.frozen && (s.dirE c).st == 1 && (s.part (s.dirE c).part).pst == 0 && s.hasIssue u (s.dirE c).part && !s.storeBlocked c

/-- The slots in the order of R332 for a turn's owner. -/
def slotOrder (owner : Nat) : List Nat :=
  if owner < 8 then (List.range 8).map (fun i => (owner + i) % 8) else List.range 8

/-- A unit's clock advances one effective cycle: a new rotation table takes effect at turn 0 (R331), resident contexts' hang
counts advance (R381). -/
def State.tick (s : State) (u : Nat) : State :=
  let x := s.unit u
  let now := x.cyc + 1
  let x := match x.rotNext with
    | some r => if now % 16 = 0 then { x with cyc := now, rot := r, rotNext := none } else { x with cyc := now }
    | none => { x with cyc := now }
  let s := { s with units := mset s.units u x }
  x.slots.foldl (fun s e => match mfind s.ctxs e.2 with
    | some y => if y.held || y.frozen then s else s.setCtx e.2 { y with wdcnt := y.wdcnt + 1 }
    | none => s) s

/-- Charges a partition for an issue turn (R332, R335); a unit that issues is active (R400). -/
def State.charge (s : State) (u c : Nat) : State :=
  let p := (s.dirE c).part
  let s := (s.recall u).modUnit u (fun x => { x with spent := mset x.spent p (mget x.spent p 0 + 1), lastActive := s.time })
  if isCroft u then { s with island := { s.island with croftActive := s.time } }
  else { s with island := { s.island with lastActive := s.time, wakeIss := if s.island.wakeIss ≤ s.island.wakeReq then s.time else s.island.wakeIss } }

end Sys2Proof.Machine
end

