-- ==== Sys2Proof/Machine/Crypto.lean ====
section
/-! DEFINITION. AES-128 and AES-CMAC for capability check codes (R177), SHA-384 and ECDSA P-384 for boot and attestation
(R425, R427), by the standards those rules name. -/

namespace Sys2Proof.Machine

/-! ### AES-128 (FIPS 197) -/

/-- The substitution box, entries 0 to 63, entry i in byte i - 0. -/
def sbox0 : Nat := 0x75B227EBE28012079A059618C323C7041531D871F1E5A534CCF73F362693FDB7C072A49CAFA2D4ADF04759FA7DC982CA76ABD7FE2B670130C56F6BF27B777C63
/-- The substitution box, entries 64 to 127, entry i in byte i - 64. -/
def sbox1 : Nat := 0xD2F3FF1021DAB6BCF5389D928F40A351A89F3C507F02F94585334D43FBAAEFD0CF584C4A39BECB6A5BB1FC20ED00D153842FE329B3D63B52A05A6E1B1A2C8309
/-- The substitution box, entries 128 to 191, entry i in byte i - 128. -/
def sbox2 : Nat := 0x08AE7A65EAF4566CA94ED58D6D37C8E779E4959162ACD3C25C2406490A3A32E0DB0B5EDE14B8EE4688902A22DC4F816073195D643D7EA7C41744975FEC130CCD
/-- The substitution box, entries 192 to 255, entry i in byte i - 192. -/
def sbox3 : Nat := 0x16BB54B00F2D99416842E6BF0D89A18CDF2855CEE9871E9B948ED9691198F8E19E1DC186B95735610EF6034866B53E708A8BBD4B1F74DDE8C6B4A61C2E2578BA

/-- The substitution of a byte. -/
def subByte (x : Nat) : Nat :=
  let t := match x / 64 with
    | 0 => sbox0
    | 1 => sbox1
    | 2 => sbox2
    | _ => sbox3
  t >>> (8 * (x % 64)) % 256

/-- Multiplication by x in the field of AES. -/
def xtime (a : Nat) : Nat := if a < 128 then 2 * a else Nat.xor (2 * a - 256) 0x1B

/-- A block with its rows shifted; bytes stand column by column. -/
def shiftRows (l : List Nat) : List Nat := (List.range 16).map (fun i => l.getD ((i + 4 * (i % 4)) % 16) 0)

/-- One column of MixColumns. -/
def mixCol (a b c d : Nat) : List Nat :=
  let f := fun (p q r s : Nat) => Nat.xor (Nat.xor (xtime p) (Nat.xor (xtime q) q)) (Nat.xor r s)
  [f a b c d, f b c d a, f c d a b, f d a b c]

/-- MixColumns. -/
def mixColumns (l : List Nat) : List Nat :=
  (List.range 4).flatMap (fun c => mixCol (l.getD (4 * c) 0) (l.getD (4 * c + 1) 0) (l.getD (4 * c + 2) 0) (l.getD (4 * c + 3) 0))

/-- Bytewise exclusive or. -/
def xorBytes (a b : List Nat) : List Nat := List.zipWith Nat.xor a b

/-- The round key after one, with round constant `rc`. -/
def nextKey (k : List Nat) (rc : Nat) : List Nat :=
  let w := fun i => (k.drop (4 * i)).take 4
  let t := w 3
  let g := [Nat.xor (subByte (t.getD 1 0)) rc, subByte (t.getD 2 0), subByte (t.getD 3 0), subByte (t.getD 0 0)]
  let a := xorBytes (w 0) g
  let b := xorBytes (w 1) a
  let c := xorBytes (w 2) b
  a ++ b ++ c ++ xorBytes (w 3) c

/-- The rounds from one on: `n` of them left, the last without MixColumns. -/
def aesRounds : Nat → List Nat → Nat → List Nat → List Nat
  | 0, _, _, st => st
  | n + 1, k, rc, st =>
    let k := nextKey k rc
    let st := shiftRows (st.map subByte)
    aesRounds n k (xtime rc) (xorBytes (if n = 0 then st else mixColumns st) k)

/-- AES-128 of a block of sixteen bytes. -/
def aes128 (key block : List Nat) : List Nat := aesRounds 10 key 1 (xorBytes block key)

/-! ### AES-CMAC of eight bytes (NIST SP 800-38B) -/

/-- A block doubled in the field of CMAC, first byte highest. -/
def cmacDouble (l : List Nat) : List Nat :=
  let x := l.foldl (fun a b => a * 256 + b) 0
  let y := 2 * x % 2 ^ 128
  let y := if 2 ^ 127 ≤ x then Nat.xor y 0x87 else y
  (List.range 16).map (fun i => y >>> (8 * (15 - i)) % 256)

/-- AES-CMAC of an eight-byte message: one incomplete block. -/
def cmac8 (key msg : List Nat) : List Nat :=
  let k2 := cmacDouble (cmacDouble (aes128 key (List.replicate 16 0)))
  aes128 key (xorBytes (msg ++ 128 :: List.replicate 7 0) k2)

/-- The little-endian bytes of a number, as numbers. -/
def leBytes (n x : Nat) : List Nat := (List.range n).map (fun i => x >>> (8 * i) % 256)

/-- CHK of a capability under a key (R177): the leftmost 24 bits of the code of its bytes with CHK zero. -/
def capChk (key : BitVec 128) (cap : Word) : Nat :=
  let m := cmac8 (leBytes 16 key.toNat) (leBytes 8 (cap.toNat / 2 ^ 24 * 2 ^ 24))
  m.getD 0 0 * 65536 + m.getD 1 0 * 256 + m.getD 2 0

/-! ### SHA-384 (FIPS 180-4) -/

/-- Round constants 0 to 15. -/
def shaK0 : List Nat :=
  [0x428A2F98D728AE22, 0x7137449123EF65CD, 0xB5C0FBCFEC4D3B2F, 0xE9B5DBA58189DBBC,
   0x3956C25BF348B538, 0x59F111F1B605D019, 0x923F82A4AF194F9B, 0xAB1C5ED5DA6D8118,
   0xD807AA98A3030242, 0x12835B0145706FBE, 0x243185BE4EE4B28C, 0x550C7DC3D5FFB4E2,
   0x72BE5D74F27B896F, 0x80DEB1FE3B1696B1, 0x9BDC06A725C71235, 0xC19BF174CF692694]
/-- Round constants 16 to 31. -/
def shaK1 : List Nat :=
  [0xE49B69C19EF14AD2, 0xEFBE4786384F25E3, 0x0FC19DC68B8CD5B5, 0x240CA1CC77AC9C65,
   0x2DE92C6F592B0275, 0x4A7484AA6EA6E483, 0x5CB0A9DCBD41FBD4, 0x76F988DA831153B5,
   0x983E5152EE66DFAB, 0xA831C66D2DB43210, 0xB00327C898FB213F, 0xBF597FC7BEEF0EE4,
   0xC6E00BF33DA88FC2, 0xD5A79147930AA725, 0x06CA6351E003826F, 0x142929670A0E6E70]
/-- Round constants 32 to 47. -/
def shaK2 : List Nat :=
  [0x27B70A8546D22FFC, 0x2E1B21385C26C926, 0x4D2C6DFC5AC42AED, 0x53380D139D95B3DF,
   0x650A73548BAF63DE, 0x766A0ABB3C77B2A8, 0x81C2C92E47EDAEE6, 0x92722C851482353B,
   0xA2BFE8A14CF10364, 0xA81A664BBC423001, 0xC24B8B70D0F89791, 0xC76C51A30654BE30,
   0xD192E819D6EF5218, 0xD69906245565A910, 0xF40E35855771202A, 0x106AA07032BBD1B8]
/-- Round constants 48 to 63. -/
def shaK3 : List Nat :=
  [0x19A4C116B8D2D0C8, 0x1E376C085141AB53, 0x2748774CDF8EEB99, 0x34B0BCB5E19B48A8,
   0x391C0CB3C5C95A63, 0x4ED8AA4AE3418ACB, 0x5B9CCA4F7763E373, 0x682E6FF3D6B2B8A3,
   0x748F82EE5DEFB2FC, 0x78A5636F43172F60, 0x84C87814A1F0AB72, 0x8CC702081A6439EC,
   0x90BEFFFA23631E28, 0xA4506CEBDE82BDE9, 0xBEF9A3F7B2C67915, 0xC67178F2E372532B]
/-- Round constants 64 to 79. -/
def shaK4 : List Nat :=
  [0xCA273ECEEA26619C, 0xD186B8C721C0C207, 0xEADA7DD6CDE0EB1E, 0xF57D4F7FEE6ED178,
   0x06F067AA72176FBA, 0x0A637DC5A2C898A6, 0x113F9804BEF90DAE, 0x1B710B35131C471B,
   0x28DB77F523047D84, 0x32CAAB7B40C72493, 0x3C9EBE0A15C9BEBC, 0x431D67C49C100D4C,
   0x4CC5D4BECB3E42B6, 0x597F299CFC657E2A, 0x5FCB6FAB3AD6FAEC, 0x6C44198C4A475817]

/-- The round constants. -/
def shaK : List Nat := shaK0 ++ shaK1 ++ shaK2 ++ shaK3 ++ shaK4

/-- The initial value. -/
def shaInit : List Nat :=
  [0xCBBB9D5DC1059ED8, 0x629A292A367CD507, 0x9159015A3070DD17, 0x152FECD8F70E5939,
   0x67332667FFC00B31, 0x8EB44A8768581511, 0xDB0C2E0D64F98FA7, 0x47B5481DBEFA4FA4]

/-- Rotation of a 64-bit word to the right. -/
def rotr (x n : Nat) : Nat := x >>> n + x % 2 ^ n * 2 ^ (64 - n)
/-- The exclusive or of three words. -/
def xor3 (a b c : Nat) : Nat := Nat.xor (Nat.xor a b) c

/-- The schedule of a block, extended word by word. -/
def shaSched : Nat → List Nat → List Nat
  | 0, w => w
  | n + 1, w =>
    let g := fun i => w.getD (w.length - i) 0
    let s0 := xor3 (rotr (g 15) 1) (rotr (g 15) 8) (g 15 >>> 7)
    let s1 := xor3 (rotr (g 2) 19) (rotr (g 2) 61) (g 2 >>> 6)
    shaSched n (w ++ [(g 16 + s0 + g 7 + s1) % 2 ^ 64])

/-- One round. -/
def shaRound (v : List Nat) (kw : Nat) : List Nat :=
  let g := fun i => v.getD i 0
  let s1 := xor3 (rotr (g 4) 14) (rotr (g 4) 18) (rotr (g 4) 41)
  let ch := Nat.xor (Nat.land (g 4) (g 5)) (Nat.land (2 ^ 64 - 1 - g 4) (g 6))
  let t1 := g 7 + s1 + ch + kw
  let s0 := xor3 (rotr (g 0) 28) (rotr (g 0) 34) (rotr (g 0) 39)
  let mj := xor3 (Nat.land (g 0) (g 1)) (Nat.land (g 0) (g 2)) (Nat.land (g 1) (g 2))
  [(t1 + s0 + mj) % 2 ^ 64, g 0, g 1, g 2, (g 3 + t1) % 2 ^ 64, g 4, g 5, g 6]

/-- Big-endian words of eight bytes. -/
def beWords : Nat → List Nat → List Nat
  | 0, _ => []
  | n + 1, l => (l.take 8).foldl (fun a b => a * 256 + b) 0 :: beWords n (l.drop 8)

/-- One block of 128 bytes. -/
def shaBlock (h : List Nat) (b : List Nat) : List Nat :=
  let w := shaSched 64 (beWords 16 b)
  List.zipWith (fun x y => (x + y) % 2 ^ 64) h ((List.zipWith (· + ·) shaK w).foldl shaRound h)

/-- The blocks of a padded message. -/
def shaBlocks : Nat → List Nat → List Nat → List Nat
  | 0, h, _ => h
  | n + 1, h, l => shaBlocks n (shaBlock h (l.take 128)) (l.drop 128)

/-- The big-endian bytes of a number. -/
def beBytes (n x : Nat) : List Nat := (List.range n).map (fun i => x >>> (8 * (n - 1 - i)) % 256)

/-- SHA-384: 48 bytes. -/
def sha384 (msg : List Nat) : List Nat :=
  let z := (239 - msg.length % 128) % 128
  let p := msg ++ 128 :: (List.replicate z 0 ++ beBytes 16 (8 * msg.length))
  (shaBlocks (p.length / 128) shaInit p).take 6 |>.flatMap (beBytes 8)

/-! ### ECDSA over P-384 (FIPS 186-5) -/

/-- The field. -/
def p384P : Nat := 2 ^ 384 - 2 ^ 128 - 2 ^ 96 + 2 ^ 32 - 1
/-- The order of the base point. -/
def p384N : Nat := 0xFFFFFFFFFFFFFFFFFFFFFFFFFFFFFFFFFFFFFFFFFFFFFFFFC7634D81F4372DDF581A0DB248B0A77AECEC196ACCC52973
/-- The curve's constant term. -/
def p384B : Nat := 0xB3312FA7E23EE7E4988E056BE3F82D19181D9C6EFE8141120314088F5013875AC656398D8A2ED19D2A85C8EDD3EC2AEF
/-- The base point. -/
def p384G : Nat × Nat :=
  (0xAA87CA22BE8B05378EB1C71EF320AD746E1D3B628BA79B9859F741E082542A385502F25DBF55296C3A545E3872760AB7,
   0x3617DE4A96262C6F5D9E98BF9292DC29F8F41DBD289A147CE9DA3113B5F0B8C00A60B1CE1D7E819D7A431D7C90EA0E5F)

/-- Powers modulo `m`, on fuel of exponent bits. -/
def powMod (m : Nat) : Nat → Nat → Nat → Nat
  | 0, _, _ => 1 % m
  | n + 1, a, e => let r := powMod m n (a * a % m) (e / 2); if e % 2 = 1 then a * r % m else r

/-- The inverse modulo a prime. -/
def invMod (m a : Nat) : Nat := powMod m 400 (a % m) (m - 2)

/-- The sum of two points of the curve; none is the point at infinity. -/
def ecAdd (a b : Option (Nat × Nat)) : Option (Nat × Nat) :=
  let p := p384P
  match a, b with
  | none, b => b
  | a, none => a
  | some (x, y), some (x', y') =>
    if x = x' ∧ (y + y') % p = 0 then none else
    let l := if x = x' then (3 * x * x + (p - 3)) * invMod p (2 * y) % p else (y' + (p - y)) * invMod p (x' + (p - x)) % p
    let u := (l * l + 2 * p - x - x') % p
    some (u, (l * (x + (p - u)) + (p - y)) % p)

/-- A multiple of a point, on fuel of bits. -/
def ecMul : Nat → Nat → Option (Nat × Nat) → Option (Nat × Nat)
  | 0, _, _ => none
  | n + 1, k, a => let r := ecMul n (k / 2) (ecAdd a a); if k % 2 = 1 then ecAdd a r else r

/-- Whether a point is on the curve. -/
def onCurve (q : Nat × Nat) : Bool :=
  q.1 < p384P && q.2 < p384P && (q.2 * q.2) % p384P == (q.1 * q.1 * q.1 + (p384P - 3) * q.1 + p384B) % p384P

/-- ECDSA verification of a digest (48 bytes as a number). -/
def ecdsaOk (q : Nat × Nat) (z r s : Nat) : Bool :=
  let n := p384N
  onCurve q && 0 < r && r < n && 0 < s && s < n &&
    (let w := invMod n s
     match ecAdd (ecMul 384 (z * w % n) (some p384G)) (ecMul 384 (r * w % n) (some q)) with
     | some (x, _) => x % n == r
     | none => false)

/-- ECDSA signature of a digest with a key and a nonce. -/
def ecdsaSign (d k z : Nat) : Nat × Nat :=
  let n := p384N
  let r := ((ecMul 384 k (some p384G)).map (·.1 % n)).getD 0
  (r, invMod n k * (z + r * d) % n)

end Sys2Proof.Machine
end

