-- ==== Sys2Proof/Machine/Regs.lean ====
section
/-! DEFINITION. What the register blocks read as (R7, R26, R36, R37 and the rules of each register). An offset nothing
defines reads zero (log 17). -/

namespace Sys2Proof.Machine

/-- The canonical pulse pattern of k (R397). -/
def pulsePattern (k : Nat) : Nat :=
  nsum ((List.range 16).map (fun i => if i * k / 16 < (i + 1) * k / 16 then 2 ^ i else 0))

/-- LAUNCHST and RESUMEST's layout (R324). -/
def launchStatus (first depth cause : Nat) (ovf fail : Bool) : Word :=
  w64 (first * 2 ^ 32 + depth * 2 ^ 24 + cause * 256 + b2n ovf * 2 + b2n fail)

/-- The partition register block (R27, R46, R53, R177, R324, R342, R356, R389). -/
def State.partRead (s : State) (p off : Nat) : Word :=
  let x := s.part p
  if 0x1000 ≤ off ∧ off < 0x2000 then (mget x.lum ((off - 0x1000) / 8) 0).setWidth 64
  else match off with
    | 0x400 => x.astBase
    | 0x408 => x.xltva
    | 0x410 => x.xltinv
    | 0x808 => launchStatus x.lFirst x.launchQ.length x.lCause x.lOvf x.lFail
    | 0x810 => x.methBase
    | 0x818 => w64 x.methCnt
    | 0x820 => w64 x.grpKill
    | 0x830 => launchStatus x.rFirst x.resumeQ.length x.rCause x.rOvf x.rFail
    | _ => 0

/-- The images of a partition in the shadow store: PARTCTL.BIMG (R417). -/
def State.bimg (s : State) (p : Nat) : Nat :=
  (s.dir.filter (fun e => e.2.st == 1 && e.2.part == p && (match e.2.place with | .shadow _ _ _ => true | _ => false))).length

/-- The registers of a cluster's management core (R370). The link corrections since the last read of ERRCNT are a free value: nothing
of the state decides when a DRAM link corrects (R35, log 54). -/
def ClusterSt.cmcRead (x : ClusterSt) (free r : Nat) : Word :=
  match r with
  | 0x00 => x.ctxCmd
  | 0x08 => x.ctxPc
  | 0x10 => w64 x.mbox.length
  | 0x18 => w64 x.head
  | 0x20 => w64 (min (x.link + free) 0xFFFF * 2 ^ 32 + x.corr * 2 ^ 16 + x.rply)
  | _ => 0

/-- ISLCTL (R392). -/
def Island.ctl (i : Island) : Word :=
  w64 (b2n i.busy * 2 ^ 63 + i.cmd * 2 ^ 60 + i.offIdle * 2 ^ 32 + i.retIdle * 2 ^ 16 + b2n i.auto * 2 ^ 15 +
    b2n i.ref * 2 ^ 7 + b2n i.inh * 2 ^ 6 + i.st)

/-- The device register block (R26, R41, R56, R329, R334, R370, R392 to R408, R417, R420, R426). -/
def State.devRead (s : State) (off : Nat) : Word :=
  if off % 8 ≠ 0 then 0
  else if 0x300000 ≤ off ∧ off < 0x310000 then
    if off % 0x1000 < 4096 then (s.lumEntry ((off - 0x300000) / 0x1000) (off % 0x1000 / 8)).setWidth 64 else 0
  else if 0x280000 ≤ off ∧ off < 0x291000 then
    let c := s.cluster ((off - 0x280000) / 0x1000)
    let e := off % 0x1000 / 64
    ((c.mbox[(e + 64 - c.head) % 64]?).bind (fun m => m.words[off % 64 / 8]?)).getD 0
  else if 0x220000 ≤ off ∧ off < 0x220000 + 17 * 0x40 then (s.cluster ((off - 0x220000) / 0x40)).cmcRead (Config.freeNat s.fresh) (off % 0x40)
  else if 0x200000 ≤ off ∧ off < 0x200000 + 260 * 0x40 then
    let u := s.unit ((off - 0x200000) / 0x40)
    if off % 0x40 = 0 then u.rotNext.getD u.rot else if off % 0x40 = 8 then u.slotcfg else 0
  else if 0x210000 ≤ off ∧ off < 0x210080 then (s.part ((off - 0x210000) / 8)).budget
  else if 0x10000 ≤ off ∧ off < 0x14000 then
    w64 (nsum ((List.range 64).map (fun i => if s.sharing.contains ((off - 0x10000) * 8 + i) then 2 ^ i else 0)))
  else if 0x240100 ≤ off ∧ off < 0x240180 then
    let c := s.cluster ((off - 0x240100) / 8)
    w64 (pulsePattern c.k * 2 ^ 24 + c.ktherm * 2 ^ 16 + c.kgrant * 256 + c.kreq)
  else if 0x240200 ≤ off ∧ off < 0x240280 then
    let c := s.cluster ((off - 0x240200) / 8)
    w64 (c.allow * 2 ^ 48 + c.pmax * 2 ^ 32 + c.borrow * 2 ^ 16 + c.lst)
  else if 0x240600 ≤ off ∧ off < 0x240620 then mget s.cascDst ((off - 0x240600) / 8) 0
  else if 0x240800 ≤ off ∧ off < 0x240800 + 260 * 8 then w64 (min (s.unit ((off - 0x240800) / 8)).temp 255)
  else if 0x242000 ≤ off ∧ off < 0x244000 then
    w64 (nsum ((List.range 64).map (fun i => if s.retRec.contains ((off - 0x242000) * 8 + i) then 2 ^ i else 0)))
  else if 0x250000 ≤ off ∧ off < 0x250080 then
    let p := (off - 0x250000) / 8
    w64 ((if (s.part p).pst = 2 then 2 ^ 63 else 0) + (s.part p).pcmd * 2 ^ 60 + (s.part p).pst * 2 ^ 58 + s.bimg p * 2 ^ 47 + b2n (s.part p).en)
  else match off with
    | 0x200 => s.mempwr
    | 0x240000 => s.island.ctl
    | 0x240008 => w64 s.island.wakeReq
    | 0x240010 => w64 s.island.wakeIss
    | 0x240018 => w64 (s.island.div * 65536 + s.island.stbyIdle)
    | 0x240300 => s.slew
    | 0x240308 => s.phase0
    | 0x240310 => s.phase1
    | 0x240400 => s.therm
    | 0x240500 => s.migReg
    | 0x240508 => w64 s.migTmo
    | 0x260000 => s.linkcfg
    | 0x260008 => s.lroute
    | 0x270000 => w64 (s.bootStage * 256 + s.bootErr)
    | _ => 0

/-- A 64-bit read of a register block by physical address (R36, R37). -/
def State.regRead (s : State) (pa : Nat) : Word :=
  if pa < 0x7F0001000000 then s.partRead ((pa - 0x7F0000000000) / 0x100000) (pa % 0x100000)
  else s.devRead (pa - 0x7F0001000000)

/-- The cluster whose ERRCNT stands at an offset of the device register block (R370). -/
def errcntAt (off : Nat) : Option Nat :=
  if 0x220000 ≤ off ∧ off < 0x220000 + 17 * 0x40 ∧ off % 0x40 = 0x20 then some ((off - 0x220000) / 0x40) else none

/-- What a read does to the register it reads: ERRCNT's counts return to zero (R7, R370), and the next free value is used next. -/
def State.regReadAfter (s : State) (pa : Nat) : State :=
  match errcntAt (pa - 0x7F0001000000) with
  | some cl => s.bump.modCluster cl (fun x => { x with link := 0, corr := 0, rply := 0 })
  | none => s

end Sys2Proof.Machine
end

