-- ==== Sys2Proof/Machine/Memory.lean ====
section
/-! DEFINITION. Scalar loads, stores, the load-data queue, full/empty operations, atomics, FENCE and DRAIN (R207 to R219). -/

namespace Sys2Proof.Machine

/-- An od field's acquire half: .acq or .ar on a read. -/
def odAcq (e : BitVec 2) : Bool := e.toNat == 1 || e.toNat == 3
/-- An od field's release half: .rel or .ar. -/
def odRel (e : BitVec 2) : Bool := e.toNat == 2 || e.toNat == 3

/-- Waits as .ar asks before a read (R311), for a scope (R313). -/
def arWait (c e : BitVec 2) : M Unit := if e.toNat = 3 then relWaitIn c.toNat else pure ()

/-- Waits as .rel or .ar asks before a write (R311), for a scope (R313). -/
def odWait (c e : BitVec 2) : M Unit := if odRel e then relWaitIn c.toNat else pure ()

/-- A scalar load (R207, R208): address, alignment, translation, then the value by R306; a register block answers LD64 only. -/
def load (d a : BitVec 5) (c e : BitVec 2) (o : BitVec 10) (n : Nat) (sg : Bool) : M Unit := do
  needS a
  needD d
  let x ← rdS a
  let va := scalarAddr x o n
  aligned va n
  arWait c e
  let loc ← home va accR n false
  let s ← get
  if isRegBlock loc then do
    if n = 8 then do
      relWait
      set (s.regReadAfter loc)
      wrS d (s.regRead loc)
    else trapAt 0x05 va 7 (Nat.log2 n)
  else if isRemote (s.unitOf s.cur) loc then do
    let v ← blocking { ctx := s.cur, loc := loc, op := .load n sg, rd := d.toNat, va := va, insn := s.insn }
    wrS d v
  else do
    let bs ← readNear va loc n (!odAcq e)
    wrS d (if sg then signExt (ofBytes bs) (8 * n) else w64 (ofBytes bs))

def execLd8 (d a : BitVec 5) (c e : BitVec 2) (o : BitVec 10) (s : State) := runInstr (.ld8 d a c e o) (load d a c e o 1 true) s
def execLd8u (d a : BitVec 5) (c e : BitVec 2) (o : BitVec 10) (s : State) := runInstr (.ld8u d a c e o) (load d a c e o 1 false) s
def execLd16 (d a : BitVec 5) (c e : BitVec 2) (o : BitVec 10) (s : State) := runInstr (.ld16 d a c e o) (load d a c e o 2 true) s
def execLd16u (d a : BitVec 5) (c e : BitVec 2) (o : BitVec 10) (s : State) := runInstr (.ld16u d a c e o) (load d a c e o 2 false) s
def execLd32 (d a : BitVec 5) (c e : BitVec 2) (o : BitVec 10) (s : State) := runInstr (.ld32 d a c e o) (load d a c e o 4 true) s
def execLd32u (d a : BitVec 5) (c e : BitVec 2) (o : BitVec 10) (s : State) := runInstr (.ld32u d a c e o) (load d a c e o 4 false) s
def execLd64 (d a : BitVec 5) (c e : BitVec 2) (o : BitVec 10) (s : State) := runInstr (.ld64 d a c e o) (load d a c e o 8 false) s

/-- A scalar store (R209, R213): the checks of issue, then a store-buffer entry. -/
def store (d a : BitVec 5) (c e : BitVec 2) (o : BitVec 10) (n : Nat) (full : Bool) : M Unit := do
  needS a
  let y ← rdS d
  let x ← rdS a
  let va := scalarAddr x o n
  let data := w64 (y.toNat % 2 ^ (8 * n))
  withData data (aligned va n)
  let (loc, rs) ← withData data (storeHome va n)
  let _ ← enterStore
    { id := 0, ctx := 0, pc := 0, size := Nat.log2 n, setFull := full, rel := odRel e, ar := e.toNat == 3, sc := c.toNat, rs := rs
      pieces := [{ va := va, loc := loc, n := n, data := y.toNat % 2 ^ (8 * n) }] }
  pure ()

def execSt8 (d a : BitVec 5) (c e : BitVec 2) (o : BitVec 10) (s : State) := runInstr (.st8 d a c e o) (store d a c e o 1 false) s
def execSt16 (d a : BitVec 5) (c e : BitVec 2) (o : BitVec 10) (s : State) := runInstr (.st16 d a c e o) (store d a c e o 2 false) s
def execSt32 (d a : BitVec 5) (c e : BitVec 2) (o : BitVec 10) (s : State) := runInstr (.st32 d a c e o) (store d a c e o 4 false) s
def execSt64 (d a : BitVec 5) (c e : BitVec 2) (o : BitVec 10) (s : State) := runInstr (.st64 d a c e o) (store d a c e o 8 false) s
def execStff (d a : BitVec 5) (c e : BitVec 2) (o : BitVec 10) (s : State) := runInstr (.stff d a c e o) (store d a c e o 8 true) s

/-- LDQ (R212). -/
def execLdq (p : BitVec 3) (a : BitVec 5) (o : BitVec 10) (s : State) :=
  runInstr (.ldq p a o) (do
    needS a
    let port ← getPort p.toNat
    trapIf (port.kind != 1) 0x06
    let x ← rdS a
    let va := scalarAddr x o 8
    aligned va 8
    parkUnless (port.ldq.length < 8) wQueue
    let loc ← home va accR 8 false
    if isRegBlock loc then trapAt 0x05 va 7 3 else
    modify (fun s => ({ s with ids := s.ids + 1 } : State).modCtx s.cur (fun x =>
      { x with ports := mset x.ports p.toNat { port with ldq := port.ldq ++ [{ id := s.ids, loc := loc, va := va, inH := x.inHandler }] } }))) s

/-- LDFE, LDFF and STEF (R213): blocking, full/empty checked; a register block is cause 0x05. -/
def feOp (base : Word) (c e : BitVec 2) (o : BitVec 10) (k : Acc) (op : MemOp) (data : Word) (rd : Nat) : M Word := withData data do
  let va := scalarAddr base o 8
  aligned va 8
  odWait c e
  let loc ← home va k 8 false
  if isRegBlock loc then trapAt 0x05 va 7 3 else do
    let s ← get
    blocking { ctx := s.cur, loc := loc, op := op, data := data, rd := rd, va := va, insn := s.insn }

def execLdfe (d a : BitVec 5) (c e : BitVec 2) (o : BitVec 10) (s : State) :=
  runInstr (.ldfe d a c e o) (do needS a; needD d; let x ← rdS a; let v ← feOp x c e o accFW .ldfe 0 d.toNat; wrS d v) s
def execLdff (d a : BitVec 5) (c e : BitVec 2) (o : BitVec 10) (s : State) :=
  runInstr (.ldff d a c e o) (do needS a; needD d; let x ← rdS a; let v ← feOp x c e o accFR .ldff 0 d.toNat; wrS d v) s
def execStef (d a : BitVec 5) (c e : BitVec 2) (o : BitVec 10) (s : State) :=
  runInstr (.stef d a c e o) (do needS a; let y ← rdS d; let x ← rdS a; let _ ← feOp x c e o accFW .stef y 0; pure ()) s

/-- AMO (R216, R217): CAS also reads rd first (R69). -/
def amo (opa : Nat) (d a b : BitVec 5) (c e : BitVec 2) (n : Nat) : M Unit := do
  needS a
  needS b
  if opa = 9 then needS d else needD d
  let x ← rdS a
  let y ← rdS b
  let z ← if opa = 9 then rdS d else pure 0
  let v ← withData (w64 (y.toNat % 2 ^ (8 * n))) do
    aligned x n
    odWait c e
    let loc ← home x accFW n false
    if isRegBlock loc then trapAt 0x05 x 7 (Nat.log2 n) else do
      let s ← get
      blocking { ctx := s.cur, loc := loc, op := .amo opa n, data := y, cmp := z, rd := d.toNat, va := x, insn := s.insn }
  wrS d v

/-- The access size of an AMO's W bit (R216). -/
def amoSize (w : BitVec 1) : Nat := if w.toNat = 1 then 8 else 4

def execAmoadd (d a b : BitVec 5) (c e : BitVec 2) (w : BitVec 1) (s : State) := runInstr (.amoadd d a b c e w) (amo 0 d a b c e (amoSize w)) s
def execAmoand (d a b : BitVec 5) (c e : BitVec 2) (w : BitVec 1) (s : State) := runInstr (.amoand d a b c e w) (amo 1 d a b c e (amoSize w)) s
def execAmoor (d a b : BitVec 5) (c e : BitVec 2) (w : BitVec 1) (s : State) := runInstr (.amoor d a b c e w) (amo 2 d a b c e (amoSize w)) s
def execAmoxor (d a b : BitVec 5) (c e : BitVec 2) (w : BitVec 1) (s : State) := runInstr (.amoxor d a b c e w) (amo 3 d a b c e (amoSize w)) s
def execAmomin (d a b : BitVec 5) (c e : BitVec 2) (w : BitVec 1) (s : State) := runInstr (.amomin d a b c e w) (amo 4 d a b c e (amoSize w)) s
def execAmomax (d a b : BitVec 5) (c e : BitVec 2) (w : BitVec 1) (s : State) := runInstr (.amomax d a b c e w) (amo 5 d a b c e (amoSize w)) s
def execAmominu (d a b : BitVec 5) (c e : BitVec 2) (w : BitVec 1) (s : State) := runInstr (.amominu d a b c e w) (amo 6 d a b c e (amoSize w)) s
def execAmomaxu (d a b : BitVec 5) (c e : BitVec 2) (w : BitVec 1) (s : State) := runInstr (.amomaxu d a b c e w) (amo 7 d a b c e (amoSize w)) s
def execAmoswap (d a b : BitVec 5) (c e : BitVec 2) (w : BitVec 1) (s : State) := runInstr (.amoswap d a b c e w) (amo 8 d a b c e (amoSize w)) s
def execAmocas (d a b : BitVec 5) (c e : BitVec 2) (w : BitVec 1) (s : State) := runInstr (.amocas d a b c e w) (amo 9 d a b c e (amoSize w)) s
def execAmofadd32 (d a b : BitVec 5) (c e : BitVec 2) (s : State) := runInstr (.amofadd32 d a b c e) (amo 10 d a b c e 4) s
def execAmobfadd2 (d a b : BitVec 5) (c e : BitVec 2) (s : State) := runInstr (.amobfadd2 d a b c e) (amo 11 d a b c e 4) s

/-! ### FENCE and DRAIN (R218, R219) -/

/-- Whether a context has engine commands accepted or on their way that have not ended (R157, R218): a remote command on its way counts
for a living context of this device alone. -/
def State.enginesBusy (s : State) (c : Nat) : Bool :=
  s.allCmds.any (fun uk => uk.2.issuer == c) ||
    s.units.any (fun e => e.2.rcq.any (fun r => r.d.sender == c && r.d.dev == s.devNo && !r.d.orphan)) ||
    s.pkts.any (fun p => match p.body with | .delivery d => d.sender == c && d.dev == s.devNo && !d.orphan && (match d.kind with | .mcmd _ _ _ => true | _ => false) | _ => false)

/-- FENCE's conditions (R218, R312): g is rr, rw, wr, ww from bit 3 down, x is XD. A VSCADD counts as an atomic operation (R243). -/
def State.fenceOk (s : State) (c : Nat) (g : BitVec 4) (x : BitVec 1) : Bool :=
  let loads := (s.ctx c).ldqOut.isEmpty && (s.ownStores c).all (fun e => e.rs == 2 || e.pieces.all (fun p => p.add.isNone))
  let stores := (s.ownStores c).all (fun e => e.rs == 2)
  let sib := !(s.unit (s.unitOf c)).sb.any (fun e => (s.dirE c).sibRead.contains e.id)
  (!(bit g 3 || bit g 2) || loads) && (!(bit g 1 || bit g 0) || (stores && sib)) &&
    (x.toNat == 0 || (stores && !s.enginesBusy c))

/-- A FENCE without XD whose scope holds no agent but its context waits for no store; what is still pending is ordered against
later accesses as soon as the scope gains an agent (R312, R313, R218). -/
def State.fencePasses (s : State) (c : Nat) (g : BitVec 4) (x : BitVec 1) (sc : Nat) : Bool :=
  x.toNat == 0 && s.fenceOk c (g &&& 0xC) x && s.scopeAlone (s.unitOf c) c sc

/-- FENCE is of the ordering class: a task may wait for it as for back-pressure (R349 names no wait of it). -/
def execFence (g : BitVec 4) (x : BitVec 1) (c : BitVec 2) (s : State) :=
  runInstr (.fence g x c) (do
    let s ← get
    if s.fenceOk s.cur g x then pure () else do
      stallUnless (s.fencePasses s.cur g x c.toNat) wOrder
      modD (fun d => { d with fenced := some (max c.toNat ((d.fenced.map (·.1)).getD 0), s.ids) })) s

/-- DRAIN's conditions (R219): stores performed or recorded, LDQ entries arrived, deliveries and remote commands
acknowledged (R264), dispatch-queue stores performed. -/
def State.drainOk (s : State) (c : Nat) : Bool :=
  (s.ownStores c).isEmpty && (s.ctx c).ldqOut.isEmpty && (s.dirE c).unacked == 0

/-- Waits as DRAIN waits (R219). -/
def drainWait : M Unit := do
  let s ← get
  stallUnless (s.drainOk s.cur) wOrder

/-- DRAIN: while its context has issued nothing since, what still waits to be taken is taken behind it. -/
def execDrain (s : State) :=
  runAs ((encode .drain).getD 0) (fun t => (t.retire false).modDir t.cur (fun d => { d with drained := true })) drainWait s

end Sys2Proof.Machine
end

