-- ==== Sys2Proof/Machine/Csr.lean ====
section
/-! DEFINITION. Control registers (R174, R175, R380, R415, R434) and queue-port binding (R171 to R173). -/

namespace Sys2Proof.Machine

/-! ### What a control register reads as (R174, R380, R415) -/

/-- lum.base: the count of valid entries and the highest logical cluster with one (R174). -/
def State.lumBase (s : State) (p : Nat) : Word :=
  let v := (List.range 512).filter (fun n => bit (s.lumEntry p n) 31)
  w64 (v.length * 65536 + (v.getLast?.getD 0) / 16)

/-- The request pending for a physical unit: 0 none, 1 island, 2 thermal, 3 forced (R415). -/
def State.migPending (s : State) (u : Nat) : Nat :=
  ((s.migs.find? (fun m => m.src == u && !m.honoured)).map (·.kind)).getD 0

/-- ovr.info (R434). -/
def Ovr.info (o : Ovr) : Word :=
  if o.v then w64 (2 ^ 63 + o.count % 65536 * 2 ^ 40 + o.cls % 8 * 2 ^ 36 + o.idx % 64 * 2 ^ 30 + o.sender % 2 ^ 22) else 0

/-- The value a CSRR of register `n` writes for a context. -/
def State.csrRead (s : State) (c n : Nat) : Word :=
  let x := s.ctx c
  let d := s.dirE c
  let u := s.unitOf c
  if 0x58 ≤ n ∧ n ≤ 0x77 then
    if x.ovr.v then (x.ovr.val >>> (64 * (n - 0x58))).setWidth 64 else 0
  else match n with
    | 0x000 => w64 (s.ctxId c)
    | 0x001 => (match d.place with | .slot _ sl => w64 sl | _ => 0)
    | 0x002 => w64 (d.home * 2 ^ 32 + u)
    | 0x003 => w64 x.grp
    | 0x004 => s.lumBase d.part
    | 0x011 => x.csrGet 0x11 ||| w64 d.flagsAcc
    | 0x038 => w64 (s.unit u).cyc
    | 0x039 => w64 s.time
    | 0x050 => x.ovr.info
    | 0x103 =>
      let q := (s.unit u).sfq
      w64 ((q.filter (fun r => r.ctx == c)).length * 256 + q.length)
    | 0x104 =>
      w64 (min (s.unit u).temp 255 * 2 ^ 32 + (s.cluster (clusterOf u)).k * 65536 + s.migPending u * 64 + s.island.st * 16 +
        b2n d.bound * 8 + b2n (isCroft u))
    | _ => x.csrGet n

/-- The RW bits of a control register (R93, R94, R168, R365, R380 and chapter 11). -/
def csrMask (n : Nat) : Word :=
  match n with
  | 0x10 => 0xFFFF008F
  | 0x11 => 0x3F
  | 0x20 => 0xFFFFFFFF
  | 0x21 => 0xFFFFFFFF
  | 0x22 => 0xFFFFFFFF
  | 0x28 => 0x7FFF8
  | 0x29 => 0xFFFF0000
  | 0x30 => ~~~2
  | 0x40 => 0xFFFFFFFF
  | 0x41 => 0xFFFFFFFF
  | 0x100 => 0xFFFFFFFF
  | 0x102 => ~~~0x3F
  | 0x18 => BitVec.allOnes 64
  | 0x19 => BitVec.allOnes 64
  | 0x101 => BitVec.allOnes 64
  | _ => 0

/-- R95: whether the context's earlier work still has flags to accrue. -/
def State.flagsDue (s : State) (c : Nat) : Bool := !(s.ctx c).dq.isEmpty || s.enginesBusy c

/-- The accrual of flags from finished engine work into fp.flags (R95). -/
def State.syncFlags (s : State) (c : Nat) : State :=
  (s.modCtx c (fun x => x.accrue (s.dirE c).flagsAcc)).modDir c (fun d => { d with flagsAcc := 0 })

/-- The wait of R95 before fp.flags is read or written. -/
def flagsWait (n : Nat) : M Unit := do
  if n = 0x11 then do
    let s ← get
    stallUnless (!s.flagsDue s.cur) wOrder
    modify (fun s => s.syncFlags s.cur)
  else pure ()

/-- The privilege check of R72. -/
def privCheck (n : Nat) : M Unit := do
  let x ← getC
  trapIf (csrPrivileged n && !x.sup) 0x04

def execCsrr (d : BitVec 5) (n : BitVec 14) (s : State) :=
  runInstr (.csrr d n) (do
    privCheck n.toNat
    needD d
    flagsWait n.toNat
    let s ← get
    wrS d (s.csrRead s.cur n.toNat)) s

/-- A write of a control register's RW and W1C fields (R175, R434). -/
def Ctx.csrWrite (x : Ctx) (n : Nat) (v : Word) : Ctx :=
  if n = 0x50 then (if bit v 63 then { x with ovr := {} } else x)
  else x.csrSet n ((x.csrGet n &&& ~~~csrMask n) ||| (v &&& csrMask n))

def execCsrw (a : BitVec 5) (n : BitVec 14) (s : State) :=
  runInstr (.csrw a n) (do
    privCheck n.toNat
    let v ← rdS a
    flagsWait n.toNat
    modC (fun x => x.csrWrite n.toNat v)) s

/-! ### Queue ports (R171 to R173) -/

/-- Binds a port; its earlier binding goes first, with the entries of a load-data queue (R173). -/
def bindPort (p : Nat) (q : Port) : M Unit := modC (fun x => { x with ports := mset x.ports p q })

/-- The entries of a load-data queue that end when the port is unbound; queues of rings and directions keep theirs. -/
def execQbindUn (p : BitVec 3) (s : State) :=
  runInstr (.qbindUn p) (bindPort p.toNat {}) s
def execQbindLd (p : BitVec 3) (s : State) :=
  runInstr (.qbindLd p) (bindPort p.toNat { kind := 1 }) s

/-- Whether another context of the unit holds a network queue, in its image if it is saved (R171). -/
def State.dirTaken (s : State) (c u kind dir : Nat) : Bool :=
  s.dir.any (fun e => e.1 != c && e.2.st == 1 && s.unitOf e.1 == u && (s.portsOf e.1).any (fun p => p.1 == kind && p.2.1 == dir))

/-- Binds a network queue of the unit (R171). -/
def bindNet (p kind dir : Nat) : M Unit := do
  let s ← get
  let u := s.unitOf s.cur
  trapIf ((neighbour u dir).isNone || s.dirTaken s.cur u kind dir) 0x06
  bindPort p { kind := kind, dir := dir }

def execQbindTx (p : BitVec 3) (e : BitVec 2) (s : State) := runInstr (.qbindTx p e) (bindNet p.toNat 2 e.toNat) s
def execQbindRx (p : BitVec 3) (e : BitVec 2) (s : State) := runInstr (.qbindRx p e) (bindNet p.toNat 3 e.toNat) s

def execQbindRr (p : BitVec 3) (a : BitVec 5) (s : State) :=
  runInstr (.qbindRr p a) (do
    let x ← rdS a
    trapIf (8 ≤ bits x 5 0) 0x06
    bindPort p.toNat { kind := 4, ring := bits x 5 0 }) s

/-- Entries that can be popped from and pushed to a port now (R173). -/
def State.portCounts (s : State) (u p : Nat) (q : Port) : Nat × Nat :=
  match q.kind with
  | 1 => (((q.ldq.takeWhile (·.arrived)).length), 0)
  | 2 => (0, match neighbour u q.dir with | some v => 16 - s.rxUsed v (opposite q.dir) | none => 0)
  | 3 => ((mget (s.unit u).rxq q.dir []).length, 0)
  | 4 =>
    let r := s.ring u q.ring
    if r.usable p then (if r.frozen then 0 else r.q.length, ringCap - r.q.length) else (0, 0)
  | _ => (0, 0)

/-- QSTAT's value: the counts saturate at the 8-bit fields (R173). -/
def State.qstatWord (s : State) (u p : Nat) (q : Port) : Word :=
  let (used, free) := s.portCounts u p q
  w64 (q.kind * 2 ^ 61 + (if q.kind == 2 || q.kind == 3 then q.dir else 0) * 2 ^ 59 + min free 255 * 256 + min used 255)

def execQstat (d : BitVec 5) (p : BitVec 3) (s : State) :=
  runInstr (.qstat d p) (do
    needD d
    let q ← getPort p.toNat
    let s ← get
    wrS d (s.qstatWord (s.unitOf s.cur) (s.dirE s.cur).part q)) s

/-! ### The device's own steps on control registers -/

/-- FP_FLAGS_SYNC (R95): earlier work has ended, and its flags stand in fp.flags. -/
def execFpFlagsSync (s : State) :=
  runEvent (do
    let s ← get
    enabled (!s.flagsDue s.arg.n0 && (mfind s.ctxs s.arg.n0).isSome)
    set (s.syncFlags s.arg.n0)) s

/-- OVR_INFO_CLEAR (R434): the write of ovr.info with bit 63 set. -/
def execOvrInfoClear (s : State) :=
  runEvent (do
    let s ← get
    enabled (mfind s.ctxs s.arg.n0).isSome
    set (s.modCtx s.arg.n0 (fun x => x.csrWrite 0x50 (w64 (2 ^ 63))))) s

end Sys2Proof.Machine
end

