-- ==== Sys2Proof/Machine/Image.lean ====
section
/-! DEFINITION. The context image (R373, R374): what a save writes, what a restore reads, and the fabric's writes into it. -/

namespace Sys2Proof.Machine

/-- The size of an image (R373). -/
def imgSize : Nat := 20480

/-! ### Writing (R373, R374) -/

/-- Zero bytes. -/
def zeros (n : Nat) : List Byte := List.replicate n 0

/-- The first `n` entries of a file of registers, each of `sz` bytes. -/
def fileBytes (n sz : Nat) (f : Nat → Nat) : List Byte := (List.range n).flatMap (fun i => toBytes sz (f i))

/-- The numbers of the control registers in the image's order (R374). -/
def imgCsrs : List Nat :=
  [0x10, 0x11, 0x18, 0x19, 0x20, 0x21, 0x22, 0x28, 0x29, 0x30, 0x31, 0x40, 0x41, 0x100, 0x101, 0x102]

/-- The resident windows, oldest first, the current one last (R373). -/
def Ctx.winList (x : Ctx) : List Win := x.wins.reverse ++ [x.asWin]

/-- A port's doubleword (R373). -/
def Port.word (q : Port) : Nat :=
  let marks := q.ldq.zipIdx
  q.kind * 2 ^ 61 + (if q.kind == 2 || q.kind == 3 then q.dir * 2 ^ 59 else 0) +
    nsum (marks.map (fun e => if e.1.mark == 0x43 then 2 ^ (40 + e.2) else 0)) +
    nsum (marks.map (fun e => if e.1.mark != 0 then 2 ^ (32 + e.2) else 0)) +
    q.ldq.length * 256 + (if q.kind == 4 then q.ring else 0)

/-- INFO of a record (R363), without NREC and IMP, which are as when it is taken. -/
def Rec.info (r : Rec) (id : Nat) : Nat :=
  id * 2 ^ 32 + r.orig % 128 * 2 ^ 17 + r.size % 8 * 2 ^ 14 + r.level % 8 * 2 ^ 11 + r.kind % 8 * 2 ^ 8 + 128 + r.cause % 128

/-- A pending record: doublewords 0 to 2, and AUX in place of the fourth (R373). -/
def Rec.bytes (r : Rec) (id : Nat) : List Byte :=
  toBytes 8 (r.info id) ++ toBytes 8 r.pc.toNat ++ toBytes 8 r.addr.toNat ++ toBytes 8 r.aux.toNat

/-- SFLG (R374). -/
def Ctx.sflg (x : Ctx) (valid : Bool) : Nat :=
  b2n valid + 2 * b2n x.sup + 4 * b2n x.frozen + 8 * b2n x.held + 16 * b2n x.task.active

/-- The image of a context, with its directory entry, number and pending records (R373, R374). -/
def Ctx.image (x : Ctx) (d : Dir) (id : Nat) (pend : List Rec) (valid : Bool) : List Byte :=
  let x := x.accrue d.flagsAcc
  let header := toBytes 4 1 ++ toBytes 4 id ++ toBytes 2 d.home ++ toBytes 1 d.prio ++ toBytes 1 (x.sflg valid) ++
    toBytes 2 x.grp ++ toBytes 2 x.asn ++ toBytes 8 x.pc.toNat ++ toBytes 8 d.gens.toNat ++ toBytes 4 x.ckseq ++
    toBytes 1 x.resident ++ toBytes 1 pend.length ++ zeros 26
  let control := imgCsrs.flatMap (fun n => toBytes 8 (x.csrGet n).toNat) ++ fileBytes 4 8 (fun i => (x.csrGet (8 + i)).toNat) ++
    toBytes 8 x.wdcnt ++ toBytes 8 x.lcka.toNat ++ toBytes 8 x.ckdue ++ toBytes 8 d.xfail.toNat ++ zeros 64
  let trap := fileBytes 8 8 (fun i => (x.trec.getD i 0).toNat)
  let (br, bp) := x.barr.getD (0, 0)
  let task := toBytes 8 (if x.task.active then x.task.pkt.toNat else 0) ++ toBytes 1 (x.task.ring + 128 * b2n x.task.opcall) ++
    toBytes 1 x.task.chain.length ++ toBytes 1 (br + 8 * b2n x.barr.isSome) ++ toBytes 1 bp ++ zeros 4 ++
    toBytes 8 x.task.opcPc.toNat ++ fileBytes 10 2 (fun i => x.task.chain.getD i 0) ++ toBytes 2 x.task.meth ++ zeros 18
  let wins := x.winList
  let regs := fileBytes 8 8 (fun i => (x.s i).toNat) ++
    (List.range 4).flatMap (fun w => fileBytes 16 8 (fun i => (mget ((wins.getD w {}).regs) (8 + i) 0).toNat)) ++
    fileBytes 8 8 (fun i => (x.s (24 + i)).toNat)
  let fe := toBytes 8 (bits x.sFull 7 0 / 2 * 2) ++ fileBytes 4 2 (fun w => if w < wins.length then (wins.getD w {}).full.toNat else 0) ++
    toBytes 8 (bits x.sFull 31 24) ++ toBytes 8 x.mFull.toNat ++ toBytes 8 x.vFull.toNat ++
    toBytes 8 (x.aFull.toNat + 256 * x.aInt.toNat) ++ zeros 16
  let files := fileBytes 16 8 (fun i => (mget x.mreg i 0).toNat) ++ fileBytes 8 32 (fun i => (x.k i).toNat) ++
    fileBytes 4 32 (fun i => (mget x.cb i 0).toNat) ++ fileBytes 16 64 (fun i => (mget x.hreg i 0).toNat)
  let dq := (List.range 4).flatMap (fun i => match x.dq[i]? with
    | some e => toBytes 4 e.word.toNat ++ toBytes 1 (e.scalars.length + 128) ++ zeros 3 ++ fileBytes 3 8 (fun j => (e.scalars.getD j 0).toNat)
    | none => zeros 32)
  let ovr := toBytes 4 (x.ovr.sender + 2 ^ 31 * b2n x.ovr.v) ++ toBytes 1 x.ovr.cls ++ toBytes 1 x.ovr.idx ++ toBytes 2 x.ovr.count ++
    zeros 8 ++ toBytes 256 x.ovr.val.toNat ++ zeros 48
  let ports := fileBytes 8 8 (fun p => (mget x.ports p {}).word) ++
    (List.range 8).flatMap (fun p => fileBytes 8 8 (fun e => (((mget x.ports p {}).ldq[e]?).map (·.val.toNat)).getD 0))
  let pends := (pend.take 8).flatMap (fun r => r.bytes id) ++ zeros ((8 - (pend.take 8).length) * 32)
  header ++ control ++ trap ++ task ++ regs ++ fe ++ files ++ dq ++ ovr ++ ports ++ pends ++ zeros 128 ++
    fileBytes 32 256 (fun i => (x.v i).toNat) ++ fileBytes 8 1024 (fun i => (mget x.areg i 0).toNat)

/-! ### Reading (R374, R375) -/

/-- The value of `n` bytes of an image at an offset. -/
def imgAt (b : List Byte) (off n : Nat) : Nat := ofBytes ((b.drop off).take n)

/-- The nonzero registers of a file in an image. -/
def imgFile {w : Nat} (b : List Byte) (off n sz : Nat) : Map (BitVec w) :=
  (List.range n).filterMap (fun i => let v := imgAt b (off + sz * i) sz; if v = 0 then none else some (i, BitVec.ofNat w v))

/-- The reserved byte ranges of an image (R373, R374). -/
def imgReserved : List (Nat × Nat) :=
  [(0x26, 26), (0x100, 64), (0x18C, 4), (0x1AE, 18), (0x470, 16), (0xB08, 8), (0xC10, 48), (0xF80, 128)]

/-- The defined bits of a control register in an image (R374). -/
def imgCsrMask (n : Nat) : Word := if n = 0x29 then 0xFFFFFFFF else if n = 0x31 then 0x17F else csrMask n

/-- Words of an image of which only some bits are defined: offset, bytes, defined bits (R363, R373, R374). -/
def imgMasks : List (Nat × Nat × Nat) :=
  imgCsrs.zipIdx.map (fun e => (0x40 + 8 * e.2, 8, (imgCsrMask e.1).toNat)) ++
    [(0x18, 8, 2 ^ 36 - 1), (0x140, 8, 2 ^ 54 - 1), (0x188, 1, 0x87), (0x18A, 1, 0xF), (0x440, 8, 0xFE), (0x450, 8, 0xFF), (0x458, 8, 0xFFFF),
      (0x460, 8, 2 ^ 32 - 1), (0x468, 8, 0xFFFF), (0xB00, 4, 0x803FFFFF), (0xB04, 1, 0x7), (0xB05, 1, 0x3F)] ++
    (List.range 4).map (fun i => (0xA84 + 32 * i, 4, 0x83)) ++
    (List.range 8).map (fun p => (0xC40 + 8 * p, 8, 0xF800FFFF00000F3F))

/-- Whether an image holds what it may hold besides VALID (R130, R375): IFMT, no reserved byte or bit set, fields in range. -/
def imgForm (b : List Byte) : Bool :=
  imgAt b 0 4 == 1 && imgAt b 0xB 1 < 32 && imgAt b 0xA 1 < 8 && imgAt b 0xE 2 < 4096 && imgAt b 8 2 < 512 &&
    imgAt b 4 4 < 2 ^ 22 && imgAt b 0x10 8 % 4 == 0 && 1 ≤ imgAt b 0x24 1 && imgAt b 0x24 1 ≤ 4 && imgAt b 0x25 1 ≤ 8 && imgAt b 0x189 1 ≤ 10 &&
    (List.range 16).all (fun i => imgAt b (0x680 + 64 * i + 52) 12 == 0) && imgReserved.all (fun r => imgAt b r.1 r.2 == 0) && imgMasks.all (fun m => Nat.land (imgAt b m.1 m.2.1) m.2.2 == imgAt b m.1 m.2.1) &&
    (List.range 8).all (fun p => let q := imgAt b (0xC40 + 8 * p) 8; q / 2 ^ 61 ≤ 4 && q / 256 % 16 ≤ 8 && q % 64 < 8) &&
    (List.range (imgAt b 0x25 1)).all (fun i => imgAt b (0xE80 + 32 * i) 8 < 2 ^ 54)

/-- VALID (R374). -/
def imgValid (b : List Byte) : Bool := imgAt b 0xB 1 % 2 == 1

/-- Whether an image can be restored (R375). -/
def imgOk (b : List Byte) : Bool := imgValid b && imgForm b

/-- The window `w` of an image. -/
def imgWin (b : List Byte) (w : Nat) : Win :=
  { regs := (imgFile (w := 64) b (0x200 + 128 * w) 16 8).map (fun e => (e.1 + 8, e.2)), full := BitVec.ofNat 16 (imgAt b (0x448 + 2 * w) 2) }

/-- The port `p` of an image; every entry of its load-data queue has arrived (R321). -/
def imgPort (b : List Byte) (p : Nat) : Port :=
  let q := imgAt b (0xC40 + 8 * p) 8
  { kind := q / 2 ^ 61, dir := q / 2 ^ 59 % 4, ring := q % 64
    ldq := (List.range (q / 256 % 16)).map (fun e =>
      { id := 0, loc := 0, arrived := true, val := w64 (imgAt b (0xC80 + 64 * p + 8 * e) 8)
        mark := if q / 2 ^ (32 + e) % 2 = 1 then (if q / 2 ^ (40 + e) % 2 = 1 then 0x43 else 0x42) else 0 }) }

/-- The task an image holds. What the device kept of it beside the image counts if it is the same task; else what the image does not
hold is found again when it is needed (R349, log 12). -/
def imgTask (b : List Byte) (t : Task) : Task :=
  if imgAt b 0xB 1 / 16 % 2 = 0 then {} else
  let pkt := w64 (imgAt b 0x180 8)
  let ring := imgAt b 0x188 1 % 8
  let opcall := imgAt b 0x188 1 / 128 == 1
  let chain := (List.range (imgAt b 0x189 1)).map (fun i => imgAt b (0x198 + 2 * i) 2)
  let meth := imgAt b 0x1AC 2
  let opcPc := w64 (imgAt b 0x190 8)
  if t.active && t.pkt == pkt && t.ring == ring && t.opcall == opcall && t.chain == chain && t.meth == meth && t.opcPc == opcPc then t
  else { active := true, pkt := pkt, ring := ring, opcall := opcall, chain := chain, meth := meth, opcPc := opcPc, lost := true }

/-- The context an image holds, with what the device keeps of it beside the image (log 12). -/
def ctxOfImage (b : List Byte) (d : Dir) : Ctx :=
  let n := imgAt b 0x24 1
  let fl := imgAt b 0xB 1
  let cur := imgWin b (n - 1)
  let csr := imgCsrs.zipIdx.map (fun e => (e.1, w64 (imgAt b (0x40 + 8 * e.2) 8))) ++
    (List.range 4).map (fun i => (8 + i, w64 (imgAt b (0xC0 + 8 * i) 8)))
  { sreg := (imgFile (w := 64) b 0x1C0 8 8).filter (fun e => e.1 != 0) ++ cur.regs ++
      (imgFile (w := 64) b 0x400 8 8).map (fun e => (e.1 + 24, e.2))
    sFull := BitVec.ofNat 32 (1 + imgAt b 0x440 1 / 2 * 2 + cur.full.toNat * 256 + imgAt b 0x450 1 * 2 ^ 24)
    wins := ((List.range (n - 1)).map (imgWin b)).reverse
    mreg := imgFile b 0x480 16 8, mFull := BitVec.ofNat 16 (imgAt b 0x458 2)
    vreg := imgFile b 0x1000 32 256, vFull := BitVec.ofNat 32 (imgAt b 0x460 4)
    kreg := (imgFile b 0x500 8 32).filter (fun e => e.1 != 0)
    areg := imgFile b 0x3000 8 1024, aFull := BitVec.ofNat 8 (imgAt b 0x468 1), aInt := BitVec.ofNat 8 (imgAt b 0x469 1)
    hreg := imgFile b 0x680 16 64, cb := imgFile b 0x600 4 32
    ports := (List.range 8).filterMap (fun p => let q := imgPort b p; if q.kind = 0 then none else some (p, q))
    pc := w64 (imgAt b 0x10 8), grp := imgAt b 0xC 2, asn := imgAt b 0xE 2, sup := fl / 2 % 2 == 1
    csr := csr.foldl (fun m e => mset m e.1 e.2) []
    ovr := { v := imgAt b 0xB03 1 / 128 == 1, sender := imgAt b 0xB00 4 % 2 ^ 22, cls := imgAt b 0xB04 1, idx := imgAt b 0xB05 1
             count := imgAt b 0xB06 2, val := BitVec.ofNat 2048 (imgAt b 0xB10 256) }
    dq := (List.range 4).filterMap (fun i =>
      let o := 0xA80 + 32 * i
      if imgAt b (o + 4) 1 / 128 = 1 then
        some { word := BitVec.ofNat 32 (imgAt b o 4), pc := d.dqPc.getD i (w64 (imgAt b 0x10 8) - 4), fmt := d.dqFmt.getD i (w64 (imgAt b 0x40 8))
               scalars := (List.range (imgAt b (o + 4) 1 % 8)).map (fun j => w64 (imgAt b (o + 8 + 8 * j) 8)) }
      else none)
    trec := (List.range 8).map (fun i => w64 (imgAt b (0x140 + 8 * i) 8))
    held := fl / 8 % 2 == 1, frozen := fl / 4 % 2 == 1
    task := imgTask b d.task
    barr := if imgAt b 0x18A 1 / 8 % 2 = 1 then some (imgAt b 0x18A 1 % 8, imgAt b 0x18B 1) else none
    wdcnt := imgAt b 0xE0 8, lcka := w64 (imgAt b 0xE8 8), ckdue := imgAt b 0xF0 8, ckseq := imgAt b 0x20 4 }

/-- The pending records of an image, oldest first; `h` says which come from the handler's work (R367, log 12). -/
def imgRecs (b : List Byte) (c : Nat) (h : List Bool) : List Rec :=
  (List.range (imgAt b 0x25 1)).map (fun i =>
    let o := 0xE80 + 32 * i
    let f := imgAt b o 8
    { ctx := c, cause := f % 128, kind := f / 2 ^ 8 % 8, orig := f / 2 ^ 17 % 128, size := f / 2 ^ 14 % 8, level := f / 2 ^ 11 % 8
      pc := w64 (imgAt b (o + 8) 8), addr := w64 (imgAt b (o + 16) 8), aux := w64 (imgAt b (o + 24) 8)
      inH := h.getD i false })

/-- An image's header with VALID 0 (R376, R387). -/
def headInvalid (h : List Byte) : List Byte := h.take 11 ++ [BitVec.ofNat 8 (imgAt h 0xB 1 / 2 * 2)] ++ (h.take 64).drop 12

/-! ### Where an image lies (R50, R378) -/

/-- The home of an image byte for a unit, or the level that a failure reached: its page must be pinned, no register block, and for a
write writable; A and D are set (R37, R49, R50, R378). A window address has no page (R44). -/
def State.imgLoc (s : State) (u p asn va : Nat) (write : Bool) : Except Nat Nat × State :=
  if isWindow (w64 va) then (.error 7, s) else
  match s.walk u p asn va with
  | (.fail l, s) => (.error l, s)
  | (.leaf l pte pa, s) =>
    let loc := bits pte 47 12 * 4096 + va % 2 ^ levelShift l
    let far := s.apertureOf loc
    if !bit pte 8 || (write && !bit pte 2) || isRegBlock loc || far.any s.portDown then (.error l, s) else
    let pte' := putBit (if write then putBit pte 6 true else pte) 5 true
    (.ok (match far with | some d => peerLoc d (loc % 2 ^ 38) | none => loc),
      if pte' = pte then s else ((s.touch pa).correct u pa 8).pokeRaw pa 8 pte'.toNat)

/-- Reads an image's bytes for a unit, block by block; a walk failure or an uncorrectable burst gives none (R33, R375, R383). -/
def State.readBlocks (s : State) (u p asn va : Nat) : Nat → Option (List Byte) × State
  | 0 => (some [], s)
  | n + 1 =>
    match s.imgLoc u p asn va false with
    | (.error _, s) => (none, s)
    | (.ok loc, s) =>
      let s := (s.touch loc).correct u loc 64
      if s.readErr loc 64 ≠ 0 then (none, s) else
      match s.readBlocks u p asn (va + 64) n with
      | (some l, t) => (some (memRead s.mem loc 64 ++ l), t)
      | (none, t) => (none, t)

/-- The whole image at an address. -/
def State.readImage (s : State) (u p asn : Nat) (va : Word) : Option (List Byte) × State := s.readBlocks u p asn va.toNat 320

/-- A write into an image that fails: the address and level (R378). -/
structure ImgFault where
  va : Nat
  level : Nat
deriving DecidableEq, Repr

/-- Writes one 64-byte block of an image: whole bursts, so no error stands in its way (R34). -/
def State.writeBlock (s : State) (u p asn va : Nat) (b : List Byte) : Except ImgFault State :=
  match s.imgLoc u p asn va true with
  | (.error l, _) => .error { va := va, level := l }
  | (.ok loc, s) => .ok (s.pokeBytes loc b)

/-- Writes those blocks of an image that differ from what the area held, the header last (R377). -/
def State.writeBlocks (s : State) (u p asn va : Nat) : List (Nat × List Byte) → Except ImgFault State
  | [] => .ok s
  | (o, b) :: l =>
    match s.writeBlock u p asn (va + o) b with
    | .error f => .error f
    | .ok s => s.writeBlocks u p asn va l

/-- The blocks of an image with their offsets. -/
def blocksOf : Nat → Nat → List Byte → List (Nat × List Byte)
  | 0, _, _ => []
  | n + 1, o, b => (o, b.take 64) :: blocksOf n (o + 64) (b.drop 64)

/-- Writes an image whole, header last (R377). -/
def State.writeImage (s : State) (u p asn : Nat) (va : Word) (b : List Byte) : Except ImgFault State :=
  let l := blocksOf 320 0 b
  s.writeBlocks u p asn va.toNat (l.tail ++ l.take 1)

/-! ### Saved contexts -/

/-- The image of a context that is in no save area. -/
def State.imageOf (s : State) (c : Nat) (pend : List Rec) (valid : Bool) : List Byte :=
  (s.ctx c).image (s.dirE c) (s.ctxId c) pend valid

/-- The address space a saved context's area is reached through: the ASN in force when it was placed there. -/
def State.saveAsn (s : State) (c : Nat) : Nat := (s.dirE c).saveAsn

/-- Reads the image of a context saved in DRAM. -/
def State.savedRead (s : State) (c : Nat) : Option (List Byte) × State := s.readImage (s.unitOf c) (s.dirE c).part (s.saveAsn c) (s.dirE c).save

/-- The image of a context saved in DRAM. -/
def State.savedCtx (s : State) (c : Nat) : Option (List Byte) := (s.savedRead c).1

/-- The first 64 bytes of a saved context's image. -/
def State.savedHead (s : State) (c : Nat) : Option (List Byte) := (s.readBlocks (s.unitOf c) (s.dirE c).part (s.saveAsn c) (s.dirE c).save.toNat 1).1

/-- Changes a saved context in its image: only blocks that change are written (R184, R378); a HOME or PRIO that software has edited stands
(R375). -/
def State.modSaved (s : State) (c : Nat) (f : Ctx → Ctx) (more : List Rec) : Except ImgFault State :=
  let d := s.dirE c
  match s.savedRead c with
  | (none, _) => .error { va := d.save.toNat, level := 7 }
  | (some b, s) =>
    let x := f (ctxOfImage b d)
    let old := imgRecs b c d.pendH
    let b' := x.image { d with flagsAcc := 0, xfail := w64 (imgAt b 0xF8 8), home := imgAt b 8 2, prio := imgAt b 0xA 1 } (s.ctxId c) (old ++ more) true
    let diff := (blocksOf 320 0 b).zip (blocksOf 320 0 b') |>.filterMap (fun e => if e.1.2 = e.2.2 then none else some e.2)
    match s.writeBlocks (s.unitOf c) d.part (s.saveAsn c) d.save.toNat diff with
    | .error e => .error e
    | .ok s => .ok (s.modDir c (fun d => { d with pendH := (old ++ more).map (·.inH), portsKept := x.ports.map (fun p => (p.2.kind, p.2.dir, p.2.ring)) }))

/-- A save-area fault (R378): the context is frozen, and a record of class R with cause 0x0C, the address and the level goes to the
management core (R362, R370). -/
def State.saveFault (s : State) (c : Nat) (f : ImgFault) : State :=
  let words := [w64 (f.level * 2 ^ 11 + 5 * 2 ^ 8 + 0x0C), 0, w64 f.va, 0, 0, w64 s.time, 0, 0]
  let s := s.toMailbox (clusterOf (s.unitOf c)) { words := words, unit := none }
  match (s.dirE c).place with
  | .saved => s.modDir c (fun d => { d with frozen := true })
  | _ => (s.modCtx c (fun x => { x with frozen := true })).modDir c (fun d => { d with frozen := true })

/-! ### Records for a context (R371, R372) -/

/-- Whether a record for a context can be posted now: a place in its unit's queue, or in its image's pending area, which can be read and
written (R371, R372, R378). -/
def State.canPost (s : State) (c : Nat) : Bool :=
  (s.unit (s.unitOf c)).sfq.length < 16 ||
    ((s.dirE c).place == .saved && (s.savedHead c).any (fun b => imgAt b 0x25 1 < 8) &&
      (match s.modSaved c id [{ ctx := c, cause := 0x10, kind := 1 }] with | .ok _ => true | .error _ => false))

/-- Posts a record for a context; one for a halted context is discarded (R342, R371, R372). -/
def State.post (s : State) (r : Rec) : State :=
  let d := s.dirE r.ctx
  if d.st != 1 then s else
  let queue := fun (s : State) => s.modUnit (s.unitOf r.ctx) (fun x => { x with sfq := x.sfq ++ [r] })
  let s := s.modDir r.ctx (fun d => { d with ready := true })
  match d.place with
  | .saved =>
    match s.savedCtx r.ctx with
    | some b =>
      if imgAt b 0x25 1 < 8 then
        (match s.modSaved r.ctx id [r] with | .ok s => s | .error f => (queue s).saveFault r.ctx f)
      else queue s
    | none => queue s
  | _ => queue s

/-- Frozen-ring reports of a unit enter their owners' queues in order, as room allows; those of halted owners are discarded (R355,
R371). -/
def State.flushReports (s : State) (u : Nat) : State :=
  if (s.unit u).reports.isEmpty then s else
  let (s, left) := (s.unit u).reports.foldl (fun (a : State × List Rec) r =>
    if a.2.isEmpty && ((a.1.dirE r.ctx).st != 1 || a.1.canPost r.ctx) then (a.1.post r, []) else (a.1, a.2 ++ [r])) (s, [])
  s.modUnit u (fun x => { x with reports := left })

end Sys2Proof.Machine
end

