-- ==== Sys2Proof/Machine/Shape.lean ====
section
/-! DEFINITION. Shape registers (R130 to R135) and buffer handles (R136 to R144). -/

namespace Sys2Proof.Machine

/-- Reads `n` doublewords from an address with the faults of Mem, from home alone (R75, R135, R306 item 3). -/
def readDws (va : Word) : Nat → M (List Nat)
  | 0 => pure []
  | n + 1 => do
    let loc ← home va accR 8 false
    if isRegBlock loc then trapAt 0x05 va 7 3 else do
      let bs ← readLocal va loc 8 false
      let l ← readDws (va + 8) n
      pure (ofBytes bs :: l)

/-- Field `n` of a shape image (R130). -/
def shapeF (h : BitVec 512) (n : Nat) : Nat := bits h (32 * n + 31) (32 * n)

/-- A shape register of a context. -/
def Ctx.h (x : Ctx) (i : Nat) : BitVec 512 := mget x.hreg i 0

/-- Writes a field of a shape register. -/
def Ctx.setShapeF (x : Ctx) (i n v : Nat) : Ctx := { x with hreg := mset x.hreg i (putBits (x.h i) (32 * n + 31) (32 * n) v) }

def execHld (a : BitVec 5) (h : BitVec 4) (s : State) :=
  runInstr (.hld a h) (do
    let x ← rdS a
    if bits x 5 0 ≠ 0 then trapAt 0x05 x 7 3 else do
      let l ← readDws x 8
      let img : BitVec 512 := BitVec.ofNat 512 (l.foldr (fun v acc => v + acc <<< 64) 0)
      trapIf (bits img 511 416 != 0) 0x07
      modC (fun c => { c with hreg := mset c.hreg h.toNat img })) s

def execHset (a : BitVec 5) (h n : BitVec 4) (s : State) :=
  runInstr (.hset a h n) (do
    let x ← rdS a
    trapIf (13 ≤ n.toNat && bits x 31 0 != 0) 0x07
    modC (fun c => c.setShapeF h.toNat n.toNat (bits x 31 0))) s

def execHsetD (a : BitVec 5) (h : BitVec 4) (n : BitVec 3) (s : State) :=
  runInstr (.hsetD a h n) (do
    let x ← rdS a
    let f := 2 * n.toNat
    trapIf ((13 ≤ f && bits x 31 0 != 0) || (13 ≤ f + 1 && bits x 63 32 != 0)) 0x07
    modC (fun c => (c.setShapeF h.toNat f (bits x 31 0)).setShapeF h.toNat (f + 1) (bits x 63 32))) s

def execHget (d : BitVec 5) (h n : BitVec 4) (s : State) :=
  runInstr (.hget d h n) (do
    needD d
    regCheck 5 h.toNat
    let x ← getC
    wrS d (w64 (shapeF (x.h h.toNat) n.toNat))) s

def execHgetD (d : BitVec 5) (h : BitVec 4) (n : BitVec 3) (s : State) :=
  runInstr (.hgetD d h n) (do
    needD d
    regCheck 5 h.toNat
    let x ← getC
    let f := 2 * n.toNat
    wrS d (w64 (shapeF (x.h h.toNat) (f + 1) * 2 ^ 32 + shapeF (x.h h.toNat) f))) s

/-! ### Buffer handles -/

/-- A unit's handle, if a partition may use it (R136). -/
def UnitSt.handle (x : UnitSt) (p h : Nat) : Option Handle :=
  match mfind x.bt h with
  | some b => if h < 64 && b.part == p then some b else none
  | none => none

/-- The handle named by a register, or cause 0x06 (R136, R137). -/
def theHandle (v : Word) : M (Nat × Handle) := do
  trapIf (bits v 63 6 != 0) 0x06
  let u ← getU
  let d ← getD
  match u.handle d.part (bits v 5 0) with
  | some b => pure (bits v 5 0, b)
  | none => trapC 0x06

/-- A count, or cause 0x06 (R136). -/
def theCount (b : Handle) (n : Word) : M Nat := do
  trapIf (n.toNat == 0 || b.nslot < n.toNat) 0x06
  pure n.toNat

/-- The `n` slots from a pointer. -/
def Handle.run (b : Handle) (x n : Nat) : List Nat := (List.range n).map (fun i => (x + i) % b.nslot)

/-- The state of a slot. -/
def Handle.slot (b : Handle) (i : Nat) : Nat := b.slots.getD i 0

/-- Gives slots a state. -/
def Handle.setSlots (b : Handle) (l : List Nat) (v : Nat) : Handle := { b with slots := l.foldl (fun q i => lset q i v) b.slots }

/-- Replaces a handle of the executing context's unit. -/
def putHandle (h : Nat) (b : Handle) : M Unit := modU (fun u => { u with bt := mset u.bt h b })

/-- The own-unit offset of a slot. -/
def Handle.offset (b : Handle) (slot : Nat) : Nat := (b.base + slot * b.ssize) * 1024

/-- Allocates a ring under a handle number (R138). -/
def halloc (ring : Word) (pick : List Nat → Option Nat) : M Word := do
  let base := bits ring 8 0
  let ssize := bits ring 14 9 + 1
  let nslot := bits ring 20 15 + 1
  trapIf (bits ring 63 21 != 0 || 512 < base + ssize * nslot) 0x07
  let u ← getU
  let d ← getD
  match pick ((List.range 64).filter (fun h => (mfind u.bt h).isNone)) with
  | none => pure (BitVec.allOnes 64)
  | some h =>
    putHandle h { part := d.part, base := base, ssize := ssize, nslot := nslot, slots := List.replicate nslot 0 }
    pure (w64 h)

def execHalloc (d a : BitVec 5) (s : State) :=
  runInstr (.halloc d a) (do
    needD d
    let x ← rdS a
    let r ← halloc x (·.head?)
    wrS d r) s

/-- HALLOC.N (R137, R138). DESIGN CHOICE: a bad handle number is found before a bad ring descriptor (log 55). -/
def execHallocN (d a b : BitVec 5) (s : State) :=
  runInstr (.hallocN d a b) (do
    needS b
    needD d
    let x ← rdS a
    let y ← rdS b
    trapIf (bits y 63 6 != 0) 0x06
    let r ← halloc x (fun l => if l.contains (bits y 5 0) then some (bits y 5 0) else none)
    wrS d r) s

/-- Contexts of a unit parked in HWAIT or HSPACE on a handle that is freed leave their park, to raise cause 0x06 (R139). -/
def State.hfreeWake (s : State) (u h : Nat) : State :=
  s.dir.foldl (fun s e =>
    if e.2.st == 1 && s.unitOf e.1 == u && e.2.hwait == some h then (s.modDir e.1 (fun d => { d with hfreed := true })).unpark e.1 else s) s

def execHfree (a : BitVec 5) (s : State) :=
  runInstr (.hfree a) (do
    let x ← rdS a
    let (h, _) ← theHandle x
    let u ← getU
    parkUnless (!u.cmds.any (fun k => k.handles.contains h)) wHandle
    modU (fun u => { u with bt := mdel u.bt h })
    modify (fun s => s.hfreeWake (s.unitOf s.cur) h)) s

/-- A context whose handle was freed while it was parked on it raises cause 0x06, whatever the number now names (R139). -/
def freedCheck (v : Word) : M Unit := do
  let d ← getD
  trapIf (d.hfreed && d.hwait == some v.toNat) 0x06

/-- HWAIT and HSPACE (R140): claims `n` slots from a pointer, each of which is `from_` or already `to_`. -/
def claim (d a b : BitVec 5) (ptr : Handle → Nat) (from_ to_ : Nat) : M Unit := do
  needS b
  needD d
  let x ← rdS a
  let y ← rdS b
  freedCheck x
  let (h, r) ← theHandle x
  let n ← theCount r y
  let l := r.run (ptr r) n
  if l.all (fun i => r.slot i == from_ || r.slot i == to_) then pure () else do
    modD (fun d => { d with hwait := some h })
    parkSync wHandle
  let e ← getD
  if e.hwait.isSome then modD (fun d => { d with hwait := none, hfreed := false }) else pure ()
  putHandle h (r.setSlots (l.filter (fun i => r.slot i == from_)) to_)
  wrS d (ownWindow (r.offset (ptr r)))

def execHwait (d a b : BitVec 5) (s : State) := runInstr (.hwait d a b) (claim d a b (·.c) 2 3) s
def execHspace (d a b : BitVec 5) (s : State) := runInstr (.hspace d a b) (claim d a b (·.p) 0 1) s

/-! ### Regions (R147, R148) -/

/-- The byte range of a home, apart from virtual addresses (R148). -/
def homeRegion (loc len : Nat) : Region := { lo := 2 ^ 64 + loc, len := len }

/-- A piece of a store as a range. -/
def Piece.region (p : Piece) : Region := if isWindow p.va then homeRegion p.loc p.n else { lo := p.va.toNat, len := p.n }

/-- The range a slot occupies in a unit. -/
def Handle.slotRegion (b : Handle) (u slot : Nat) : Region := homeRegion (unitLoc u (b.offset slot)) (b.ssize * 1024)

/-- What an advance of a slot by the executing context waits for (R141, R320): the commands accepted earlier at the unit whose
footprint meets the slot, and, as a release of unit scope, the context's earlier stores and queued loads and the sibling stores it
has read. -/
def State.advOf (s : State) (c : Nat) (b : Handle) (full : Bool) (slot : Nat) : Adv :=
  let u := s.unitOf c
  let x := s.unit u
  let r := b.slotRegion u slot
  { slot := slot, full := full, ctx := c, issue := s.ids
    cmds := (x.cmds.filter (fun k => (if full then k.writes else k.reads).any (·.meets r))).map (·.order)
    stores := (x.sb.filter (fun e => e.rs != 2 && (e.ctx == c || (s.dirE c).sibRead.contains e.id))).map (·.id) ++ (s.ctx c).ldqOut.map (·.id) }

/-- Whether an advance's condition holds (R141, R320). -/
def State.advDone (s : State) (u : Nat) (a : Adv) : Bool :=
  let x := s.unit u
  !x.cmds.any (fun k => a.cmds.contains k.order) && !x.sb.any (fun e => a.stores.contains e.id && e.rs != 2) &&
    !(s.ctx a.ctx).ldqOut.any (fun e => a.stores.contains e.id)

/-- Advances a pointer of a handle (R141): `slot at the pointer` must be in the state the side works in. -/
def State.advance1 (s : State) (c h : Nat) (b : Handle) (full : Bool) (n : Nat) : State :=
  let p := if full then b.p else b.c
  let l := b.run p n
  let b := { b with adv := b.adv ++ l.map (s.advOf c b full) }
  let b := if full then { b with p := (b.p + n) % b.nslot } else { b with c := (b.c + n) % b.nslot }
  s.modUnit (s.unitOf c) (fun u => { u with bt := mset u.bt h b })

/-- Applies the first advance of a slot if its condition holds: SLOT_BECOMES_FULL and SLOT_BECOMES_FREE (R141). What waits on the
unit's handles is ready to try again, in its slot or away from it (R143, R333). -/
def State.slotTurn (s : State) (u h slot : Nat) (full : Bool) : Option State :=
  let x := s.unit u
  match mfind x.bt h with
  | none => none
  | some b =>
    match b.adv.find? (fun a => a.slot == slot && a.full == full) with
    | none => none
    | some a =>
      if s.advDone u a then
        some ((s.modUnit u (fun x => { x with bt := mset x.bt h { (b.setSlots [slot] (if full then 2 else 0)) with adv := b.adv.erase a } })).wakeUnit u)
      else none

/-- HADV (R141): an advance whose condition holds already has its effect at once. -/
def hadv (a b : BitVec 5) (full : Bool) : M Unit := do
  needS b
  let x ← rdS a
  let y ← rdS b
  let (h, r) ← theHandle x
  let n ← theCount r y
  let l := r.run (if full then r.p else r.c) n
  trapIf (l.any (fun i => r.slot i != (if full then 1 else 3))) 0x06
  modify (fun s => l.foldl (fun (s : State) i => (s.slotTurn (s.unitOf s.cur) h i full).getD s) (s.advance1 s.cur h r full n))

def execHadvP (a b : BitVec 5) (s : State) := runInstr (.hadvP a b) (hadv a b true) s
def execHadvC (a b : BitVec 5) (s : State) := runInstr (.hadvC a b) (hadv a b false) s

/-- HSTAT's summary (R142). -/
def Handle.summary (b : Handle) : Word :=
  let n := fun v => (b.slots.filter (· == v)).length
  w64 (2 ^ 63 + n 2 * 2 ^ 56 + n 0 * 2 ^ 49 + b.p * 2 ^ 43 + b.c * 2 ^ 37 + (b.nslot - 1) * 2 ^ 31 + (b.ssize - 1) * 2 ^ 25 + b.base * 2 ^ 16)

/-- The state codes of 32 slots from `lo` (R142). -/
def Handle.codes (b : Handle) (lo : Nat) : Word := w64 (nsum ((List.range 32).map (fun i => b.slot (lo + i) * 2 ^ (2 * i))))

/-- HSTAT: zero for a handle of another partition or of none (R136, R142). -/
def hstat (d a : BitVec 5) (f : Handle → Word) : M Unit := do
  needD d
  let x ← rdS a
  trapIf (bits x 63 6 != 0) 0x06
  let u ← getU
  let e ← getD
  wrS d (match u.handle e.part (bits x 5 0) with | some b => f b | none => 0)

def execHstat (d a : BitVec 5) (s : State) := runInstr (.hstat d a) (hstat d a (·.summary)) s
def execHstatLo (d a : BitVec 5) (s : State) := runInstr (.hstatLo d a) (hstat d a (·.codes 0)) s
def execHstatHi (d a : BitVec 5) (s : State) := runInstr (.hstatHi d a) (hstat d a (·.codes 32)) s

/-- SLOT_BECOMES_FULL (R141). -/
def execSlotBecomesFull (s : State) :=
  runEvent (do
    let s ← get
    match s.slotTurn s.arg.n0 s.arg.n1 s.arg.n2 true with
    | some s' => set s'
    | none => stall 0) s

/-- SLOT_BECOMES_FREE (R141). -/
def execSlotBecomesFree (s : State) :=
  runEvent (do
    let s ← get
    match s.slotTurn s.arg.n0 s.arg.n1 s.arg.n2 false with
    | some s' => set s'
    | none => stall 0) s

end Sys2Proof.Machine
end

