-- ==== Sys2Proof/Machine/Engine.lean ====
section
/-! DEFINITION. Engine commands: acceptance and identifiers (R145, R146), regions and dependence order (R147 to R149), how a
command reads and writes and ends (R150, R158 to R161), and XWAIT and XSTAT (R157). -/

namespace Sys2Proof.Machine

/-! ### Acceptance (R145, R146) -/

/-- The scheduler entry a command takes: one of the eight reserved to its slot, then one of the 64 shared (R145). A command of a
context in no slot, or sent by MCMD, has the shared ones alone. -/
def UnitSt.entryFor (x : UnitSt) (sl : Option Nat) : Option (Option Nat) :=
  let used := fun (v : Option Nat) => (x.cmds.filter (fun k => k.slot == v)).length
  if sl.isSome && used sl < 8 then some sl else if used none < 64 then some none else none

/-- The slot of a context. -/
def State.slotOf (s : State) (c : Nat) : Option Nat :=
  match (s.dirE c).place with
  | .slot _ sl => some sl
  | _ => none

/-- A transfer identifier (R146). -/
def transferId (lunit seq : Nat) : Word := w64 (lunit * 2 ^ 32 + 2 ^ 31 + seq % 2 ^ 24)

/-- A command of the executing context with what every command captures at issue. -/
def newCmd : M Cmd := do
  let s ← get
  let c := s.cur
  let d := s.dirE c
  let x := s.ctx c
  pure { seq := 0, issuer := c, no := s.ids, lunit := d.home, pc := x.pc, inH := x.inHandler, word := s.insn, part := d.part, ctx := c
         asn := x.asn, sup := x.sup, home := d.home, fmt := x.fmt }

/-- Accepts a command in an entry of a unit's scheduler; its identifier's sequence number is the unit's next, and names it
alone from now on (R146). A remote command keeps
its place in its issuer's order. -/
def State.acceptAt (s : State) (u : Nat) (sl : Option Nat) (k : Cmd) : State × Nat :=
  let q := (s.unit u).seq
  ({ s with ids := s.ids + 1 }.modUnit u (fun x =>
    { x with
      seq := (q + 1) % 2 ^ 24
      done := x.done.filter (fun e => e.1 != q)
      cmds := x.cmds ++ [{ k with seq := q, no := if k.remote then k.no else s.ids, slot := sl, order := s.ids }] }), q)

/-- A Croft unit that addresses an Acre-only resource waits until Acre runs, and asks for its wake (R25, R394). -/
def needAcre : M Unit := do
  let s ← get
  if isCroft (s.unitOf s.cur) && !s.acreOn then do
    set s.wakeAcre
    stall wPower
  else pure ()

/-- Accepts a command of the executing context and gives its identifier (R145). -/
def accept (k : Cmd) : M Word := do
  let s ← get
  let u := s.unitOf s.cur
  match (s.unit u).entryFor (s.slotOf s.cur) with
  | none => stall wEngine
  | some sl => do
    let (s', q) := s.acceptAt u sl k
    set s'
    pure (transferId k.lunit q)

/-! ### Operands and regions (R147, R152) -/

/-- The offset of a window address within its window (R43). -/
def windowOff (va : Word) : Nat :=
  match bits va 47 44 with
  | 4 => bits va 23 0
  | 5 => bits va 27 0
  | _ => bits va 43 0

/-- An operand of a command and its region: bytes from `lo` to `hi` about its address. A window region must keep within its
window and name a mapped unit (R28, R152 item 3), or, where a command finds that as it executes (`late`), may name none (R277). -/
def operand (va : Word) (lo hi : Int) (k : Acc) (late : Bool := false) : M (Opnd × Region) := do
  if isWindow va then
    match windowRoom va with
    | none => trapAt k.absent va 7 0
    | some room =>
      if (windowOff va : Int) + lo < 0 ∨ (room : Int) < hi then trapAt k.absent va 7 0 else do
        let s ← get
        if late && s.windowHome (s.unitOf s.cur) (s.dirE s.cur).part va k == .fault k.absent 7 then
          pure ({ va := va, unmapped := true }, { lo := 0, len := 0 })
        else do
          let loc ← home va k 1 true
          pure ({ va := va, home := some loc }, homeRegion ((loc : Int) + lo).toNat (hi - lo).toNat)
  else pure ({ va := va }, { lo := ((va.toNat : Int) + lo).toNat, len := (hi - lo).toNat })

/-- Cause 0x11: a region too long, or a read region that overlaps a write region (R152 item 4). -/
def footprint (reads writes : List Region) : M Unit :=
  trapIf ((reads ++ writes).any (fun r => 2 ^ 32 < r.len) || reads.any (fun r => writes.any (·.meets r))) 0x11

/-- A two's complement 32-bit field. -/
def sgn32 (n : Nat) : Int := if 2 ^ 31 ≤ n then (n : Int) - 2 ^ 32 else n

/-- Whether a tag is one TTAG accepts (R128). -/
def tagOk (t : Nat) : Bool :=
  t % 4 == 0 && t / 2 ^ 12 < 10 && t / 2 ^ 9 % 8 < 5 && t / 2 ^ 6 % 8 < 5 && (t / 2 ^ 12 == 9 || t / 4 % 4 == 0)

/-! ### Running a command: reads and writes -/

/-- A command's effect: it may end with a cause, which carries the level of a walk that failed (`atLevel`). -/
abbrev E := EStateM Nat State

/-- A cause found at a level of a walk (R363). -/
def atLevel (cause level : Nat) : Nat := if level = 7 then cause else cause + 128 * (level + 1)
/-- The cause code of a command's end. -/
def endCause (e : Nat) : Nat := e % 128
/-- The level of the walk that ended a command, 7 when none was made (R363). -/
def endLevel (e : Nat) : Nat := if e / 128 = 0 then 7 else e / 128 - 1

/-- One write of a command: up to eight bytes within a word, and the full/empty bit it gives. -/
structure EWrite where
  loc : Nat
  n : Nat
  data : Nat
  fe : Option Bool := none
deriving DecidableEq, Repr

/-- How a command ended, or that it cannot end yet in the state given. -/
inductive CmdRes where
  | wait (s : State)
  | ok (s : State) (misses first flags : Nat)
  | fault (s : State) (cause misses first flags : Nat)

/-- On whose behalf a command accesses memory. -/
def Cmd.who (k : Cmd) (u : Nat) : Who := { u := u, part := k.part, asn := k.asn, sup := k.sup }

/-- The home of a byte of an operand (R152, R159). -/
def opLoc (u : Nat) (k : Cmd) (o : Opnd) (off : Int) (acc : Acc) : E Nat :=
  match o.home with
  | some h => do
    let s ← get
    if s.cutOff u h then throw 0x45 else pure ((h : Int) + off).toNat
  | none =>
    if o.unmapped then throw acc.absent else do
    let s ← get
    let va := w64 (((o.va.toNat : Int) + off) % 2 ^ 64).toNat
    match o.pages[((o.va.toNat % 4096 : Nat) + off).toNat / 4096]? with
    | some p => if s.cutOff u p then throw 0x45 else pure (p + va.toNat % 4096)
    | none =>
    match s.resolve (k.who u) va acc true with
    | (.ok loc, s') => do
      set s'
      if isRegBlock loc then throw 0x05 else if s'.cutOff u loc then throw 0x45 else pure loc
    | (.fault c lv, s') => do
      set s'
      throw (if c = 0x46 then 0x45 else atLevel c lv)
    | (_, _) => throw acc.absent

/-- Reads `n` bytes at a home as an engine does: what sleeps there wakes, and every correctable error of the run is corrected (R33,
R39, R117, R316, R391, R396). -/
def engRead (u loc n : Nat) : E Nat := do
  let s ← get
  if s.cutOff u loc then throw 0x45 else do
    let s := ((s.rouse loc).touchRun loc n).correct u loc n
    set s
    if s.readErr loc n ≠ 0 then throw (s.readErr loc n) else pure (s.peek loc n)

/-- Runs each part of a command in turn, keeping the causes of those that fail (R159). -/
def collect {α : Type} : List (E α) → State → List (Except Nat α) × State
  | [], s => ([], s)
  | f :: l, s =>
    match f s with
    | .ok a s' => let (r, s'') := collect l s'; (.ok a :: r, s'')
    | .error c s' => let (r, s'') := collect l s'; (.error c :: r, s'')

/-- The writes among a command's parts. -/
def goodOf {α : Type} (l : List (Except Nat α)) : List α := l.filterMap (fun e => match e with | .ok a => some a | .error _ => none)

/-- The first cause among a command's parts. -/
def causeOf {α : Type} : List (Except Nat α) → Option Nat
  | [] => none
  | .error c :: _ => some c
  | .ok _ :: l => causeOf l

/-- The bytes written in each aligned 1 KiB. -/
def coverage (ws : List EWrite) : Map (BitVec 1024) :=
  ws.foldl (fun m w =>
    let b := w.loc / 1024
    mset m b (mget m b 0 ||| ((BitVec.allOnes 1024 >>> (1024 - w.n)) <<< (w.loc % 1024)))) []

/-- Whether every byte of `[lo, lo + n)` of a 1 KiB is written. -/
def coversAll (m : BitVec 1024) (lo n : Nat) : Bool :=
  let f : BitVec 1024 := (BitVec.allOnes 1024 >>> (1024 - n)) <<< lo
  m &&& f == f

/-- Whether some byte of `[lo, lo + n)` of a 1 KiB is written. -/
def coversSome (m : BitVec 1024) (lo n : Nat) : Bool := m &&& ((BitVec.allOnes 1024 >>> (1024 - n)) <<< lo) != 0

/-- A write of less than a burst meets an uncorrectable burst (R34). -/
def State.poisonMet (s : State) (cov : Map (BitVec 1024)) : Bool :=
  cov.any (fun e => isDram (e.1 * 1024) &&
    (List.range 32).any (fun b => coversSome e.2 (32 * b) 32 && !coversAll e.2 (32 * b) 32 && s.errAt (e.1 * 1024 + 32 * b) == 2))

/-- The reads that the partial-burst writes of a command make correct what they find (R33, R34). -/
def State.readParts (s : State) (u : Nat) (cov : Map (BitVec 1024)) : State :=
  if s.memErr.isEmpty then s else
  cov.foldl (fun s e => if !isDram (e.1 * 1024) then s else
    (List.range 32).foldl (fun s b =>
      if coversSome e.2 (32 * b) 32 && !coversAll e.2 (32 * b) 32 then s.correct u (e.1 * 1024 + 32 * b) 32 else s) s) s

/-- Puts the bytes of a command's writes; what sleeps at their homes wakes (R391, R396). -/
def State.putData (s : State) (ws : List EWrite) : State :=
  ws.foldl (fun s w => ((s.rouse w.loc).touch w.loc).pokeRaw w.loc w.n w.data) s

/-- Gives the full/empty bits of a command's writes, with their scans (R131, R214). -/
def State.putFe (s : State) (ws : List EWrite) : State :=
  ws.foldl (fun s w => match w.fe with | some b => s.feChange w.loc b | none => s) s

/-- Gives granules and errors what a command's writes leave of them, by what they cover (R34, R117, R123). DESIGN CHOICE: a tag that is
written keeps the error that stands in it; R117 clears errors by the write of a whole word alone (log 68). -/
def State.settleWrites (s : State) (ws : List EWrite) (tag : Nat → BitVec 16) : State :=
  (coverage ws).foldl (fun s e =>
    let a := e.1 * 1024
    if isDram a then
      let s := s.mend (((List.range 32).filter (fun b => coversAll e.2 (32 * b) 32)).map (a / 32 + ·))
      { s with memErr := s.memErr.filter (fun q => !(a ≤ 8 * q.1 && 8 * q.1 < a + 1024 && coversAll e.2 ((8 * q.1 - a) / 32 * 32) 32)) }
    else
      let s := { s with memErr := s.memErr.filter (fun q => !(a ≤ 8 * q.1 && 8 * q.1 < a + 1024 && coversAll e.2 (8 * q.1 - a) 8)) }
      if coversAll e.2 0 1024 then s.setTag a (tag a) else s.clearV a) s

/-- A command's writes with all they do: what they cover in part is read, then data and tags, then the full/empty bits, so that a write a scan makes comes after them
(R124, R214). -/
def State.applyWrites (s : State) (u : Nat) (ws : List EWrite) (tag : Nat → BitVec 16) : State :=
  (((s.readParts u (coverage ws)).putData ws).settleWrites ws tag).putFe ws

/-- What a write of a command stands or falls with when only a part of the command's writes is made: the granule or burst that the
command writes whole, else itself (R111, R127). -/
def EWrite.group (cov : Map (BitVec 1024)) (w : EWrite) : Option Nat :=
  let m := mget cov (w.loc / 1024) 0
  if isDram w.loc then (if coversAll m (w.loc % 1024 / 32 * 32) 32 then some (2 * (w.loc / 32) + 1) else none)
  else if coversAll m 0 1024 then some (2 * (w.loc / 1024)) else none

/-- A free choice among writes, group by group (R159). -/
def someWrites (fresh : Nat) (ws : List EWrite) : List EWrite :=
  let cov := coverage ws
  let first : Map Nat := ws.zipIdx.foldl (fun m e => match e.1.group cov with
    | some g => if (mfind m g).isSome then m else mset m g e.2
    | none => m) []
  let no := fun (e : EWrite × Nat) => match e.1.group cov with | some g => mget first g e.2 | none => e.2
  (ws.zipIdx.filter (fun e => Config.freeNat (fresh + no e) % 2 == 1)).map (·.1)

/-- Ends a copy-class command: all its writes, or, where a part failed or an internal error cuts it short, those a free choice makes;
none where full/empty bits were asked of host memory (R159, R160). -/
def finishWrites (u : Nat) (cut : Bool) (ws : List (Except Nat EWrite)) (tag : Nat → BitVec 16) (misses first flags : Nat) (s : State) : CmdRes :=
  let good := goodOf ws
  match (causeOf ws).or (if cut then some 0x45 else none) with
  | none =>
    let bad := s.poisonMet (coverage good)
    let s := s.applyWrites u good tag
    if bad then .fault s 0x43 misses first flags else .ok s misses first flags
  | some c =>
    if ws.any (fun w => match w with | .error e => endCause e == 0x0D | .ok _ => false) then .fault s 0x0D misses first flags else
    .fault ({ s.applyWrites u (someWrites s.fresh good) tag with fresh := s.fresh + good.length }) c misses first flags

/-! ### Order among commands (R148, R149, R161) -/

/-- The commands a unit's scheduler holds that were accepted before one. -/
def UnitSt.earlier (x : UnitSt) (k : Cmd) : List Cmd := x.cmds.takeWhile (fun j => !j.same k)
/-- Those accepted after it. -/
def UnitSt.later (x : UnitSt) (k : Cmd) : List Cmd := (x.cmds.dropWhile (fun j => !j.same k)).tail

/-- The oldest command at a unit with a sequence number that has started, or has not. -/
def State.cmdOf (s : State) (u seq : Nat) (started : Bool) : Option Cmd :=
  (s.unit u).cmds.find? (fun k => k.seq == seq && k.started == started)

/-- Whether the issuer's own earlier stores and queued loads to the command's regions are performed (R149). -/
def State.ownDone (s : State) (k : Cmd) : Bool :=
  let sb := (s.unit (s.unitOf k.issuer)).sb
  !sb.any (fun e => e.ctx == k.issuer && e.id < k.no && e.rs != 2 && e.pieces.any (fun p => (k.reads ++ k.writes).any (·.meets p.region))) &&
    !(s.ctx k.issuer).ldqOut.any (fun e => e.id < k.no &&
      k.writes.any (·.meets (if isWindow e.va then homeRegion e.loc 8 else { lo := e.va.toNat, len := 8 })))

/-- Whether a command needs Acre: a scratchpad there, or a CGE (R24, R25). -/
def Cmd.onAcre (k : Cmd) : Bool :=
  bits k.word 31 24 == 0xA0 || k.ops.any (fun o => match o.home with | some h => isAcrePad h | none => false)

/-- Whether a command's accesses may go through now: what was injected before them on their ways has arrived (R15, R19, R114). DESIGN
CHOICE: a command for a sleeping Acre waits in its scheduler entry, and takes no place in a bridge's hold buffer (log 69). -/
def State.reaches (s : State) (u : Nat) (k : Cmd) : Bool :=
  (k.reads ++ k.writes).all (fun r => r.lo < 2 ^ 64 || s.meshOpen u (r.lo - 2 ^ 64) (2 ^ 64))

/-- Whether Acre's engines run: it is on, or on its way down from there, when what it accepted is still carried out (R393). -/
def State.acreRuns (s : State) : Bool := s.acreOn || (s.island.st == 3 && s.island.from_ == 0)

/-- Whether the order among commands lets a command start (R148, R149); an accumulator's operations also take effect in order
(R259). -/
def State.mayStart (s : State) (u : Nat) (k : Cmd) : Bool :=
  let before := (s.unit u).earlier k
  !k.started && !before.any (fun j => j.conflicts k || (k.acc.isSome && j.acc == k.acc)) && s.ownDone k && s.reaches u k && (s.acreRuns || (isCroft u && !k.onAcre))

/-- The party a command belongs to, as a turn of the rotation names it: its issuer's slot, or the remote queue (R258, R331). -/
def State.partyOf (s : State) (u : Nat) (k : Cmd) : Option Nat :=
  if k.remote then some 8 else
  match (s.dirE k.issuer).place with
  | .slot v sl => if v = u then some sl else none
  | _ => none

/-- Whether the GME takes a command now: it runs one at a time, the oldest that may start of the turn's party, else of any (R287). -/
def State.gmeTakes (s : State) (u : Nat) (k : Cmd) : Bool :=
  let x := s.unit u
  let l := x.cmds.filter (fun j => j.isGme && s.mayStart u j)
  let mine := l.filter (fun j => s.partyOf u j == some (bits x.rot (4 * (x.cyc % 16) + 3) (4 * (x.cyc % 16))))
  !x.cmds.any (fun j => j.isGme && j.started) && (if mine.isEmpty then l else mine).head?.any (·.same k)

/-- Whether a command may start (R148, R149, R287). -/
def State.canStart (s : State) (u : Nat) (k : Cmd) : Bool := s.mayStart u k && (!k.isGme || s.gmeTakes u k)

/-- ENGINE_COMMAND_START (R148); a command for a sleeping Acre raises its wake instead (R25). -/
def execEngineCommandStart (s : State) :=
  runEvent (do
    let s ← get
    let u := s.arg.n0
    match s.cmdOf u s.arg.n1 false with
    | none => stall 0
    | some k =>
      if isCroft u && k.onAcre && !s.acreRuns then set s.wakeAcre else do
        enabled (s.canStart u k)
        set (((s.staleStart k).recall u).modUnit u (fun x => { x with cmds := x.cmds.map (fun j => if j.same k then { j with started := true } else j) }))) s

/-- Cancels the later commands that waited for one that ended in a fault or was cancelled, in a chain (R161, R257). -/
def State.cancelChain (s : State) (u : Nat) (cause : Nat) (bad : List Cmd) : List Cmd → State
  | [] => s
  | j :: l =>
    if bad.any (fun k => k.conflicts j || (k.acc.isSome && k.acc == j.acc)) then
      (s.endCmd u j (statusWord 3 cause 0 0)).cancelChain u cause (j :: bad) l
    else s.cancelChain u cause bad l

/-- The record of an engine fault (R159, R364). -/
def Cmd.faultRec (k : Cmd) (cause : Nat) (st : Word) : Rec :=
  { ctx := k.issuer, cause := endCause cause, level := endLevel cause, kind := 3, pc := k.pc, addr := transferId k.lunit k.seq, data := st, inH := k.inH, no := k.no }

/-- Ends a command in a fault: status, cancellations, and the record to its issuer (R159, R161). -/
def State.failCmd (s : State) (u : Nat) (k : Cmd) (cause misses first flags : Nat) : State :=
  let st := statusWord 2 (endCause cause) misses first
  let later := (s.unit u).later k
  let s := (s.endCmd u k st).cancelChain u (endCause cause) [k] later
  if 65536 ≤ k.issuer then s
  else (s.modDir k.issuer (fun d => { d with flagsAcc := Nat.lor d.flagsAcc flags })).post (k.faultRec cause st)

/-- Ends a command normally (R150); its flags reach the issuer (R95). -/
def State.doneCmd (s : State) (u : Nat) (k : Cmd) (misses first flags : Nat) : State :=
  let s := s.endCmd u k (statusWord 0 0 misses first)
  if 65536 ≤ k.issuer then s else s.modDir k.issuer (fun d => { d with flagsAcc := Nat.lor d.flagsAcc flags })

/-! ### XWAIT and XSTAT (R157) -/

/-- The status of the command an identifier names at a unit, the one accepted last with its sequence number (R146). -/
def UnitSt.status (x : UnitSt) (seq : Nat) : Word :=
  match x.done.find? (fun e => e.1 == seq) with
  | some e => e.2
  | none => if x.cmds.any (fun k => k.seq == seq) then 1 else 4

/-- The identifier's check (R157). -/
def checkId (t : Word) : M Nat := do
  let d ← getD
  trapIf (!bit t 31 || bits t 40 32 != d.home || bits t 63 41 != 0 || bits t 30 24 != 0) 0x06
  pure (bits t 23 0)

def execXwait (d a : BitVec 5) (s : State) :=
  runInstr (.xwait d a) (do
    needD d
    let t ← rdS a
    let q ← checkId t
    let u ← getU
    parkUnless (u.status q != 1) wEngine
    wrS d (u.status q)) s

def execXstat (d a : BitVec 5) (s : State) :=
  runInstr (.xstat d a) (do
    needD d
    let t ← rdS a
    let q ← checkId t
    let u ← getU
    wrS d (u.status q)) s

def execXwaitAll (d : BitVec 5) (s : State) :=
  runInstr (.xwaitAll d) (do
    needD d
    let s ← get
    parkUnless (!s.enginesBusy s.cur) wEngine
    wrS d (s.dirE s.cur).xfail
    modD (fun e => { e with xfail := 0, xfailNo := 0, xfailNew := false })) s

end Sys2Proof.Machine
end

