-- ==== Sys2Proof/Machine/Float.lean ====
section
/-! DEFINITION. The scalar FP32 group (R199, R200). -/

namespace Sys2Proof.Machine

/-- The binary32 operand of a register: bits [63:32] are ignored (R199). -/
def fArg (x : Word) : FV := f32.decode (x.toNat % 2 ^ 32)

/-- Rounds an exact FP32 result under fmt.cfg; rd[63:32] is zero (R199). -/
def fRes (fmt : Word) (x : Ex) (flags : Nat) : Word × Nat :=
  let (r, f) := f32.round (fmtRm fmt) (fmtSat fmt) x
  (w64 r, Nat.lor f flags)

def fAdd (fmt x y : Word) : Word × Nat := let (r, n) := fvAdd (fmtRm fmt) (fArg x) (fArg y); fRes fmt r.ex n
def fSub (fmt x y : Word) : Word × Nat := let (r, n) := fvAdd (fmtRm fmt) (fArg x) (fArg y).negate; fRes fmt r.ex n
def fMul (fmt x y : Word) : Word × Nat := let (r, n) := fvMul (fArg x) (fArg y); fRes fmt r.ex n
def fDiv (fmt x y : Word) : Word × Nat := let (r, n) := fvDiv (fArg x) (fArg y); fRes fmt r n
def fSqrt (fmt x : Word) : Word × Nat := let (r, n) := fvSqrt (fArg x); fRes fmt r n

/-- Whether `a` orders before `b` with -0 below +0 (R199, R231). -/
def fvBefore (a b : FV) : Bool := fvLt a b || (a.isZero && b.isZero && a.neg? && !b.neg?)

/-- fmin and fmax (R199): a NaN operand gives the canonical NaN. -/
def fMinMax (isMin : Bool) (x y : Word) : Word :=
  let a := fArg x
  let b := fArg y
  if a = .nan ∨ b = .nan then w64 f32.nan
  else
    let first := if isMin then !fvBefore b a else !fvBefore a b
    w64 ((if first then x.toNat else y.toNat) % 2 ^ 32)

/-- The comparisons (R199): a NaN operand gives 0. -/
def fCmp (f : FV → FV → Bool) (x y : Word) : Word :=
  let a := fArg x
  let b := fArg y
  if a ≠ .nan ∧ b ≠ .nan ∧ f a b = true then 1 else 0

/-- fcvtif (R199). -/
def fFromInt (fmt x : Word) : Word × Nat := fRes fmt (intEx x.toInt) 0

/-- fcvtfi (R199). -/
def fToInt (fmt x : Word) : Word × Nat :=
  let (v, f) := (ifmt 4).round (fmtRm fmt) (fArg x).ex
  (BitVec.ofInt 64 v, f)

/-- The class bit (R200). -/
def fClass (x : Word) : Word :=
  let n := x.toNat % 2 ^ 32
  let neg := n / 2 ^ 31 == 1
  let e := n / 2 ^ 23 % 256
  let m := n % 2 ^ 23
  let b : Nat :=
    if e = 255 then (if m ≠ 0 then 8 else if neg then 0 else 7)
    else if e = 0 then (if m = 0 then (if neg then 3 else 4) else if neg then 2 else 5)
    else if neg then 1 else 6
  w64 (2 ^ b)

def execFadd (d a b : BitVec 5) (p q : BitVec 2) (s : State) := runInstr (.fadd d a b p q) (srF2 d a b p q fAdd) s
def execFsub (d a b : BitVec 5) (p q : BitVec 2) (s : State) := runInstr (.fsub d a b p q) (srF2 d a b p q fSub) s
def execFmul (d a b : BitVec 5) (p q : BitVec 2) (s : State) := runInstr (.fmul d a b p q) (srF2 d a b p q fMul) s
def execFdiv (d a b : BitVec 5) (p q : BitVec 2) (s : State) := runInstr (.fdiv d a b p q) (srF2 d a b p q fDiv) s
def execFsqrt (d a : BitVec 5) (p q : BitVec 2) (s : State) := runInstr (.fsqrt d a p q) (srF1 d a p q fSqrt) s
def execFmin (d a b : BitVec 5) (p q : BitVec 2) (s : State) := runInstr (.fmin d a b p q) (sr2 d a b p q (fMinMax true)) s
def execFmax (d a b : BitVec 5) (p q : BitVec 2) (s : State) := runInstr (.fmax d a b p q) (sr2 d a b p q (fMinMax false)) s
def execFeq (d a b : BitVec 5) (p q : BitVec 2) (s : State) := runInstr (.feq d a b p q) (sr2 d a b p q (fCmp fvEq)) s
def execFlt (d a b : BitVec 5) (p q : BitVec 2) (s : State) := runInstr (.flt d a b p q) (sr2 d a b p q (fCmp fvLt)) s
def execFle (d a b : BitVec 5) (p q : BitVec 2) (s : State) :=
  runInstr (.fle d a b p q) (sr2 d a b p q (fCmp (fun x y => !fvLt y x))) s
def execFcvtif (d a : BitVec 5) (p q : BitVec 2) (s : State) := runInstr (.fcvtif d a p q) (srF1 d a p q fFromInt) s
def execFcvtfi (d a : BitVec 5) (p q : BitVec 2) (s : State) := runInstr (.fcvtfi d a p q) (srF1 d a p q fToInt) s
def execFclass (d a : BitVec 5) (p q : BitVec 2) (s : State) := runInstr (.fclass d a p q) (sr1 d a p q fClass) s

end Sys2Proof.Machine
end

