-- ==== Sys2Proof/Machine/Elem.lean ====
section
/-! DEFINITION. Vector elements: reading and writing groups (R221, R223), the element functions of each type (R229 to R235)
and the correctly rounded functions (R232). -/

namespace Sys2Proof.Machine

/-- The element width of a type code (R221). -/
def tyW (t : Nat) : Nat := tyWidth (BitVec.ofNat 3 t)
/-- Whether a type code names a floating-point type (R228). -/
def tyF (t : Nat) : Bool := t ≤ 3
/-- The elements of a register of elements of `w` bits. -/
def lanes (w : Nat) : Nat := 2048 / w

/-- Element `e` of the group at `base`, as a pattern of `w` bits (R221). -/
def Ctx.elt (x : Ctx) (base w e : Nat) : Nat := (x.v (base + e / lanes w)).toNat >>> (w * (e % lanes w)) % 2 ^ w

/-- The register of a list of element patterns, element 0 lowest. -/
def packElts (w : Nat) (l : List Nat) : VWord := BitVec.ofNat 2048 (l.foldr (fun v acc => v % 2 ^ w + acc <<< w) 0)

/-- Writes the registers of a group from its elements; every register becomes full (R224). -/
def Ctx.putGroup (x : Ctx) (d w : Nat) (vals : List Nat) : Ctx :=
  (List.range ((vals.length + lanes w - 1) / lanes w)).foldl
    (fun y r => y.setV (d + r) (packElts w ((vals.drop (r * lanes w)).take (lanes w)))) x

/-- Whether element `e` is active under a mask (R223). -/
def activeE (m : BitVec 256) (e : Nat) : Bool := bit m (e % 256)

/-- The body of an element-wise instruction (R223, R229): active elements take `f`'s pattern and flags, the others keep their
value. -/
def Ctx.elemwise (x : Ctx) (d k w n : Nat) (f : Nat → Nat × Nat) : Ctx :=
  let r := (List.range n).map (fun e => if activeE (x.k k) e then f e else (x.elt d w e, 0))
  (x.putGroup d w (r.map (·.1))).accrue (r.foldl (fun a e => Nat.lor a e.2) 0)

/-- Whether a floating-point value was made a NaN from operands that are not (R88). -/
def nvUnless (b : Bool) (n : Nat) : Nat := if b then 0 else n

/-- IntResult: wraps, or saturates with IS (R230). -/
def intResult (fmt : Word) (t : Nat) (v : Int) : Nat × Nat :=
  let f := ifmt t
  if fmtIsat fmt then let (c, out) := f.clamp v; (f.encode c, if out then fIS else 0) else (f.encode v, 0)

/-- Round to a floating-point type under fmt.cfg, with flags the operation itself raised. -/
def roundTy (fmt : Word) (t : Nat) (x : Ex) (flags : Nat) : Nat × Nat :=
  let (p, f) := (ffmt t).round (fmtRm fmt) (fmtSat fmt) x
  (p, Nat.lor f flags)

/-- An arithmetic element: floating or integer by type (R229, R230). -/
def arith (fmt : Word) (t : Nat) (ff : FV → FV → FV × Nat) (fi : Int → Int → Int) (a b : Nat) : Nat × Nat :=
  if tyF t then let (r, n) := ff ((ffmt t).decode a) ((ffmt t).decode b); roundTy fmt t r.ex n
  else intResult fmt t (fi ((ifmt t).decode a) ((ifmt t).decode b))

/-- The fused element: c + a × b, or c − a × b (R229, R100). -/
def fused (fmt : Word) (t : Nat) (neg : Bool) (a b c : Nat) : Nat × Nat :=
  if tyF t then
    let (u, v, w) := ((ffmt t).decode a, (ffmt t).decode b, (ffmt t).decode c)
    let (p, n) := fvMul u v
    let (r, n') := fvAdd (fmtRm fmt) (if neg then p.negate else p) w
    roundTy fmt t r.ex (nvUnless (u = .nan ∨ v = .nan ∨ w = .nan) (Nat.lor n n'))
  else
    let p := (ifmt t).decode a * (ifmt t).decode b
    intResult fmt t ((ifmt t).decode c + (if neg then -p else p))

/-- VMIN and VMAX (R231). -/
def minMax (t : Nat) (isMin : Bool) (a b : Nat) : Nat × Nat :=
  if tyF t then
    let (u, v) := ((ffmt t).decode a, (ffmt t).decode b)
    if u = .nan ∨ v = .nan then ((ffmt t).nan, 0)
    else if isMin then (if fvBefore v u then b else a, 0) else (if fvBefore u v then b else a, 0)
  else
    let (u, v) := ((ifmt t).decode a, (ifmt t).decode b)
    if isMin then (if v < u then b else a, 0) else (if u < v then b else a, 0)

/-- VABS and VNEG (R231). -/
def absNeg (fmt : Word) (t : Nat) (isAbs : Bool) (a : Nat) : Nat × Nat :=
  if tyF t then
    let top := 2 ^ (tyW t - 1)
    if (ffmt t).decode a = .nan then ((ffmt t).nan, 0)
    else if isAbs then (a % top, 0) else (if a < top then a + top else a - top, 0)
  else
    let v := (ifmt t).decode a
    intResult fmt t (if isAbs then v.natAbs else -v)

/-! ### Correctly rounded functions (R232, log 9) -/

/-- The fixed-point places of the functions below. -/
def fxP : Nat := 320
/-- One in fixed point. -/
def fxOne : Nat := 2 ^ fxP
/-- ln 2 in fixed point, rounded down. -/
def fxLn2 : Nat := 1480553391661173448385607439722553250922680800745876974795605978609098082859138712941075737848984

/-- The Taylor series of e^y, y in fixed point: terms from `k` on. -/
def expTerms (y term k : Nat) : Nat → Nat
  | 0 => 0
  | n + 1 => term + expTerms y (term * y / fxOne / k) (k + 1) n

/-- e^y for y in [0, 1) in fixed point, rounded down. -/
def fxExp (y : Nat) : Nat := expTerms y fxOne 1 100

/-- The series of atanh z: terms z^(2k+1)/(2k+1). -/
def atanhTerms (z2 term k : Nat) : Nat → Nat
  | 0 => 0
  | n + 1 => term / k + atanhTerms z2 (term * z2 / fxOne) (k + 2) n

/-- ln of p/q in [1, 2), in fixed point, rounded down. -/
def fxLn (p q : Nat) : Nat :=
  let z := (p - q) * fxOne / (p + q)
  2 * atanhTerms (z * z / fxOne) z 1 120

/-- 2^a for finite a = ±m × 2^e: exact for integers, else cut off with sticky. -/
def exp2Ex (neg : Bool) (m : Nat) (e : Int) : Ex :=
  if m = 0 then .rat false 1 1 0 false else
  let lg : Int := (Nat.log2 m : Int) + e
  if 20 ≤ lg then (if neg then .rat false 1 1 (-2 ^ 20) false else .rat false 1 1 (2 ^ 20) false)
  else if lg < -60 then (if neg then .rat false (2 ^ 80 - 1) 1 (-80) true else .rat false (2 ^ 80) 1 (-80) true)
  else
    -- a in fixed point is exact: e is at least -149 - 23
    let x : Int := ((m * fxOne : Nat) : Int) * 2 ^ e.toNat / 2 ^ (-e).toNat
    let x := if neg then -x else x
    let n := x / (fxOne : Int)
    let f := (x % (fxOne : Int)).toNat
    if f = 0 then .rat false 1 1 n false
    else .rat false (fxExp (f * fxLn2 / fxOne) / 2 ^ 20) 1 (n - ((fxP - 20 : Nat) : Int)) true

/-- log2 of a positive finite m × 2^e: exact for powers of two, else cut off with sticky. -/
def log2Ex (m : Nat) (e : Int) : Ex :=
  let l := Nat.log2 m
  let n : Int := (l : Int) + e
  if m = 2 ^ l then intEx n
  else
    let f := fxLn m (2 ^ l) * fxOne / fxLn2
    let v : Int := n * (fxOne : Int) + f
    if v < 0 then .rat true (v.natAbs / 2 ^ 20) 1 (-(fxP - 20 : Nat)) true
    else .rat false (v.toNat / 2 ^ 20) 1 (-(fxP - 20 : Nat)) true

/-- tanh of a finite nonzero ±m × 2^e, cut off with sticky. -/
def tanhEx (neg : Bool) (m : Nat) (e : Int) : Ex :=
  let lg : Int := (Nat.log2 m : Int) + e
  if lg < -40 then .rat neg (m * 2 ^ 60 - 1) 1 (e - 60) true
  else if 6 ≤ lg then .rat neg (2 ^ 100 - 1) 1 (-100) true
  else
    let x2 : Nat := 2 * (((m * fxOne : Nat) : Int) * 2 ^ e.toNat / 2 ^ (-e).toNat).toNat
    let n := x2 / fxLn2
    let E := fxExp (x2 - n * fxLn2) * 2 ^ n
    .rat neg ((E - fxOne) * 2 ^ 300 / (E + fxOne) / 2 ^ 20) 1 (-280) true

/-- The exact result and flags of a unary function on a value (R232). -/
def unaryFn (op : Nat) (a : FV) : Ex × Nat :=
  match op with
  | 0 => fvSqrt a
  | 1 => match a with
    | .nan => (.nan, 0)
    | .inf n => if n then (.nan, fNV) else (.rat false 0 1 0 false, 0)
    | .fin n m e => if m = 0 then (.inf n, fDZ) else if n then (.nan, fNV) else (fvRsqrtPos m e, 0)
  | 2 => fvDiv (.fin false 1 0) a
  | 3 => match a with
    | .nan => (.nan, 0)
    | .inf n => if n then (.rat false 0 1 0 false, 0) else (.inf false, 0)
    | .fin n m e => (exp2Ex n m e, 0)
  | 4 => match a with
    | .nan => (.nan, 0)
    | .inf n => if n then (.nan, fNV) else (.inf false, 0)
    | .fin n m e => if m = 0 then (.inf true, fDZ) else if n then (.nan, fNV) else (log2Ex m e, 0)
  | _ => match a with
    | .nan => (.nan, 0)
    | .inf n => (.rat n 1 1 0 false, 0)
    | .fin n m e => if m = 0 then (.rat n 0 1 0 false, 0) else (tanhEx n m e, 0)

/-- A unary function's element (R232). -/
def unaryElt (fmt : Word) (t op a : Nat) : Nat × Nat :=
  let (r, n) := unaryFn op ((ffmt t).decode a)
  roundTy fmt t r n

/-- VDIV's element (R199, R229). -/
def divElt (fmt : Word) (t a b : Nat) : Nat × Nat :=
  let (r, n) := fvDiv ((ffmt t).decode a) ((ffmt t).decode b)
  roundTy fmt t r n

/-! ### Logic, shifts, compares, conversions -/

/-- A shift's element: 0 left, 1 right logical, 2 right arithmetic (R233). -/
def shiftElt (w op a b : Nat) : Nat :=
  let s := b % w
  match op with
  | 0 => (a <<< s) % 2 ^ w
  | 1 => a >>> s
  | _ => let v : Int := if 2 ^ (w - 1) ≤ a then (a : Int) - (2 ^ w : Nat) else a
         ((v >>> s) % ((2 ^ w : Nat) : Int)).toNat

/-- A compare's bit: 0 equal, 1 less, 2 less or equal (R234). -/
def cmpElt (t op a b : Nat) : Bool :=
  if tyF t then
    let (u, v) := ((ffmt t).decode a, (ffmt t).decode b)
    u != .nan && v != .nan && (match op with | 0 => fvEq u v | 1 => fvLt u v | _ => !fvLt v u)
  else
    let (u, v) := ((ifmt t).decode a, (ifmt t).decode b)
    match op with | 0 => u == v | 1 => decide (u < v) | _ => decide (u ≤ v)

/-- A conversion from type `u` to type `t` (R99). -/
def convElt (fmt : Word) (t u a : Nat) : Nat × Nat :=
  match tyF u, tyF t with
  | true, true => roundTy fmt t ((ffmt u).decode a).ex 0
  | true, false => let (v, f) := (ifmt t).round (fmtRm fmt) ((ffmt u).decode a).ex; ((ifmt t).encode v, f)
  | false, true => roundTy fmt t (intEx ((ifmt u).decode a)) 0
  | false, false => let (v, out) := (ifmt t).clamp ((ifmt u).decode a); ((ifmt t).encode v, if out then fIS else 0)

/-- The FP32 pattern of a floating element, exactly (R239). -/
def toF32 (t a : Nat) : Nat := (f32.roundNE ((ffmt t).decode a).ex).1

end Sys2Proof.Machine
end

