-- ==== Sys2Proof/Machine/Wide.lean ====
section
/-! DEFINITION. The wide side (R21, R224): what a vector or mask instruction reads and what it does when its dispatch-queue
entry reaches the head (R229 to R241, R246, R247, R261, R262). -/

namespace Sys2Proof.Machine

/-! ### Accumulators (R250) -/

/-- Element `e` = 16i + j of an accumulator, as a 32-bit pattern. -/
def Ctx.accElt (x : Ctx) (a e : Nat) : Nat := (mget x.areg a 0).toNat >>> (32 * e) % 2 ^ 32

/-- Writes an accumulator whole: its elements, mode (true: INT32), and full. -/
def Ctx.putAcc (x : Ctx) (a : Nat) (vals : List Nat) (int : Bool) : Ctx :=
  { x with
    areg := mset x.areg a (BitVec.ofNat 8192 (vals.foldr (fun v acc => v % 2 ^ 32 + acc <<< 32) 0))
    aInt := putBit x.aInt a int
    aFull := putBit x.aFull a true }

/-- Whether a context's accumulators are in use by accepted commands (R260). -/
def State.accsBusy (s : State) (c : Nat) : Bool := s.allCmds.any (fun uk => (uk.2.acc.map (·.1)) == some c)

/-- Whether an accepted operation on an accumulator is not complete (R259). -/
def State.accBusy (s : State) (c a : Nat) : Bool := s.allCmds.any (fun uk => uk.2.acc == some (c, a))

/-! ### Groups named by an instruction -/

/-- The registers of a group. -/
def grp (v : BitVec 5) (n : Nat) : List Nat := rangeFrom v.toNat n

/-- A group unless the operand is a broadcast scalar. -/
def grpB (b : BitVec 5) (s : BitVec 1) (n : Nat) : List Nat := if s.toNat = 1 then [] else grp b n

/-- The vector registers an entry reads at the head of the queue (R224). -/
def wideSrcs (i : Instr) : List Nat :=
  match i with
  | .vadd _ a b _ g s _ | .vsub _ a b _ g s _ | .vmul _ a b _ g s _ | .vmin _ a b _ g s _ | .vmax _ a b _ g s _
  | .vdiv _ a b _ g s _ | .vand _ a b _ g s _ | .vor _ a b _ g s _ | .vxor _ a b _ g s _ | .vshl _ a b _ g s _
  | .vshr _ a b _ g s _ | .vsra _ a b _ g s _ | .vsel _ a b _ g s _ | .vperm _ a b _ g s _ =>
    grp a (groupOf g) ++ grpB b s (groupOf g)
  | .vcmpeq _ a b _ g s _ | .vcmplt _ a b _ g s _ | .vcmple _ a b _ g s _ => grp a (groupOf g) ++ grpB b s (groupOf g)
  | .vfma d a b _ g s _ | .vfms d a b _ g s _ => grp d (groupOf g) ++ grp a (groupOf g) ++ grpB b s (groupOf g)
  | .vabs _ a _ g _ | .vneg _ a _ g _ | .vsqrt _ a _ g _ | .vrsqrt _ a _ g _ | .vrcp _ a _ g _ | .vexp2 _ a _ g _
  | .vlog2 _ a _ g _ | .vtanh _ a _ g _ | .vredsum _ a _ g _ | .vredmax _ a _ g _ | .vredmin _ a _ g _
  | .vargmax _ a _ g _ | .vmv _ a _ g _ => grp a (groupOf g)
  | .vcvt _ a u _ g t => grp a (cvtGroup (groupOf g) t u)
  | .vslideu _ a _ g _ _ | .vslided _ a _ g _ _ | .vbcast _ a _ g _ _ => grp a (groupOf g)
  | .vtopk _ a _ _ g _ => grp a (groupOf g)
  | .vmta _ a _ _ => grp a 4
  | .vext _ a _ _ _ => grp a 2
  | .vst d _ _ _ g _ _ | .vsts d _ _ _ g _ _ | .vscat d _ _ _ g _ _ | .vscadd d _ _ _ g _ _ => grp d (groupOf g)
  | .aldV _ v t => grp v (accGroup t)
  | _ => []

/-- The masks an entry reads at the head: its predicate, and those it computes with. Loads and stores to addresses read theirs when they
resolve. -/
def wideMasks (i : Instr) : List Nat :=
  match i with
  | .vadd _ _ _ k _ _ _ | .vsub _ _ _ k _ _ _ | .vmul _ _ _ k _ _ _ | .vfma _ _ _ k _ _ _ | .vfms _ _ _ k _ _ _
  | .vmin _ _ _ k _ _ _ | .vmax _ _ _ k _ _ _ | .vdiv _ _ _ k _ _ _ | .vand _ _ _ k _ _ _ | .vor _ _ _ k _ _ _
  | .vxor _ _ _ k _ _ _ | .vshl _ _ _ k _ _ _ | .vshr _ _ _ k _ _ _ | .vsra _ _ _ k _ _ _ | .vsel _ _ _ k _ _ _
  | .vperm _ _ _ k _ _ _ | .vcmpeq _ _ _ k _ _ _ | .vcmplt _ _ _ k _ _ _ | .vcmple _ _ _ k _ _ _ => [k.toNat]
  | .vabs _ _ k _ _ | .vneg _ _ k _ _ | .vsqrt _ _ k _ _ | .vrsqrt _ _ k _ _ | .vrcp _ _ k _ _ | .vexp2 _ _ k _ _
  | .vlog2 _ _ k _ _ | .vtanh _ _ k _ _ | .vredsum _ _ k _ _ | .vredmax _ _ k _ _ | .vredmin _ _ k _ _
  | .vargmax _ _ k _ _ | .vmv _ _ k _ _ | .vmvScalar _ _ k _ _ => [k.toNat]
  | .vcvt _ _ _ k _ _ | .vtopk _ _ _ k _ _ => [k.toNat]
  | .vslideu _ _ k _ _ _ | .vslided _ _ k _ _ _ | .vbcast _ _ k _ _ _ => [k.toNat]
  | .vmfa _ _ k _ | .vmta _ _ k _ | .vext _ _ k _ _ => [k.toNat]
  | .viota _ a k _ _ => [a.toNat, k.toNat]
  | .kand _ a b | .kor _ a b => [a.toNat, b.toNat]
  | .knot _ a | .kpop _ a | .kfirst _ a => [a.toNat]
  | .kst d _ _ _ => [d.toNat]
  | _ => []

/-- The accumulator an entry reads or writes, and whether it waits while that is empty (R250, R259). -/
def wideAcc (i : Instr) : Option (Nat × Bool) :=
  match i with
  | .vmfa _ a _ _ => some (a.toNat, true)
  | .vmta d _ _ _ => some (d.toNat, false)
  | .ald d _ _ _ => some (d.toNat, false)
  | .aldV d _ _ => some (d.toNat, false)
  | .ast _ c _ _ _ _ | .astV _ c _ _ => some (c.toNat, true)
  | _ => none

/-- The vector registers and the mask an entry writes, for the loads and stores that wait for them at issue. -/
def wideDests (i : Instr) : List Nat × Option Nat :=
  match i with
  | .vcmpeq m _ _ _ _ _ _ | .vcmplt m _ _ _ _ _ _ | .vcmple m _ _ _ _ _ _ => ([], some m.toNat)
  | .kand d _ _ | .kor d _ _ | .knot d _ => ([], some d.toNat)
  | .vscat _ _ _ k _ _ _ | .vscadd _ _ _ k _ _ _ => ([], some k.toNat)
  | .vadd d _ _ _ g _ _ | .vsub d _ _ _ g _ _ | .vmul d _ _ _ g _ _ | .vmin d _ _ _ g _ _ | .vmax d _ _ _ g _ _
  | .vdiv d _ _ _ g _ _ | .vand d _ _ _ g _ _ | .vor d _ _ _ g _ _ | .vxor d _ _ _ g _ _ | .vshl d _ _ _ g _ _
  | .vshr d _ _ _ g _ _ | .vsra d _ _ _ g _ _ | .vsel d _ _ _ g _ _ | .vperm d _ _ _ g _ _
  | .vfma d _ _ _ g _ _ | .vfms d _ _ _ g _ _ => (grp d (groupOf g), none)
  | .vabs d _ _ g _ | .vneg d _ _ g _ | .vsqrt d _ _ g _ | .vrsqrt d _ _ g _ | .vrcp d _ _ g _ | .vexp2 d _ _ g _
  | .vlog2 d _ _ g _ | .vtanh d _ _ g _ | .vmv d _ _ g _ | .vmvScalar d _ _ g _ => (grp d (groupOf g), none)
  | .vcvt d _ _ _ g _ => (grp d (groupOf g), none)
  | .viota d _ _ g _ => (grp d (groupOf g), none)
  | .vslideu d _ _ g _ _ | .vslided d _ _ g _ _ | .vbcast d _ _ g _ _ => (grp d (groupOf g), none)
  | .vtopk d _ _ _ _ _ => (grp d 2, none)
  | .vmfa d _ _ _ => (grp d 4, none)
  | .vext d _ _ _ _ => (grp d 1, none)
  | .astV v _ _ t => (grp v (accGroup t), none)
  | _ => ([], none)

/-! ### What each instruction does (R229 to R241) -/

/-- The inputs of an instruction at the head: fmt.cfg at issue, and the scalars read at issue. -/
structure WideIn where
  fmt : Word
  sc : List Word

/-- The broadcast element of R166. -/
def WideIn.bcast (q : WideIn) (w : Nat) : Nat := (q.sc.getD 0 0).toNat % 2 ^ w

/-- Element `e` of vb, or the broadcast scalar (R166). -/
def Ctx.bElt (x : Ctx) (q : WideIn) (b : BitVec 5) (s : BitVec 1) (w e : Nat) : Nat :=
  if s.toNat = 1 then q.bcast w else x.elt b.toNat w e

/-- An element-wise instruction of two sources. -/
def vBin (x : Ctx) (q : WideIn) (d a b : BitVec 5) (k : BitVec 3) (g : BitVec 2) (s : BitVec 1) (t : BitVec 3)
    (f : Nat → Nat → Nat → Nat × Nat) : Ctx :=
  let w := tyWidth t
  x.elemwise d.toNat k.toNat w (groupOf g * lanes w) (fun e => f (x.elt a.toNat w e) (x.bElt q b s w e) (x.elt d.toNat w e))

/-- An element-wise instruction of one source. -/
def vUn (x : Ctx) (d a : BitVec 5) (k : BitVec 3) (g : BitVec 2) (t : BitVec 3) (f : Nat → Nat × Nat) : Ctx :=
  let w := tyWidth t
  x.elemwise d.toNat k.toNat w (groupOf g * lanes w) (fun e => f (x.elt a.toNat w e))

/-- A pattern with no flag. -/
def noFlag (v : Nat) : Nat × Nat := (v, 0)

/-- A mask from a predicate on its bits. -/
def maskOf (f : Nat → Bool) : BitVec 256 := BitVec.ofNat 256 ((List.range 256).foldr (fun e acc => b2n (f e) + 2 * acc) 0)

/-- A compare (R234). -/
def vCmp (x : Ctx) (q : WideIn) (m : BitVec 3) (a b : BitVec 5) (k : BitVec 3) (g : BitVec 2) (s : BitVec 1) (t : BitVec 3) (op : Nat) : Ctx :=
  let w := tyWidth t
  x.setK m.toNat (maskOf (fun e =>
    e < groupOf g * lanes w && activeE (x.k k.toNat) e && cmpElt t.toNat op (x.elt a.toNat w e) (x.bElt q b s w e)))

/-- The lower half and upper half of the reduction tree, level by level (R239). -/
def sumTree (fmt : Word) : Nat → List Nat → List Nat × Nat
  | 0, l => (l, 0)
  | n + 1, l =>
    let m := l.length / 2
    let r := (List.zipWith (fun a b =>
      f32.round (fmtRm fmt) (fmtSat fmt) ((fvAdd (fmtRm fmt) (f32.decode a) (f32.decode b)).1.ex)) (l.take m) (l.drop m))
    let nv := (List.zipWith (fun a b => (fvAdd (fmtRm fmt) (f32.decode a) (f32.decode b)).2) (l.take m) (l.drop m)).foldl Nat.lor 0
    let (z, f) := sumTree fmt n (r.map (·.1))
    (z, Nat.lor (Nat.lor f nv) (r.foldl (fun a e => Nat.lor a e.2) 0))

/-- VREDSUM's value and flags (R239). -/
def redSum (fmt : Word) (t : Nat) (leaves : List (Option Nat)) : Word × Nat :=
  if tyF t then
    let (z, f) := sumTree fmt (Nat.log2 leaves.length) (leaves.map (fun o => match o with | some a => toF32 t a | none => 2 ^ 31))
    (w64 (z.headD 0), f)
  else (BitVec.ofInt 64 (leaves.foldl (fun acc o => match o with | some a => acc + (ifmt t).decode a | none => acc) 0), 0)

/-- The better of two values for VREDMAX or VREDMIN, signed zeros ordered (R239). -/
def better (isMax : Bool) (a b : FV) : FV := if isMax then (if fvBefore a b then b else a) else (if fvBefore b a then b else a)

/-- VREDMAX and VREDMIN (R239). -/
def redExt (isMax : Bool) (t : Nat) (leaves : List (Option Nat)) : Word :=
  let act := leaves.filterMap id
  if tyF t then
    let v := act.map (fun a => f32.decode (toF32 t a))
    let r := if v.any (· == .nan) then FV.nan else v.foldl (better isMax) (.inf isMax)
    w64 (f32.roundNE r.ex).1
  else
    let f := ifmt t
    let r := act.foldl (fun acc a => if isMax then max acc (f.decode a) else min acc (f.decode a)) (if isMax then f.lo else f.hi)
    BitVec.ofInt 64 r

/-- VARGMAX: the element chosen so far and its value (R239). -/
def argMaxFrom (t : Nat) (best : Option (Nat × Nat)) : Nat → List (Option Nat) → Option (Nat × Nat)
  | _, [] => best
  | e, o :: l =>
    let next := match o with
      | none => best
      | some a =>
        if tyF t then
          let v := (ffmt t).decode a
          if v = .nan then best else match best with
            | none => some (e, a)
            | some b => if fvBefore ((ffmt t).decode b.2) v then some (e, a) else best
        else match best with
          | none => some (e, a)
          | some b => if (ifmt t).decode b.2 < (ifmt t).decode a then some (e, a) else best
    argMaxFrom t next (e + 1) l

/-- The leaves of a reduction: active elements, and none for the others. -/
def Ctx.leaves (x : Ctx) (a : BitVec 5) (k : BitVec 3) (g : BitVec 2) (t : BitVec 3) : List (Option Nat) :=
  let w := tyWidth t
  (List.range (groupOf g * lanes w)).map (fun e => if activeE (x.k k.toNat) e then some (x.elt a.toNat w e) else none)

/-- Inserts a candidate into a list ordered largest first, lower elements first among equals (R240). -/
def topInsert (t : Nat) (c : Nat × Nat) : List (Nat × Nat) → List (Nat × Nat)
  | [] => [c]
  | h :: l => if fvLt ((ffmt t).decode h.2) ((ffmt t).decode c.2) then c :: h :: l else h :: topInsert t c l

/-- VTOPK (R240). -/
def topK (x : Ctx) (q : WideIn) (d a : BitVec 5) (k : BitVec 3) (g : BitVec 2) (t : BitVec 3) : Ctx :=
  let c := min (q.sc.getD 0 0).toNat 64
  let cand := ((x.leaves a k g t).zipIdx.filterMap (fun o => match o.1 with
    | some v => if (ffmt t.toNat).decode v = .nan then none else some (o.2, v)
    | none => none)).foldl (fun l y => topInsert t.toNat y l) []
  let top := cand.take c
  let vals := (List.range 64).map (fun i => match top[i]? with | some y => toF32 t.toNat y.2 | none => 0xFF800000)
  let idxs := (List.range 64).map (fun i => match top[i]? with | some y => y.1 | none => 0xFFFFFFFF)
  x.putGroup d.toNat 32 (vals ++ idxs)

/-- VIOTA's count below bit `e` (R237): masks of k0 are all ones. -/
def maskBelow (m : BitVec 256) (e : Nat) : Nat := ((List.range e).filter (fun i => bit m i)).length

/-- AST's element: Round of the accumulator element to a type (R262). -/
def astElt (fmt : Word) (int : Bool) (t a : Nat) : Nat × Nat := convElt fmt t (if int then 4 else 0) a

/-- ALD's element widened into the accumulator (R262). -/
def aldElt (t a : Nat) : Nat := if tyF t then toF32 t a else ((ifmt 4).encode ((ifmt t).decode a))

/-- What an instruction does at the head: the context after it, and a scalar result with its register. -/
def wideEffect (i : Instr) (q : WideIn) (x : Ctx) : Ctx × Option (Nat × Word) :=
  let fm := q.fmt
  match i with
  | .vadd d a b k g s t => (vBin x q d a b k g s t (fun u v _ => arith fm t.toNat (fvAdd (fmtRm fm)) (· + ·) u v), none)
  | .vsub d a b k g s t => (vBin x q d a b k g s t (fun u v _ => arith fm t.toNat (fun y z => fvAdd (fmtRm fm) y z.negate) (· - ·) u v), none)
  | .vmul d a b k g s t => (vBin x q d a b k g s t (fun u v _ => arith fm t.toNat fvMul (· * ·) u v), none)
  | .vfma d a b k g s t => (vBin x q d a b k g s t (fun u v c => fused fm t.toNat false u v c), none)
  | .vfms d a b k g s t => (vBin x q d a b k g s t (fun u v c => fused fm t.toNat true u v c), none)
  | .vmin d a b k g s t => (vBin x q d a b k g s t (fun u v _ => minMax t.toNat true u v), none)
  | .vmax d a b k g s t => (vBin x q d a b k g s t (fun u v _ => minMax t.toNat false u v), none)
  | .vdiv d a b k g s t => (vBin x q d a b k g s t (fun u v _ => divElt fm t.toNat u v), none)
  | .vabs d a k g t => (vUn x d a k g t (absNeg fm t.toNat true), none)
  | .vneg d a k g t => (vUn x d a k g t (absNeg fm t.toNat false), none)
  | .vsqrt d a k g t => (vUn x d a k g t (unaryElt fm t.toNat 0), none)
  | .vrsqrt d a k g t => (vUn x d a k g t (unaryElt fm t.toNat 1), none)
  | .vrcp d a k g t => (vUn x d a k g t (unaryElt fm t.toNat 2), none)
  | .vexp2 d a k g t => (vUn x d a k g t (unaryElt fm t.toNat 3), none)
  | .vlog2 d a k g t => (vUn x d a k g t (unaryElt fm t.toNat 4), none)
  | .vtanh d a k g t => (vUn x d a k g t (unaryElt fm t.toNat 5), none)
  | .vand d a b k g s t => (vBin x q d a b k g s t (fun u v _ => noFlag (Nat.land u v)), none)
  | .vor d a b k g s t => (vBin x q d a b k g s t (fun u v _ => noFlag (Nat.lor u v)), none)
  | .vxor d a b k g s t => (vBin x q d a b k g s t (fun u v _ => noFlag (Nat.xor u v)), none)
  | .vshl d a b k g s t => (vBin x q d a b k g s t (fun u v _ => noFlag (shiftElt (tyWidth t) 0 u v)), none)
  | .vshr d a b k g s t => (vBin x q d a b k g s t (fun u v _ => noFlag (shiftElt (tyWidth t) 1 u v)), none)
  | .vsra d a b k g s t => (vBin x q d a b k g s t (fun u v _ => noFlag (shiftElt (tyWidth t) 2 u v)), none)
  | .vcmpeq m a b k g s t => (vCmp x q m a b k g s t 0, none)
  | .vcmplt m a b k g s t => (vCmp x q m a b k g s t 1, none)
  | .vcmple m a b k g s t => (vCmp x q m a b k g s t 2, none)
  | .vcvt d a u k g t =>
    (x.elemwise d.toNat k.toNat (tyWidth t) (groupOf g * tyLanes t) (fun e => convElt fm t.toNat u.toNat (x.elt a.toNat (tyWidth u) e)), none)
  | .vsel d a b k g s t =>
    let w := tyWidth t
    (x.putGroup d.toNat w ((List.range (groupOf g * lanes w)).map (fun e =>
      if activeE (x.k k.toNat) e then x.elt a.toNat w e else x.bElt q b s w e)), none)
  | .vredsum d a k g t =>
    let (v, f) := redSum fm t.toNat (x.leaves a k g t)
    (x.accrue f, some (d.toNat, v))
  | .vredmax d a k g t => (x, some (d.toNat, redExt true t.toNat (x.leaves a k g t)))
  | .vredmin d a k g t => (x, some (d.toNat, redExt false t.toNat (x.leaves a k g t)))
  | .vargmax d a k g t =>
    (x, some (d.toNat, match argMaxFrom t.toNat none 0 (x.leaves a k g t) with | some r => w64 r.1 | none => BitVec.allOnes 64))
  | .vperm d a b k g s t =>
    let w := tyWidth t
    let n := groupOf g * lanes w
    (x.elemwise d.toNat k.toNat w n (fun e =>
      let j := x.bElt q b s w e
      noFlag (if j < n then x.elt a.toNat w j else 0)), none)
  | .vslideu d a k g t i =>
    let w := tyWidth t
    (x.elemwise d.toNat k.toNat w (groupOf g * lanes w) (fun e =>
      noFlag (if i.toNat ≤ e then x.elt a.toNat w (e - i.toNat) else x.elt d.toNat w e)), none)
  | .vslided d a k g t i =>
    let w := tyWidth t
    let n := groupOf g * lanes w
    (x.elemwise d.toNat k.toNat w n (fun e =>
      noFlag (if e + i.toNat < n then x.elt a.toNat w (e + i.toNat) else x.elt d.toNat w e)), none)
  | .vbcast d a k g t i =>
    let w := tyWidth t
    (x.elemwise d.toNat k.toNat w (groupOf g * lanes w) (fun _ => noFlag (x.elt a.toNat w i.toNat)), none)
  | .viota d a k g t =>
    let w := tyWidth t
    (x.elemwise d.toNat k.toNat w (groupOf g * lanes w) (fun e => noFlag (maskBelow (x.k a.toNat) e)), none)
  | .vmv d a k g t => (vUn x d a k g t noFlag, none)
  | .vmvScalar d _ k g t =>
    let w := tyWidth t
    (x.elemwise d.toNat k.toNat w (groupOf g * lanes w) (fun _ => noFlag (q.bcast w)), none)
  | .vtopk d a _ k g t => (topK x q d a k g t, none)
  | .vmfa d a k _ => (x.elemwise d.toNat k.toNat 32 256 (fun e => noFlag (x.accElt a.toNat e)), none)
  | .vmta d a k t =>
    (x.putAcc d.toNat ((List.range 256).map (fun e => if activeE (x.k k.toNat) e then x.elt a.toNat 32 e else x.accElt d.toNat e)) (!tyF t.toNat), none)
  | .vext d a k t i =>
    let w := tyWidth t
    let o := i.toNat * lanes w / 64
    (x.elemwise d.toNat k.toNat w (lanes w) (fun j => noFlag (x.elt a.toNat w (j + o))), none)
  | .kand d a b => (x.setK d.toNat (x.k a.toNat &&& x.k b.toNat), none)
  | .kor d a b => (x.setK d.toNat (x.k a.toNat ||| x.k b.toNat), none)
  | .knot d a => (x.setK d.toNat (~~~ x.k a.toNat), none)
  | .kpop d a => (x, some (d.toNat, w64 (popCount (x.k a.toNat))))
  | .kfirst d a => (x, some (d.toNat, match (List.range 256).find? (fun i => bit (x.k a.toNat) i) with | some i => w64 i | none => BitVec.allOnes 64))
  | .aldV d v t =>
    (x.putAcc d.toNat ((List.range 256).map (fun e => aldElt t.toNat (x.elt v.toNat (tyWidth t) e))) (!tyF t.toNat), none)
  | .astV v c e t =>
    let r := (List.range 256).map (fun j => astElt fm (bit x.aInt c.toNat) t.toNat (x.accElt c.toNat j))
    let y := (x.putGroup v.toNat (tyWidth t) (r.map (·.1))).accrue (r.foldl (fun a z => Nat.lor a z.2) 0)
    (if e.toNat = 1 then { y with aFull := putBit y.aFull c.toNat false } else y, none)
  | _ => (x, none)

/-- The data a store takes at the head, by the number of its element: patterns and flags. -/
def storeElt (i : Instr) (fmt : Word) (x : Ctx) (e : Nat) : Nat × Nat :=
  match i with
  | .vst d _ _ _ _ _ t | .vsts d _ _ _ _ _ t | .vscat d _ _ _ _ _ t | .vscadd d _ _ _ _ _ t => noFlag (x.elt d.toNat (tyWidth t) e)
  | .kst d _ _ _ => noFlag ((x.k d.toNat >>> (64 * e)).toNat % 2 ^ 64)
  | .ast _ c _ _ _ t => astElt fmt (bit x.aInt c.toNat) t.toNat (x.accElt c.toNat e)
  | _ => (0, 0)

/-- The mask a scatter writes, and the accumulator AST empties, once it has taken its data. -/
def storeAfterEffect (i : Instr) (bad : BitVec 256) (x : Ctx) : Ctx :=
  match i with
  | .vscat _ _ _ k _ _ _ | .vscadd _ _ _ k _ _ _ => x.setK k.toNat bad
  | .ast _ c _ e _ _ => if e.toNat = 1 then { x with aFull := putBit x.aFull c.toNat false } else x
  | _ => x

/-- A store's entry takes its data (R243): each piece holds the number of its element until then. -/
def State.takeData (s : State) (c n : Nat) (i : Instr) (fmt : Word) : State :=
  let x := s.ctx c
  s.modUnit (s.unitOf c) (fun u => { u with sb := u.sb.map (fun e =>
    if e.id = n then { e with data := true, pieces := e.pieces.map (fun p => { p with data := (storeElt i fmt x p.data).1 }) } else e) })

/-- The flags a store's data raise. -/
def State.takeFlags (s : State) (c n : Nat) (i : Instr) (fmt : Word) : Nat :=
  let x := s.ctx c
  (((s.unit (s.unitOf c)).sb.filter (fun e => e.id == n)).flatMap (·.pieces)).foldl (fun a p => Nat.lor a (storeElt i fmt x p.data).2) 0

/-! ### The head of the queue -/

/-- Whether the sources of an entry are there (R224, R259). -/
def State.wideReady (s : State) (c : Nat) (i : Instr) : Bool :=
  let x := s.ctx c
  (wideSrcs i).all (fun v => bit x.vFull v) &&
    (match wideAcc i with
      | some (a, w) => !s.accBusy c a && (!w || bit x.aFull a)
      | none => true)

/-- Whether the accumulator operation at the head of a context's queue has been accepted: it waits for nothing but the operations
accepted before it (R257, R259). One that waits on an empty register has not started (R226). -/
def State.headAccepted (s : State) (c a : Nat) : Bool :=
  let x := s.ctx c
  match x.dq with
  | e :: _ =>
    (match decode e.word with
      | .instr i => (wideSrcs i).all (fun v => bit x.vFull v) &&
          (match wideAcc i with | some (b, w) => b == a && (!w || bit x.aFull a || s.accBusy c a) | none => false)
      | .illegal _ => false)
  | [] => false

/-- What an entry reads at the head, as R364 codes it (R383): itself, other context state, and its registers. -/
def wideRegs (i : Instr) : List Nat :=
  7 * 256 :: (wideSrcs i).map (2 * 256 + ·) ++ (wideMasks i).map (3 * 256 + ·) ++ (match wideAcc i with | some (a, true) => [4 * 256 + a] | _ => [])

/-- The register of an entry with an uncorrectable error (R383). -/
def State.wideErr (s : State) (c : Nat) (i : Instr) : Option Nat := (wideRegs i).find? (fun r => mget s.regErr (c * 4096 + r) 0 == 2)

/-- The correctable errors of an entry's registers are corrected, each with a record (R383). -/
def State.wideFix (s : State) (c : Nat) (i : Instr) : State :=
  (wideRegs i).foldl (fun s r =>
    if mget s.regErr (c * 4096 + r) 0 == 1 then
      ({ s with regErr := mdel s.regErr (c * 4096 + r) }).logR (clusterOf (s.unitOf c)) 0x40 (w64 r)
    else s) s

/-- Executes the entry at the head of a context's dispatch queue (R224), if it can: a store takes its data, any other writes
its results; a result for a scalar register goes on its way (R167). An entry still to be issued waits for its slot's turn. -/
def State.wideHead (s : State) (c : Nat) : Option State :=
  let x := s.ctx c
  match x.dq with
  | [] => none
  | e :: rest =>
    match decode e.word with
    | .illegal _ => some (s.setCtx c { x with dq := rest })
    | .instr i =>
      if e.unissued || !s.wideReady c i then none
      else match s.wideErr c i with
        | some r => some ((s.dropQueue c 0).modDir c (fun d => { d with async := d.async ++ [{ cause := 0x41, addr := w64 r, pc := e.pc }] }))
        | none =>
          let s := s.wideFix c i
          match e.store with
          | some n =>
            let f := s.takeFlags c n i e.fmt
            some ((s.takeData c n i e.fmt).modCtx c (fun y => (storeAfterEffect i e.bad { y with dq := rest }).accrue f))
          | none =>
            let (y, r) := wideEffect i { fmt := e.fmt, sc := e.scalars } { x with dq := rest }
            some (s.setCtx c (match r with | some r => { y with results := y.results ++ [r] } | none => y))

/-- Whether a context stands in a slot. -/
def State.inSlot (s : State) (c : Nat) : Bool := match (s.dirE c).place with | .slot _ _ => true | _ => false

/-! ### Issue into the queue (R21, R166, R167) -/

/-- Enters the executing word in the dispatch queue, which holds four, with its scalar operands as read at issue (R226). -/
def enqueue (scalars : List Word) : M Unit := do
  let s ← get
  let x := s.ctx s.cur
  stallUnless (x.dq.length < 4) wDispatch
  modC (fun x => { x with dq := x.dq ++ [{ word := s.insn, pc := x.pc, scalars := scalars, fmt := x.fmt }] })

/-- Issue of an instruction whose vb may be a broadcast scalar. -/
def enqB (b : BitVec 5) (s : BitVec 1) : M Unit := do
  if s.toNat = 1 then do
    let v ← rdS b
    enqueue [v]
  else enqueue []

/-- Issue of an instruction that returns a scalar: its register becomes empty and outstanding (R167). -/
def enqResult (d : BitVec 5) : M Unit := do
  needD d
  enqueue []
  if d.toNat = 0 then pure ()
  else do
    modC (fun x => { x with sFull := putBit x.sFull d.toNat false, outst := putBit x.outst d.toNat true })
    modify (fun s => s.applyHeld s.cur 0 d.toNat)

/-- The scalar operands of a wide instruction: read now, or as they were read when it entered the queue (R226). -/
def wideScalars (srcs : List (BitVec 5)) : M (List Word) := do
  let x ← getC
  match x.nextWide with
  | some e => pure e.1.scalars
  | none => do
    srcs.forM needS
    srcs.mapM rdS

/-- A wide instruction that runs at the head of the dispatch queue (R224, R253, R276): with nothing ahead of it, it runs at its issue;
else it enters the queue and runs when it comes to the head, before the context issues anything else (log 13). `now` says whether it
need not wait there. -/
def atHead (srcs : List (BitVec 5)) (now : State → Bool) (body : List Word → M Unit) : M Unit := do
  let s ← get
  let sc ← wideScalars srcs
  match (s.ctx s.cur).nextWide with
  | some e => do
    stallUnless (e.2 == 0) wDispatch
    regCheck 7 0
    body sc
    modC (fun x => { x with dq := x.dq.tail })
  | none => if (s.ctx s.cur).dq.isEmpty && now s then body sc else enqueue sc

/-- The first operand of a list, and the second. -/
def op0 (l : List Word) : Word := l.getD 0 0
def op1 (l : List Word) : Word := l.getD 1 0

/-- Whether an entry ahead not yet executed writes a mask or one of some vector registers. -/
def Ctx.dqWrites (x : Ctx) (k : Nat) (regs : List Nat) : Bool :=
  x.dqAhead.any (fun e => match decode e.word with
    | .instr i => let (r, m) := wideDests i; (k != 0 && m == some k) || r.any (fun v => regs.contains v)
    | .illegal _ => false)

/-- WIDE_INSTRUCTION_AT_HEAD (R224). The queue that a reset context left behind waits for nothing but the accepted commands before it;
what is then not ready has no register to come and goes (R342, log 59). -/
def execWideInstructionAtHead (s : State) :=
  runEvent (do
    let s ← get
    enabled (s.inSlot s.arg.n0 || 2 ^ 32 ≤ s.arg.n0)
    match s.wideHead s.arg.n0 with
    | some s' => set s'
    | none => do
      enabled (2 ^ 32 ≤ s.arg.n0 && !(s.ctx s.arg.n0).dq.isEmpty && !s.accsBusy s.arg.n0)
      set (s.dropQueue s.arg.n0 0)) s

/-- The oldest scalar result of a context reaches its register (R167). -/
def State.returnResult (s : State) (c : Nat) : State :=
  s.modCtx c (fun x => match x.results with
    | [] => x
    | (r, v) :: rest => { (x.setS r v) with results := rest, outst := putBit x.outst r (rest.any (fun q => q.1 == r)) })

/-- SCALAR_RESULT_RETURN (R167). -/
def execScalarResultReturn (s : State) :=
  runEvent (do
    let s ← get
    enabled (!(s.ctx s.arg.n0).results.isEmpty)
    set ((s.returnResult s.arg.n0).unpark s.arg.n0)) s

end Sys2Proof.Machine
end

