-- ==== Sys2Proof/Machine/Matrix.lean ====
section
/-! DEFINITION. The matrix engine: MMA, MMAZ, MMAS and AZERO from acceptance to effect (R249 to R259, with R102 to R106), and
channel-side GEMV (R265 to R269). -/

namespace Sys2Proof.Machine

/-! ### Formats and shapes (R102, R249, R251) -/

/-- The bits of an element of a matrix operand format (R85), or 0 for a format no matrix command takes (R102). -/
def matWidth (fmt : Nat) : Nat :=
  match fmt with
  | 1 => 16
  | 2 => 16
  | 3 => 8
  | 6 => 8
  | 8 => 4
  | 9 => 4
  | _ => 0

/-- A format whose elements are integers. -/
def matInt (fmt : Nat) : Bool := fmt == 6 || fmt == 8

/-- The kept elements of a group by sparsity class (R120); 0 for a reserved class. -/
def keptOf (spc : Nat) : Nat :=
  match spc with
  | 0 => 64
  | 1 => 8
  | 2 => 16
  | 3 => 32
  | 4 => 48
  | _ => 0

/-- A matrix command's shape (R251). -/
structure MatShape where
  fmt : Nat
  scl : Bool
  spc : Nat
  ncol : Nat
  ncb : Nat
  ksteps : Nat
  sh : Nat
  off : Nat
  masks : Nat

/-- Reads a shape image for a matrix command. -/
def matShape (h : BitVec 512) : MatShape :=
  { fmt := shapeF h 8 % 16, scl := shapeF h 3 % 2 == 1, spc := shapeF h 3 / 2 % 8, ncol := shapeF h 1, ncb := max 1 (shapeF h 2)
    ksteps := shapeF h 9 % 2 ^ 16, sh := shapeF h 10 / 2 ^ 26, off := shapeF h 10 % 2 ^ 26, masks := shapeF h 12 }

/-- Elements in 64 bytes (R249). -/
def MatShape.e (q : MatShape) : Nat := 512 / max 1 (matWidth q.fmt)
/-- Groups of a sparse step (R249). -/
def MatShape.groups (q : MatShape) : Nat := if q.spc = 0 then 0 else q.e / max 1 (keptOf q.spc)
/-- The span of a step in K. -/
def MatShape.span (q : MatShape) : Nat := if q.spc = 0 then q.e else 64 * q.groups
/-- A granules of a step. -/
def MatShape.a (q : MatShape) : Nat := q.span / q.e
/-- The scaled blocks of a command (R255). -/
def MatShape.blocks (q : MatShape) : Nat := q.ksteps * q.span / 128
/-- INT32 mode (R102). -/
def MatShape.int (q : MatShape) : Bool := matInt q.fmt && !q.scl
/-- The bytes of the scale arrays (R255). -/
def MatShape.scaleBytes (q : MatShape) : Nat := 32 * q.blocks + 2 * q.ncb * q.blocks
/-- The bytes of the masks (R256). -/
def MatShape.maskBytes (q : MatShape) : Nat := q.ksteps * q.groups * 16 * 8

/-- The fields of R251 and the combinations of R102 (R253 step 2). -/
def matShapeOk (h : BitVec 512) : Bool :=
  let q := matShape h
  shapeF h 0 == 4 && shapeF h 3 / 16 == 0 && shapeF h 8 / 2 ^ 8 % 256 == 0 && shapeF h 8 / 16 % 4 == 0 && shapeF h 9 / 2 ^ 16 == 0 &&
    matWidth q.fmt != 0 && 1 ≤ q.ksteps && q.ksteps ≤ 64 && keptOf q.spc != 0 && !(q.spc == 4 && matWidth q.fmt == 16) &&
    (q.spc == 0 || q.masks % 8 == 0) &&
    (!q.scl || (matWidth q.fmt != 16 && q.ncol < q.ncb && q.ksteps * q.span % 128 == 0 && q.off % 2 == 0))

/-! ### The accumulator commands as instructions (R252) -/

/-- An accumulator command: 0 MMA, 1 MMAZ, 2 MMAS, 3 AZERO. -/
structure MatOp where
  kind : Nat
  d : Nat
  ha : Nat := 0
  hb : Nat := 0
  h : Nat := 0
  wt : Bool := false
  cb : Bool := false
  ca : Bool := false
  int : Bool := false
deriving DecidableEq, Repr

/-- The accumulator command of an instruction. -/
def matOp (i : Instr) : Option MatOp :=
  let f := fun (k : Nat) (d : BitVec 3) (a b : BitVec 6) (h : BitVec 4) (w v u : BitVec 1) =>
    some { kind := k, d := d.toNat, ha := a.toNat, hb := b.toNat, h := h.toNat, wt := w.toNat == 1, cb := v.toNat == 1, ca := u.toNat == 1 }
  match i with
  | .mma d a b h w v u => f 0 d a b h w v u
  | .mmaz d a b h w v u => f 1 d a b h w v u
  | .mmas d a b h w v u => f 2 d a b h w v u
  | .azeroF32 d => some { kind := 3, d := d.toNat }
  | .azeroI32 d => some { kind := 3, d := d.toNat, int := true }
  | _ => none

/-- The accumulator command a word encodes. -/
def matOpOf (w : BitVec 32) : Option MatOp :=
  match decode w with
  | .instr i => matOp i
  | .illegal _ => none

/-! ### Acceptance (R253) -/

/-- What acceptance answers. -/
inductive MatRes where
  | cause (n : Nat)
  | wait (why : Nat) (sync : Bool)
  | ok (s : State)

/-- The accepted operations on an accumulator, oldest first. -/
def State.accOps (s : State) (c a : Nat) : List Cmd := s.allCmds.filterMap (fun uk => if uk.2.acc == some (c, a) then some uk.2 else none)

/-- The mode an operation leaves, where it sets one (R250). -/
def Cmd.setsMode (k : Cmd) : Option Bool :=
  match matOpOf k.word with
  | some o => if o.kind = 3 then some o.int else if o.kind = 1 then some (matShape k.shape).int else none
  | none => none

/-- The mode of an accumulator after every earlier operation on it (R253 step 5): the commands of one accumulator stand at
one unit, in order of acceptance. -/
def State.accMode (s : State) (c a : Nat) : Bool :=
  (((s.accOps c a).filterMap Cmd.setsMode).getLast?).getD (bit (s.ctx c).aInt a)

/-- Whether an accumulator is full after every earlier operation: each of them leaves it full (R250). -/
def State.accFull (s : State) (c a : Nat) : Bool := bit (s.ctx c).aFull a || s.accBusy c a

/-- The slot at C of a handle, as a home in its unit. -/
def Handle.cLoc (b : Handle) (u : Nat) : Nat := unitLoc u (b.offset b.c)

/-- The footprint of a command that reads the slot at C: the whole slot (R144, log 57). -/
def Handle.cRegion (b : Handle) (u : Nat) : Region := homeRegion (b.cLoc u) (b.ssize * 1024)

/-- Puts a command in the scheduler, if there is room (R253 step 6). -/
def State.matEnter (s : State) (u : Nat) (k : Cmd) : MatRes :=
  match (s.unit u).entryFor (if k.remote then none else s.slotOf k.issuer) with
  | some sl => .ok (s.acceptAt u sl k).1
  | none => .wait wEngine false

/-- Claims the slot at C of a handle (R140, R252). -/
def State.claimC (s : State) (u h : Nat) : State :=
  match mfind (s.unit u).bt h with
  | some b => s.modUnit u (fun x => { x with bt := mset x.bt h (b.setSlots [b.c] 3) })
  | none => s

/-- Advances a handle by one slot on the consumer's side (R141, R252). -/
def State.advanceC (s : State) (u c h : Nat) : State :=
  match mfind (s.unit u).bt h with
  | some b => s.advance1 c h b false 1
  | none => s

/-- Accepts an accumulator command for the accumulator `o.d` of context `c` in unit `u`, on behalf of `k.issuer` (R252, R253). -/
def State.matAccept (s : State) (u c : Nat) (k : Cmd) (o : MatOp) : MatRes :=
  let k := { k with ctx := c, acc := some (c, o.d) }
  if o.kind = 3 then s.matEnter u k else
  let q := matShape k.shape
  let x := s.unit u
  match x.handle k.part o.ha, x.handle k.part o.hb with
  | some a, some b =>
    let sc := if q.scl then x.handle k.part q.sh else some a
    match sc with
    | none => .cause 0x06
    | some g =>
      if !matShapeOk k.shape then .cause 0x07
      else if a.ssize < q.a * q.ksteps || b.ssize < q.ksteps || (q.scl && g.ssize * 1024 < q.off + q.scaleBytes) ||
          (q.spc != 0 && 0x80000 < q.masks + q.maskBytes) then .cause 0x07
      else
        let claimable := fun (h : Handle) => h.slot h.c == 2 || h.slot h.c == 3
        if !o.wt && (a.slot a.c != 3 || b.slot b.c != 3) then .cause 0x06
        else if o.wt && !(claimable a && claimable b) then .wait wHandle true
        else if q.scl && g.slot g.c != 3 && !(o.wt && (q.sh == o.ha || q.sh == o.hb)) then .cause 0x06
        else if o.kind != 1 && !s.accFull c o.d then .wait wReg false
        else if o.kind != 1 && s.accMode c o.d != q.int then .cause 0x07
        else
          let reads := a.cRegion u :: b.cRegion u :: ((if q.scl then [g.cRegion u] else []) ++
              (if q.spc = 0 then [] else [homeRegion (unitLoc u q.masks) q.maskBytes]))
          let k := { k with
            ops := [{ va := 0, home := some (a.cLoc u) }, { va := 0, home := some (b.cLoc u) }, { va := 0, home := some (g.cLoc u + q.off) }]
            reads := reads, cbs := (List.range 4).map (fun i => mget (s.ctx c).cb i 0)
            handles := o.ha :: o.hb :: (if q.scl then [q.sh] else []) }
          match s.matEnter u k with
          | .ok s =>
            let s := if o.wt then (s.claimC u o.ha).claimC u o.hb else s
            let s := if o.ca || (o.cb && o.ha == o.hb) then s.advanceC u c o.ha else s
            .ok (if o.cb && o.ha != o.hb then s.advanceC u c o.hb else s)
          | r => r
  | _, _ => .cause 0x06

/-- An accumulator command at the head of the dispatch queue: it is accepted, waits, or fails a check (R253); what it captures is checked
as it is read (R383). -/
def matAtHead (o : MatOp) : M Unit := do
  let k ← newCmd
  if o.kind = 3 then pure () else regCheck 5 o.h
  let s ← get
  let k := { k with shape := (s.ctx s.cur).h o.h }
  match s.matAccept (s.unitOf s.cur) s.cur k o with
  | .cause n => trapC n
  | .wait why sync => if sync then parkSync why else stall why
  | .ok s' =>
    if o.kind = 3 then set s' else do
      (List.range 4).forM (regCheck 6)
      let s ← get
      match s.matAccept (s.unitOf s.cur) s.cur k o with
      | .ok s' => set s'
      | _ => pure ()

/-- Issue of an accumulator command (R253): it waits for the head of the dispatch queue and for acceptance. -/
def matIssue (o : MatOp) : M Unit := atHead [] (fun _ => true) (fun _ => matAtHead o)

/-- Issue by the instruction itself. -/
def matIssueOf (i : Instr) : M Unit :=
  match matOp i with
  | some o => matIssue o
  | none => pure ()

def execMma (d : BitVec 3) (a b : BitVec 6) (h : BitVec 4) (w v u : BitVec 1) (s : State) :=
  runInstr (.mma d a b h w v u) (matIssueOf (.mma d a b h w v u)) s
def execMmaz (d : BitVec 3) (a b : BitVec 6) (h : BitVec 4) (w v u : BitVec 1) (s : State) :=
  runInstr (.mmaz d a b h w v u) (matIssueOf (.mmaz d a b h w v u)) s
def execMmas (d : BitVec 3) (a b : BitVec 6) (h : BitVec 4) (w v u : BitVec 1) (s : State) :=
  runInstr (.mmas d a b h w v u) (matIssueOf (.mmas d a b h w v u)) s
def execAzeroF32 (d : BitVec 3) (s : State) := runInstr (.azeroF32 d) (matIssueOf (.azeroF32 d)) s
def execAzeroI32 (d : BitVec 3) (s : State) := runInstr (.azeroI32 d) (matIssueOf (.azeroI32 d)) s

/-! ### Exact dot products (R103) -/

/-- The value of an element of a matrix operand (R85, R90, R92): integers have no negative zero. -/
def matDecode (fmt : Nat) (cb : BitVec 256) (x : Nat) : FV :=
  if fmt = 9 then bf16.decode (bits cb (16 * (x % 16) + 15) (16 * (x % 16)))
  else if matInt fmt then let v := (ifmt fmt).decode x; .fin (decide (v < 0)) v.natAbs 0
  else (ffmt fmt).decode x

/-- The whole number an integer element stands for. -/
def FV.whole : FV → Int
  | .fin n m _ => if n then -(m : Int) else m
  | _ => 0

/-- The exact dot product of present pairs, and the flags it raises (R88, R103). -/
def dot (int : Bool) (l : List (FV × FV)) : FV × Nat :=
  if int then
    let v := l.foldl (fun a p => a + p.1.whole * p.2.whole) (0 : Int)
    (.fin (decide (v < 0)) v.natAbs 0, 0)
  else if l.any (fun p => p.1 == .nan || p.2 == .nan) then (.nan, 0)
  else
    let ps := l.map (fun p => (fvMul p.1 p.2).1)
    if ps.any (· == .nan) then (.nan, fNV)
    else match ps with
      | [] => (.fin false 0 0, 0)
      | h :: t => t.foldl (fun a p => let (v, n) := fvAdd 0 a.1 p; (v, Nat.lor a.2 n)) (h, 0)

/-- A product of a sum and its scales, formed exactly (R104). -/
def scaleBy (s : FV) (l : List FV) : FV × Nat :=
  let (v, n) := l.foldl (fun (a : FV × Nat) x => let (v, n) := fvMul a.1 x; (v, Nat.lor a.2 n)) (s, 0)
  (v, nvUnless ((s :: l).any (· == .nan)) n)

/-- Adds a contribution to an FP32 accumulator element, or subtracts it (R104, R254). -/
def accAdd (neg : Bool) (acc : Nat) (s : FV) (flags : Nat) : Nat × Nat :=
  let (c, f) := f32.roundNE s.ex
  let cv := f32.decode c
  let (v, n) := fvAdd 0 (f32.decode acc) (if neg then cv.negate else cv)
  let (r, g) := f32.roundNE v.ex
  (r, Nat.lor (Nat.lor flags f) (Nat.lor n g))

/-- Adds a step's integer sum to an INT32 accumulator element, or subtracts it, saturating with IS (R104, R254). -/
def accAddInt (neg : Bool) (acc : Nat) (s : FV) : Nat × Nat :=
  let x := (ifmt 4).decode acc + (if neg then -s.whole else s.whole)
  let (c, out) := (ifmt 4).clamp x
  ((ifmt 4).encode c, if out then fIS else 0)

/-! ### One step's operands (R254, R256, R257) -/

/-- A granule read as a typed operand: its tag, checked against the one the command wants and the operand's first, then its
bytes (R122, R257). -/
def tileRead (u loc : Nat) (want : BitVec 16) (first : Option (BitVec 16)) : E (Nat × BitVec 16) := do
  let s ← get
  let (s, t) := s.tagRead loc
  set s
  if !bit t 5 then throw 0x1A
  else if t &&& 0xFFF3 != want || (bits t 3 2 != 0 && bits t 15 12 != 9) || (first.any (· != t)) then throw 0x07
  else do
    let d ← engRead u loc 1024
    pure (d, t)

/-- The tag a command wants of an operand's granules, its codebook aside (R120, R257). -/
def wantTag (fmt spc lay : Nat) (scl : Bool) : BitVec 16 := BitVec.ofNat 16 (fmt * 2 ^ 12 + spc * 2 ^ 9 + lay * 2 ^ 6 + 32 + b2n scl * 16)

/-- The elements of one row or column of a granule. -/
def granuleRow (fmt : Nat) (cb : BitVec 256) (g row : Nat) : List FV :=
  let w := matWidth fmt
  (List.range (512 / w)).map (fun k => matDecode fmt cb (g >>> (512 * row + w * k) % 2 ^ w))

/-- Spreads kept elements over the positions a mask names (R106). -/
def spread : List Bool → List FV → List (Option FV)
  | [], _ => []
  | false :: m, l => none :: spread m l
  | true :: m, [] => none :: spread m []
  | true :: m, v :: l => some v :: spread m l

/-- The masks of a column in a step, as presence of each K element (R256). -/
def maskCol (u : Nat) (q : MatShape) (t j : Nat) : E (List Bool) := do
  let ms ← (List.range q.groups).mapM (fun g => do
    let m ← engRead u (unitLoc u (q.masks + 8 * (16 * (q.groups * t + g) + j))) 8
    let b := (List.range 64).map (fun i => m.testBit i)
    if (b.filter id).length = keptOf q.spc then pure b else throw 0x07)
  pure ms.flatten

/-- The A rows and B columns of one step. -/
structure StepIn where
  rows : List (List FV)
  cols : List (List (Option FV))
  ta : BitVec 16
  tb : BitVec 16

/-- Reads step `t` (R254, R256). -/
def stepIn (u : Nat) (k : Cmd) (q : MatShape) (aLoc bLoc t : Nat) (tags : Option (BitVec 16 × BitVec 16)) : E StepIn := do
  let cbOf := fun (g : BitVec 16) => k.cbs.getD (bits g 3 2) 0
  let as ← (List.range q.a).foldlM (fun (acc : List (Nat × BitVec 16)) v => do
    let r ← tileRead u (aLoc + 1024 * (q.a * t + v)) (wantTag q.fmt 0 2 q.scl) ((tags.map (·.1)).or (acc.head?.map (·.2)))
    pure (acc ++ [r])) []
  let (b, tb) ← tileRead u (bLoc + 1024 * t) (wantTag q.fmt q.spc (if q.spc = 0 then 3 else 4) q.scl) (tags.map (·.2))
  let ta := (as.head?.map (·.2)).getD 0
  let rows := (List.range 16).map (fun i => as.flatMap (fun g => granuleRow q.fmt (cbOf ta) g.1 i))
  let cols ← (List.range 16).mapM (fun j => do
    let l := granuleRow q.fmt (cbOf tb) b j
    if q.spc = 0 then pure (l.map some) else do
      let m ← maskCol u q t j
      pure (spread m l))
  pure { rows := rows, cols := cols, ta := ta, tb := tb }

/-! ### Blocks and steps (R104, R254, R255) -/

/-- A command under way: the accumulator, the flags, the block number, and the K elements of the block that has begun. -/
structure MatRun where
  acc : List Nat
  flags : Nat := 0
  block : Nat := 0
  rows : List (List FV) := List.replicate 16 []
  cols : List (List (Option FV)) := List.replicate 16 []
  tags : Option (BitVec 16 × BitVec 16) := none

/-- A BF16 scale in the scale slot, or DBS (R104, R255). -/
def readScale (u : Nat) (k : Cmd) (loc : Nat) : E FV := do
  let v ← engRead u loc 2
  pure (bf16.decode (if bit k.fmt 7 then bits k.fmt 31 16 else v))

/-- The present pairs of a row and a column. -/
def pairsOf (row : List FV) (col : List (Option FV)) : List (FV × FV) := (row.zip col).filterMap (fun p => p.2.map (fun b => (p.1, b)))

/-- Applies one block to every element (R104). -/
def applyBlock (u : Nat) (k : Cmd) (q : MatShape) (neg : Bool) (sLoc len : Nat) (r : MatRun) : E MatRun := do
  let scs ← if q.scl then do
      let sb ← readScale u k (sLoc + 32 * q.blocks + 2 * (q.ncb * r.block + q.ncol))
      let sas ← (List.range 16).mapM (fun i => readScale u k (sLoc + 2 * (q.blocks * i + r.block)))
      pure (sas.map (fun sa => [sa, sb]))
    else pure []
  let cols := r.cols.map (·.take len)
  let res := (r.rows.map (·.take len)).zipIdx.flatMap (fun row => cols.zipIdx.map (fun col =>
    let (s, f) := dot (matInt q.fmt) (pairsOf row.1 col.1)
    let old := r.acc.getD (16 * row.2 + col.2) 0
    if q.int then accAddInt neg old s
    else
      let (v, g) := if q.scl then scaleBy s (scs.getD row.2 []) else (s, 0)
      accAdd neg old v (Nat.lor f g)))
  pure { r with
    acc := res.map (·.1), flags := res.foldl (fun a e => Nat.lor a e.2) r.flags, block := r.block + 1
    rows := r.rows.map (·.drop len), cols := r.cols.map (·.drop len) }

/-- Applies every block whose last element has been read. -/
def applyBlocks (u : Nat) (k : Cmd) (q : MatShape) (neg : Bool) (sLoc len : Nat) : Nat → MatRun → E MatRun
  | 0, r => pure r
  | n + 1, r => do
    if (r.rows.headD []).length < len then pure r else do
      let r ← applyBlock u k q neg sLoc len r
      applyBlocks u k q neg sLoc len n r

/-- One step: its operands are read and its blocks applied; a fault leaves the accumulator as it was (R257). -/
def matStep (u : Nat) (k : Cmd) (q : MatShape) (neg : Bool) (aLoc bLoc sLoc t : Nat) (r : MatRun) : E MatRun := do
  let x ← stepIn u k q aLoc bLoc t r.tags
  let r := { r with
    rows := List.zipWith (· ++ ·) r.rows x.rows, cols := List.zipWith (· ++ ·) r.cols x.cols, tags := some (r.tags.getD (x.ta, x.tb)) }
  applyBlocks u k q neg sLoc (if q.scl then 128 else q.span) 16 r

/-- The steps from `t` on: what they leave, and the cause of the one that faulted. -/
def matSteps (u : Nat) (k : Cmd) (q : MatShape) (neg : Bool) (aLoc bLoc sLoc t : Nat) : Nat → State → MatRun → State × MatRun × Option Nat
  | 0, s, r => (s, r, none)
  | n + 1, s, r =>
    match matStep u k q neg aLoc bLoc sLoc t r s with
    | .ok r s => matSteps u k q neg aLoc bLoc sLoc (t + 1) n s r
    | .error c s => (s, r, some c)

/-- The effect of MMA, MMAZ, MMAS and AZERO as far as `n` steps (R254, R257). -/
def matUpTo (s : State) (u : Nat) (k : Cmd) (o : MatOp) (n : Nat) : CmdRes :=
  let (c, a) := k.acc.getD (k.ctx, o.d)
  if o.kind = 3 then .ok (s.modCtx c (fun x => x.putAcc a (List.replicate 256 0) o.int)) 0 0 0 else
  let q := matShape k.shape
  let x := s.ctx c
  let start := if o.kind = 1 then List.replicate 256 0 else (List.range 256).map (x.accElt a)
  let loc := fun i => (((k.ops.getD i { va := 0 }).home)).getD 0
  let (s, r, f) := matSteps u k q (o.kind == 2) (loc 0) (loc 1) (loc 2) 0 n s { acc := start }
  let s := s.modCtx c (fun x => x.putAcc a r.acc q.int)
  match f with
  | none => .ok s 0 0 r.flags
  | some n => .fault s n 0 0 r.flags

/-- The effect of MMA, MMAZ, MMAS and AZERO. -/
def runMat (s : State) (u : Nat) (k : Cmd) (o : MatOp) : CmdRes := matUpTo s u k o (matShape k.shape).ksteps

/-- A command that fails takes with it the accumulator operation at the head of its context's dispatch queue that had been accepted and
waited for it: that one writes nothing (R161, R257). To be asked before the command leaves the scheduler. -/
def State.cancelHead (s : State) (k : Cmd) : State :=
  match k.acc with
  | some (c, a) =>
    let x := s.ctx c
    if s.headAccepted c a then
      let ids := (x.dq.take 1).filterMap (·.store)
      (s.setCtx c { x with dq := x.dq.tail }).modUnit (s.unitOf c) (fun u => { u with sb := u.sb.filter (fun e => !ids.contains e.id) })
    else s
  | none => s

/-! ### Channel-side GEMV (R265 to R269) -/

/-- CGEMV's shape (R251). -/
structure GemvShape where
  m : Nat
  k : Nat
  scl : Bool
  rs : Int
  ps : Int
  fmt : Nat
  otag : Nat
  sh : Nat
  off : Nat

/-- Reads a shape image for CGEMV. -/
def gemvShape (h : BitVec 512) : GemvShape :=
  { m := shapeF h 1, k := shapeF h 2, scl := shapeF h 3 % 2 == 1, rs := sgn32 (shapeF h 4), ps := sgn32 (shapeF h 5)
    fmt := shapeF h 8 % 16, otag := shapeF h 8 / 2 ^ 16, sh := shapeF h 10 / 2 ^ 26, off := shapeF h 10 % 2 ^ 26 }

/-- The fields of R251 and the formats of R267 step 1. -/
def gemvShapeOk (h : BitVec 512) : Bool :=
  let q := gemvShape h
  shapeF h 0 == 6 && 1 ≤ q.m && q.m < 2 ^ 24 && 1 ≤ q.k && q.k ≤ 16384 && shapeF h 3 / 2 == 0 && shapeF h 8 / 2 ^ 8 % 256 == 0 &&
    shapeF h 8 / 16 % 4 == 0 && tagOk q.otag && matWidth q.fmt != 0 && !(q.scl && matWidth q.fmt == 16) &&
    !(q.fmt == 9 && shapeF h 11 / 4 != 0)

/-- The bytes of a row (R266). -/
def GemvShape.rowBytes (q : GemvShape) : Nat := (q.k * matWidth q.fmt + 7) / 8
/-- The pieces of a row. -/
def GemvShape.pieces (q : GemvShape) : Nat := (q.rowBytes + 255) / 256
/-- The blocks of a row's scales (R268). -/
def GemvShape.blocks (q : GemvShape) : Nat := (q.k + 127) / 128
/-- The byte span of W about its base (R267 step 4). -/
def GemvShape.span (q : GemvShape) : Int × Int :=
  let lo := fun (n : Nat) (st : Int) => min 0 (((n : Int) - 1) * st)
  let hi := fun (n : Nat) (st : Int) => max 0 (((n : Int) - 1) * st)
  (lo q.m q.rs + lo q.pieces q.ps, hi q.m q.rs + hi q.pieces q.ps + 256)

def execCgemv (d a b : BitVec 5) (h : BitVec 4) (s : State) :=
  runInstr (.cgemv d a b h) (do
    needS a
    needS b
    needS d
    needD d
    let y ← rdS d
    let w ← rdS a
    let xv ← rdS b
    regCheck 5 h.toNat
    let c ← getC
    let img := c.h h.toNat
    let q := gemvShape img
    trapIf (!gemvShapeOk img) 0x07
    trapIf (bits w 7 0 != 0 || q.rs % 256 != 0 || q.ps % 256 != 0 || xv.toNat % 2 != 0 || y.toNat % 4 != 0) 0x05
    trapIf (isWindow w) 0x07
    let (lo, hi) := q.span
    let (xo, xr) ← operand xv 0 ((2 * q.k : Nat) : Int) accR
    let (yo, yr) ← operand y 0 ((4 * q.m : Nat) : Int) accW
    let (wo, wr) ← operand w lo hi accR
    let u ← getU
    let un ← myUnit
    let k ← newCmd
    let hs := u.handle k.part q.sh
    let sLoc := ((hs.map (fun g => g.cLoc un)).getD 0) + q.off
    footprint (wr :: xr :: (if q.scl then [homeRegion sLoc (2 * q.m * q.blocks)] else [])) [yr]
    trapIf (q.scl && !(hs.any (fun g => g.slot g.c == 3))) 0x06
    trapIf (q.scl && hs.any (fun g => g.ssize * 1024 < q.off + 2 * q.m * q.blocks)) 0x07
    needAcre
    if q.fmt = 9 then regCheck 6 (shapeF img 11 % 4) else pure ()
    let t ← accept { k with
      shape := img, ops := [wo, xo, yo, { va := 0, home := some sLoc }], cbs := [mget c.cb (shapeF img 11 % 4) 0]
      reads := wr :: xr :: (if q.scl then hs.toList.map (·.cRegion un) else []), writes := [yr], handles := if q.scl then [q.sh] else [] }
    wrS d t) s

/-- The home of a piece of W: device DRAM, or a cause (R267). -/
def pieceLoc (u : Nat) (k : Cmd) (q : GemvShape) (row p : Nat) : E Nat := do
  let loc ← opLoc u k (k.ops.getD 0 { va := 0 }) ((row : Int) * q.rs + (p : Int) * q.ps) accR
  if isDram loc then pure loc else throw 0x07

/-- The elements of a row of W that are present (R266). -/
def rowElts (u : Nat) (k : Cmd) (q : GemvShape) (row : Nat) : E (List FV) := do
  let locs ← (List.range q.pieces).mapM (pieceLoc u k q row)
  if locs.any (fun l => l / 256 % 32 != locs.headD 0 / 256 % 32) then throw 0x07 else do
    let w := matWidth q.fmt
    let bs ← locs.zipIdx.mapM (fun l => engRead u l.1 (min 256 (q.rowBytes - 256 * l.2)))
    pure ((List.range q.k).map (fun i => matDecode q.fmt (k.cbs.headD 0) ((bs.getD (i * w / 2048) 0) >>> (i * w % 2048) % 2 ^ w)))

/-- The blocks of a row: present pairs of elements of W and x, in increasing K (R268). -/
def chunks {α : Type} (n : Nat) : Nat → List α → List (List α)
  | 0, _ => []
  | fuel + 1, l => if l.isEmpty then [] else l.take n :: chunks n fuel (l.drop n)

/-- One row's result and flags (R268). -/
def gemvRow (u : Nat) (k : Cmd) (q : GemvShape) (x : List FV) (row : Nat) : E (Nat × Nat) := do
  let ws ← rowElts u k q row
  let sLoc := ((k.ops.getD 3 { va := 0 }).home).getD 0
  let blocks := chunks (if q.scl then 128 else 512 / matWidth q.fmt) q.k (ws.zip x)
  blocks.zipIdx.foldlM (fun (a : Nat × Nat) b => do
    let (s, f) := dot false b.1
    let (v, g) ← if q.scl then do
        let sw ← readScale u k (sLoc + 2 * (row * q.blocks + b.2))
        pure (scaleBy s [sw])
      else pure (s, 0)
    pure (accAdd false a.1 v (Nat.lor a.2 (Nat.lor f g)))) (0, 0)

/-- CGEMV's effect: x is read once, then every row (R266 to R268). -/
def runCgemv (s : State) (u : Nat) (k : Cmd) : CmdRes :=
  let q := gemvShape k.shape
  let xs : E (List FV) := (List.range q.k).mapM (fun i => do
    let l ← opLoc u k (k.ops.getD 1 { va := 0 }) ((2 * i : Nat) : Int) accR
    let v ← engRead u l 2
    pure (bf16.decode v))
  match xs s with
  | .error c s => .fault s c 0 0 0
  | .ok x s =>
    let (rows, s) := collect ((List.range q.m).map (fun r => do
      let (v, f) ← gemvRow u k q x r
      let l ← opLoc u k (k.ops.getD 2 { va := 0 }) ((4 * r : Nat) : Int) accW
      pure (({ loc := l, n := 4, data := v } : EWrite), f))) s
    let fl := (goodOf rows).foldl (fun a e => Nat.lor a e.2) 0
    finishWrites u k.cut (rows.map (fun e => match e with | .ok w => .ok w.1 | .error c => .error c)) (fun _ => BitVec.ofNat 16 q.otag) 0 0 fl s

end Sys2Proof.Machine
end

