-- ==== Sys2Proof/Machine/Fabric.lean ====
section
/-! DEFINITION. Capabilities (R176 to R180), deliveries from sender to target and back (R181 to R189, R421), EXPECT and FWD
(R190, R191), WAITM (R347), remote matrix commands (R264), and the receive queues of the network ports (R170). -/

namespace Sys2Proof.Machine

/-! ### Capabilities -/

/-- Whether CHK holds under a partition's key; under a zero key nothing holds (R177). -/
def State.capOk (s : State) (p : Nat) (c : Word) : Bool := (s.part p).key != 0 && capChk (s.part p).key c == bits c 23 0

/-- The place of a class's generation (R179). -/
def genIdx (cls : Nat) : Nat := if cls = 5 then 4 else if cls = 6 then 5 else cls

/-- A context's generation for a class (R179). -/
def Dir.gen (d : Dir) (cls : Nat) : Nat := bits d.gens (6 * genIdx cls + 5) (6 * genIdx cls)

/-- A capability class in use (R176). -/
def capClsOk (cls : Nat) : Bool := cls != 4 && cls != 7

/-- The valid indices of a class (R178). -/
def capIdxOk (cls i : Nat) : Bool :=
  match cls with
  | 0 => 1 ≤ i && i ≤ 7
  | 1 => i ≤ 14
  | 2 => i ≤ 31
  | 3 => 1 ≤ i && i ≤ 7
  | 5 => i ≤ 7
  | 6 => i ≤ 7
  | _ => false

/-- A capability of given fields with its CHK (R176, R177). -/
def capWord (key : BitVec 128) (dev ctx cls idx rgt gen : Nat) : Word :=
  let c := w64 (dev * 2 ^ 58 + ctx * 2 ^ 42 + cls * 2 ^ 39 + idx * 2 ^ 33 + rgt * 2 ^ 30 + gen * 2 ^ 24)
  c ||| w64 (capChk key c)

def execCapmk (d a : BitVec 5) (s : State) :=
  runInstr (.capmk d a) (do
    needD d
    let x ← rdS a
    let s ← get
    let p := s.part (s.dirE s.cur).part
    trapIf (!capClsOk (capCls x) || !capIdxOk (capCls x) (capIdx x) || p.key == 0) 0x15
    wrS d (capWord p.key s.devNo s.cur (capCls x) (capIdx x) (bits x 32 30) ((s.dirE s.cur).gen (capCls x)))) s

def execCapmkDv (d a b : BitVec 5) (s : State) :=
  runInstr (.capmkDv d a b) (do
    needS b
    needD d
    let x ← rdS a
    let c ← rdS b
    let s ← get
    let p := (s.dirE s.cur).part
    trapIf (!s.capOk p c || !bit c 32) 0x15
    wrS d (capWord (s.part p).key (capDev c) (capCtx c) (capCls c) (capIdx c) (Nat.land (bits x 32 30) (bits c 32 30)) (capGen c))) s

def execCaprv (d a : BitVec 5) (s : State) :=
  runInstr (.caprv d a) (do
    needD d
    let x ← rdS a
    let cls := bits x 2 0
    trapIf (!capClsOk cls) 0x15
    let e ← getD
    let g := (e.gen cls + 1) % 64
    modD (fun e => { e with gens := putBits e.gens (6 * genIdx cls + 5) (6 * genIdx cls) g })
    wrS d (w64 g)) s

/-! ### At the sender (R182, R189, R264, R353) -/

/-- Where a delivery goes: the home unit of its target by the target's partition's map as it stands at issue (R28, R183). One for a
linked device sets out to the link port at its sender (log 15). -/
def State.targetWay (s : State) (u : Nat) (cap : Word) : Nat × Way :=
  let e := s.dirE (capCtx cap)
  if capDev cap ≠ s.devNo then (u, .to)
  else if e.st = 0 then (u, .nowhere)
  else match s.lumRes e.part e.home with
    | .to v => (v, .to)
    | .migrating => (u, .waits e.part e.home)
    | .unmapped => (u, .nowhere)

/-- Whether a sender parks at injection: the queue at the target's unit that its delivery may need is full (R186, R264). DESIGN CHOICE:
a full holding mailbox keeps back, at the sender and in the mesh, the SENDWs that would need a place in it, and nothing else (log 70). -/
def State.targetFull (s : State) (dst : Nat) (kind : DKind) : Bool :=
  match kind with
  | .sendw => 32 ≤ (s.unit dst).mbox.length
  | .mcmd _ _ _ => 16 ≤ (s.unit dst).rcq.length
  | _ => false

/-- Injects a delivery of the executing context, once fewer than sixteen are unacknowledged, its earlier accesses are ordered before it,
and its way is not barred (R19, R182, R186, R189, R264). -/
def inject (cap : Word) (val : VWord) (kind : DKind) : M Unit := do
  let e ← getD
  stallUnless (e.unacked < 16) wDeliver
  relWait
  let s ← get
  let (dst, way) := s.targetWay (s.unitOf s.cur) cap
  stallUnless (!(way == .to && capDev cap == s.devNo && s.targetFull dst kind)) wDeliver
  stallUnless (!(way == .to && s.bridgeFull (s.unitOf s.cur) dst)) wPower
  let x := s.ctx s.cur
  let d : Delivery := { dev := s.devNo, sender := s.cur, pc := x.pc, cap := cap, val := val, kind := kind, no := s.ids, inH := x.inHandler }
  set (({ s with ids := s.ids + 1, pkts := s.pkts ++ [{ src := s.unitOf s.cur, dst := dst, way := way, body := .delivery d }] } : State).modDir s.cur
    (fun e => { e with unacked := e.unacked + 1 }))

/-- The sender's check of a capability and a right (R182). -/
def capCheck (c : Word) (right : Nat) : M Unit := do
  let s ← get
  trapIf (!s.capOk (s.dirE s.cur).part c || !bit c right) 0x15

/-- The wait of a SEND's source (R192, R225). -/
def sendWait (d : BitVec 5) (c : Nat) : M Unit := do
  let x ← getC
  stallUnless (match c with
    | 0 => x.sReady d.toNat
    | 1 => !x.dqWrites 0 [d.toNat] && bit x.vFull d.toNat
    | _ => !x.dqWrites (d.toNat % 8) []) wReg

/-- The source of a SEND: an s register, or a vector or mask once every earlier wide instruction has written it (R182, R225). -/
def sendSource (d : BitVec 5) (c : Nat) : M VWord := do
  match c with
  | 0 => do
    let v ← rdS d
    pure (v.setWidth 2048)
  | 1 => do
    let x ← getC
    stallUnless (!x.dqWrites 0 [d.toNat] && bit x.vFull d.toNat) wReg
    regCheck 2 d.toNat
    pure (x.v d.toNat)
  | _ => do
    let x ← getC
    stallUnless (!x.dqWrites (d.toNat % 8) []) wReg
    regCheck 3 (d.toNat % 8)
    pure ((x.k (d.toNat % 8)).setWidth 2048)

/-- The source class a target class takes (R182). -/
def sendClassOk (cls c : Nat) : Bool :=
  match cls with
  | 0 => c == 0
  | 1 => c == 0
  | 2 => c == 1
  | 3 => c == 2
  | _ => false

/-- SEND and SENDW (R182). -/
def sendTo (d a : BitVec 5) (c : BitVec 2) (right : Nat) (kind : DKind) : M Unit := do
  sendWait d c.toNat
  let cap ← rdS a
  capCheck cap right
  trapIf (!sendClassOk (capCls cap) c.toNat) 0x15
  let v ← sendSource d c.toNat
  inject cap v kind

def execSend (d a : BitVec 5) (c : BitVec 2) (s : State) := runInstr (.send d a c) (sendTo d a c 30 .send) s
def execSendw (d a : BitVec 5) (c : BitVec 2) (s : State) := runInstr (.sendw d a c) (sendTo d a c 31 .sendw) s

/-- The word a MCMD carries, checked as R264 says. -/
def mcmdWord (w : BitVec 32) : M Unit := do
  trapIf (bits w 31 30 != 2) 0x01
  match decodeTo4 w with
  | .illegal e => trapC e.cause
  | .instr _ => pure ()
  trapIf (bits w 29 24 < 0x18 || 0x1B < bits w 29 24) 0x01
  trapIf (bits w 23 21 != 0) 0x02

def execMcmd (a b : BitVec 5) (h : BitVec 4) (s : State) :=
  runInstr (.mcmd a b h) (do
    needS b
    let cap ← rdS a
    let v ← rdS b
    let w : BitVec 32 := v.setWidth 32
    capCheck cap 30
    trapIf (capCls cap != 5 || 7 < capIdx cap) 0x15
    mcmdWord w
    regCheck 5 h.toNat
    let x ← getC
    inject cap 0 (.mcmd w (x.h h.toNat) x.fmt)) s

/-! ### At the target (R183 to R187) -/

/-- What a delivery meets at its target. -/
inductive Arrive where
  | hold
  | ack (s : State) (cause : Nat)
  | held (s : State)

/-- The overwrite of a full register (R184, R185, R434). -/
def Ctx.overwrite (x : Ctx) (sender cls i : Nat) (v : VWord) : Ctx :=
  if x.ovr.v then { x with ovr := { x.ovr with count := min (x.ovr.count + 1) 0xFFFF } }
  else { x with ovr := { v := true, count := 0, cls := cls, idx := i, sender := sender, val := v } }

/-- A value as its target register holds it. -/
def fitValue (cls : Nat) (v : VWord) : VWord :=
  match cls with
  | 2 => v
  | 3 => (v.setWidth 256).setWidth 2048
  | _ => (v.setWidth 64).setWidth 2048

/-- Changes a context where it is: in its unit, its slice, or its image, where a fault freezes it and holds the delivery
(R184, R378). -/
def State.modWherever (s : State) (c : Nat) (f : Ctx → Ctx) : State × Bool :=
  match (s.dirE c).place with
  | .saved =>
    if (s.dirE c).frozen then (s, false) else
    match s.modSaved c f [] with
    | .ok s => (s.modDir c (fun d => { d with ready := true }), true)
    | .error e => (s.saveFault c e, false)
  | _ => (s.modCtx c f, true)

/-- The state of a target context as its place holds it. -/
def State.ctxWherever (s : State) (c : Nat) : Ctx :=
  match (s.dirE c).place with
  | .saved => ((s.savedCtx c).map (fun b => ctxOfImage b (s.dirE c))).getD {}
  | _ => s.ctx c

/-- Applies a SEND or SENDW that passed the checks (R183 step 3, R184, R186). -/
def State.applyDelivery (s : State) (u : Nat) (d : Delivery) : Arrive :=
  let c := capCtx d.cap
  let cls := capCls d.cap
  let i := capIdx d.cap
  let x := s.ctxWherever c
  let v := fitValue cls d.val
  let sender := d.dev * 65536 + d.sender
  if cls = 3 || !x.fabricFull cls i then
    match s.modWherever c (fun x => x.fabricWrite cls i v) with
    | (s, true) => .ack ((s.signal c).unpark c) 0
    | (s, false) => .held s
  else if d.kind = .sendw then
    if 32 ≤ (s.unit u).mbox.length then .hold
    else .ack (s.modUnit u (fun y => { y with mbox := y.mbox ++ [(d, c)] })) 256
  else
    match s.modWherever c (fun x => x.overwrite sender cls i v) with
    | (s, true) =>
      let s := s.modDir c (fun e => { e with ready := true, async := e.async ++ [{ cause := 0x14, addr := w64 (cls * 256 + i), data := v.setWidth 64, aux := w64 (sender % 2 ^ 22) }] })
      .ack (s.signal c) 0
    | (s, false) => .held s

/-- What a linked device may answer to a delivery: success, or a cause of R183, of its ring for TASKQ (R351, R353), of its checks for MCMD
(R253, R264); which one is free (log 15). -/
def Delivery.farCauses (d : Delivery) : List Nat :=
  [0, 0x15, 0x16, 0x17] ++ (match d.kind with | .taskq _ => [0x06] | .mcmd _ _ _ => [0x06, 0x07] | _ => [])

/-- The checks of R183 at the unit a delivery has reached, and what follows; an answer of 256 is a value held without an
acknowledgement (R186). -/
def State.arrive (s : State) (u : Nat) (d : Delivery) : Arrive :=
  let e := s.dirE (capCtx d.cap)
  if capDev d.cap ≠ s.devNo then
    if (s.portTo (capDev d.cap)).isNone then .ack s 0x17
    else if s.portDown (capDev d.cap) then .ack s 0x46
    else .ack s.bump (d.farCauses.getD (Config.freeNat s.fresh % d.farCauses.length) 0)
  else if d.dev ≠ s.devNo && !bit s.linkcfg (8 + d.dev % 8) then .ack s 0x17
  else if d.dev ≠ s.devNo && !s.capOk e.part d.cap then .ack s 0x15
  else if e.st != 1 then .ack s 0x17
  else if e.gen (capCls d.cap) != capGen d.cap then .ack s 0x16
  else match d.kind with
    | .mcmd _ _ _ =>
      if 16 ≤ (s.unit u).rcq.length then .hold
      else .ack ((s.modUnit u (fun x => { x with rcq := x.rcq ++ [{ d := d, target := capCtx d.cap, acc := capIdx d.cap }] })).modDir
        (capCtx d.cap) (fun e => { e with ready := true })) 256
    | .taskq v =>
      let r := s.ring u (capIdx d.cap)
      if !r.usable e.part then .ack s 0x06
      else if ringCap ≤ r.q.length then .hold
      else .ack (s.ringPush u (capIdx d.cap) v) 0
    | _ => s.applyDelivery u d

/-- The DATA of a delivery's record (R364). -/
def Delivery.recData (d : Delivery) : Word :=
  match d.kind with
  | .mcmd w _ _ => w.setWidth 64
  | .taskq v => v
  | _ => d.val.setWidth 64

/-- The acknowledgement of a cause, 0 for success (R188). -/
def State.ackCause (s : State) (u : Nat) (d : Delivery) (cause : Nat) : State :=
  s.ackTo u d (if cause = 0 then none
    else some { ctx := d.sender, cause := cause, kind := 2, pc := d.pc, addr := d.cap, data := d.recData, inH := d.inH, no := d.no })

/-- Whether an honoured migration empties a unit: what reaches it waits (R184, R410). -/
def State.moving (s : State) (u : Nat) : Bool := s.migs.any (fun m => m.src == u && m.honoured)

/-- A packet that cannot be taken yet waits at its unit, holding back no other. -/
def keepAt (i : Nat) (p : Pkt) : M Unit := do
  let s ← get
  enabled (!p.arrived)
  set (s.reached i p)

/-- A delivery of a linked device enters at the link port, Croft's first unit, and goes on to its target as one issued there (R28, R421,
log 15). -/
def State.linkIn (s : State) (d : Delivery) : State :=
  let (v, way) := s.targetWay 256 d.cap
  if !s.power ∨ 8 ≤ d.dev ∨ d.dev = s.devNo ∨ capDev d.cap ≠ s.devNo ∨ s.portDown d.dev then s
  else { s with ids := s.ids + 1, pkts := s.pkts ++ [({ src := 256, dst := v, way := way, body := .delivery { d with no := s.ids } } : Pkt)] }

/-- Whether a packet between units of Acre finds it asleep: its wait asks for a wake (R393, R394). -/
def State.acreAsleepFor (s : State) (p : Pkt) : Bool := !isCroft p.src && !isCroft p.dst && !s.acreOn

/-- DELIVERY_ARRIVAL (R183): in issue order among the deliveries of one sender, each of which is a release (R189). -/
def execDeliveryArrival (s : State) :=
  runEvent (do
    let s ← get
    match s.pkts[s.arg.n0]? with
    | some p =>
      match p.body, p.way with
      | .delivery _, .waits part l =>
        match s.waySettled s.arg.n0 p part l with
        | some s' => set s'
        | none => stall 0
      | .delivery d, .nowhere => set (({ s with pkts := ldel s.pkts s.arg.n0 } : State).ackCause p.src d 0x17)
      | .delivery d, .to =>
        if s.acreAsleepFor p then set s.wakeAcre else do
        enabled (s.mayArrive s.arg.n0 p && !s.moving p.dst)
        if s.pathBad p.src p.dst then set (({ s with pkts := ldel s.pkts s.arg.n0 } : State).ackCause p.dst d 0x46)
        else if s.deliveredAfter d then keepAt s.arg.n0 p
        else match (s.wakeGated p.dst).arrive p.dst d with
          | .hold => keepAt s.arg.n0 p
          | .held s' => set (s'.reached s.arg.n0 p)
          | .ack s' cause =>
            let s' := { s' with pkts := ldel s'.pkts s.arg.n0 }
            set (if cause = 256 then s' else (s'.ackCause p.dst d cause).applyMore 64)
      | _, _ => stall 0
    | none => stall 0) s

/-- DELIVERY_ACK (R188): a failure's record waits while the sender's queue is full (R371). -/
def execDeliveryAck (s : State) :=
  runEvent (do
    let s ← get
    match s.pkts[s.arg.n0]? with
    | some p =>
      match p.body with
      | .ack c r _ _ => do
        enabled (s.mayArrive s.arg.n0 p)
        if r.isSome && (s.dirE c).st == 1 && !s.canPost c then keepAt s.arg.n0 p else do
          let s := { s with pkts := ldel s.pkts s.arg.n0 }.modDir c (fun e => { e with unacked := e.unacked - 1 })
          set (match r with | some r => s.post r | none => s)
      | _ => stall 0
    | none => stall 0) s

/-- The issuer a command keeps: a context of this device, or a number that stands for one elsewhere (R421). -/
def State.issuerOf (s : State) (d : Delivery) : Nat :=
  if d.dev = s.devNo && !d.orphan then d.sender else (d.dev + 1) * 65536 + d.sender

/-- REMOTE_COMMAND_ACCEPT (R264): the head of a unit's remote command queue by the checks of R253, or discarded with cause
0x17 when its target has halted. An accumulator operation that stands at the head of the target's dispatch queue was accepted before
it (R259), and while Acre is being put to sleep its schedulers accept nothing: the command waits, and asks for a wake (R393). -/
def execRemoteCommandAccept (s : State) :=
  runEvent (do
    let s ← get
    let u := s.arg.n0
    match (s.unit u).rcq with
    | [] => stall 0
    | r :: rest =>
      let s0 := s.modUnit u (fun x => { x with rcq := rest })
      let e := s.dirE r.target
      match r.d.kind, matOpOf (match r.d.kind with | .mcmd w _ _ => w | _ => 0) with
      | .mcmd w img fmt, some o => do
        if e.st != 1 then set (s0.ackCause u r.d 0x17) else do
          enabled (s.unitOf r.target == u && (match e.place with | .slot _ _ => true | .tcc _ => true | _ => false))
          if !isCroft u && !s.acreOn then set s.wakeAcre else do
          enabled (!s.moving u)
          enabled (!s.headAccepted r.target r.acc)
          let x := s.ctx r.target
          let k : Cmd :=
            { seq := 0, issuer := s.issuerOf r.d, no := r.d.no, lunit := e.home, pc := r.d.pc, inH := r.d.inH, word := w
              part := e.part, ctx := r.target, asn := x.asn, sup := x.sup, home := e.home, shape := img, fmt := fmt, remote := true }
          match s0.matAccept u r.target k { o with d := r.acc } with
          | .cause n => set (s0.ackCause u r.d n)
          | .wait _ _ => stall 0
          | .ok s' => set (s'.ackCause u r.d 0)
      | _, _ => set s0) s

/-! ### EXPECT, FWD and WAITM (R190, R191, R347) -/

/-- Whether a waiting wide instruction reads or writes a vector register. -/
def Ctx.dqTouches (x : Ctx) (v : Nat) : Bool :=
  x.dqWrites 0 [v] || x.dq.any (fun e => match decode e.word with | .instr i => (wideSrcs i).contains v | .illegal _ => false)

/-- EXPECT (R190): the register becomes empty, and a value held for it is applied (R187). A register a waiting wide
instruction names waits for it, so that the instructions keep their order. -/
def execExpect (d : BitVec 5) (c : BitVec 2) (s : State) :=
  runInstr (.expect d c) (do
    match c.toNat with
    | 0 => do
      trapIf (!capIdxOk 0 d.toNat) 0x01
      needD d
      modC (fun x => { x with sFull := putBit x.sFull d.toNat false })
    | 1 => modC (fun x => { x with mFull := putBit x.mFull d.toNat false })
    | _ => do
      let x ← getC
      stallUnless (!x.dqTouches d.toNat) wReg
      modC (fun x => { x with vFull := putBit x.vFull d.toNat false })
    modify (fun s => s.applyHeld s.cur c.toNat d.toNat)) s

/-- The context in the next slot of the unit (R191). -/
def State.nextSlotCtx (s : State) (c : Nat) : Option Nat :=
  match (s.dirE c).place with
  | .slot u sl => mfind (s.unit u).slots ((sl + 1) % 8)
  | _ => none

def execFwd (a : BitVec 5) (s : State) :=
  runInstr (.fwd a) (do
    let v ← rdS a
    let s ← get
    match s.nextSlotCtx s.cur with
    | none => parkSync wFwd
    | some t => do
      parkUnless (!bit (s.ctx t).mFull 15) wFwd
      trapIf ((s.dirE t).part != (s.dirE s.cur).part) 0x15
      relWait
      modify (fun s => ((s.modCtx t (fun x => x.fabricWrite 1 15 (v.setWidth 2048))).signal t).unpark t)) s

/-- WAITM (R347): the full m registers of a mask are what it waits for, as R349 lets a task wait on registers. -/
def execWaitm (d a : BitVec 5) (s : State) :=
  runInstr (.waitm d a) (do
    needD d
    let v ← rdS a
    trapIf (bits v 63 16 != 0 || v == 0) 0x07
    let x ← getC
    match (List.range 16).find? (fun i => bit v i && bit x.mFull i) with
    | some i => wrS d (w64 i)
    | none => stall wMessage) s

/-! ### Network receive queues (R170) -/

/-- RECEIVE_QUEUE_ARRIVAL (R170): entries of one sender arrive in order, and a reader parked on the queue wakes. -/
def execReceiveQueueArrival (s : State) :=
  runEvent (do
    let s ← get
    match s.pkts[s.arg.n0]? with
    | some p =>
      match p.body with
      | .push dir v => do
        enabled (s.mayArrive s.arg.n0 p && !s.moving p.dst)
        let s := ({ s with pkts := ldel s.pkts s.arg.n0 } : State).wakeGated p.dst
        set ((s.modUnit p.dst (fun x => { x with rxq := mset x.rxq dir (mget x.rxq dir [] ++ [v]) })).wakeUnit p.dst)
      | _ => stall 0
    | none => stall 0) s

end Sys2Proof.Machine
end

