-- ==== Sys2Proof/Machine/Copy.lean ====
section
/-! DEFINITION. Copy, fill, gather, scatter and collective commands (R151 to R156), tile moves (R125 to R127), and tags (R128,
R129). -/

namespace Sys2Proof.Machine

/-! ### Shapes of copy-class commands (R131 to R133, R152) -/

/-- A shape's fields as the copy class uses them; counts of 0 read as 1. -/
structure CopyShape where
  cop : Nat
  mbe : Bool
  ifm : Bool
  fem : Nat
  kind : Nat
  n0 : Nat
  n1 : Nat
  n2 : Nat
  ss0 : Int
  ss1 : Int
  ds0 : Int
  ds1 : Int
  otag : Nat
  ety : Nat
  e : Nat
  sp : Nat

/-- Reads a shape image for the copy class. -/
def copyShape (h : BitVec 512) : CopyShape :=
  let f0 := shapeF h 0
  let f8 := shapeF h 8
  { cop := f0 / 2 ^ 16 % 16, mbe := f0 / 2 ^ 11 % 2 == 1, ifm := f0 / 2 ^ 10 % 2 == 1, fem := f0 / 2 ^ 8 % 4, kind := f0 % 256
    n0 := shapeF h 1, n1 := max 1 (shapeF h 2), n2 := max 1 (shapeF h 3)
    ss0 := sgn32 (shapeF h 4), ss1 := sgn32 (shapeF h 5), ds0 := sgn32 (shapeF h 6), ds1 := sgn32 (shapeF h 7)
    otag := f8 / 2 ^ 16, ety := f8 % 16, e := 2 ^ (f8 / 2 ^ 6 % 4), sp := shapeF h 12 }

/-- Reserved fields, kind, count and flags (R133, R152 item 1). -/
def copyCheck (h : BitVec 512) (kind : Nat) (fill index : Bool) : M CopyShape := do
  let q := copyShape h
  let f0 := shapeF h 0
  let f8 := shapeF h 8
  trapIf (q.kind != kind || f0 / 2 ^ 20 != 0 || f0 / 2 ^ 12 % 16 != 0 || (kind != 3 && q.cop != 0) || f8 / 2 ^ 8 % 256 != 0 ||
    f8 / 2 ^ 4 % 4 != 0 || !tagOk q.otag || q.n0 == 0 || 2 ^ 24 - 1 < q.n0) 0x07
  trapIf ((q.fem == 1 && (q.e != 8 || fill)) || (!index && (q.mbe || q.ifm))) 0x07
  pure q

/-- Multiples of E, else cause 0x05 (R152 item 2). -/
def strideOk (l : List Int) (e : Nat) : M Unit := trapIf (l.any (fun v => v % (e : Int) != 0)) 0x05

/-- The access a command makes on a side: full/empty effects cannot reach host memory (R152). -/
def engAcc (write : Bool) (fem : Nat) : Acc := { write := write, fe := fem != 0 }

/-- The least and greatest of 0 and (n - 1) × stride. -/
def reach (n : Nat) (st : Int) : Int × Int := (min 0 (((n : Int) - 1) * st), max 0 (((n : Int) - 1) * st))

/-- The range of byte offsets of a strided operand (R147, R153). -/
def spanOf (q : CopyShape) (s0 s1 : Int) : Int × Int :=
  let (a, b) := reach q.n1 s0
  let (c, d) := reach q.n2 s1
  (a + c, b + d + (q.n0 : Int) * q.e)

/-- A word's full/empty bit after a write by FEM (R131). -/
def femOf (fem : Nat) (src : Bool) : Option Bool :=
  match fem with
  | 1 => some src
  | 2 => some true
  | 3 => some false
  | _ => none

/-- Moves one element (R153). -/
def moveElt (u : Nat) (k : Cmd) (q : CopyShape) (src dst : Opnd) (so dof : Int) : E EWrite := do
  let sl ← opLoc u k src so (engAcc false q.fem)
  let v ← engRead u sl q.e
  let s ← get
  let dl ← opLoc u k dst dof (engAcc true q.fem)
  pure { loc := dl, n := q.e, data := v, fe := femOf q.fem (s.feAt sl) }

/-- The offsets of the elements of a strided command, the order of R153: i2, then i1, then i0. -/
def eltOffsets (q : CopyShape) : List (Int × Int) :=
  (List.range q.n2).flatMap (fun (i2 : Nat) => (List.range q.n1).flatMap (fun (i1 : Nat) => (List.range q.n0).map (fun (i0 : Nat) =>
    ((i0 : Int) * q.e + (i1 : Int) * q.ss0 + (i2 : Int) * q.ss1, (i0 : Int) * q.e + (i1 : Int) * q.ds0 + (i2 : Int) * q.ds1))))

/-- The shape register a command names, checked at this read (R383). -/
def shapeOf (h : BitVec 4) : M (BitVec 512) := do
  regCheck 5 h.toNat
  let x ← getC
  pure (x.h h.toNat)

def execCpy (d a b : BitVec 5) (h : BitVec 4) (s : State) :=
  runInstr (.cpy d a b h) (do
    needS b
    needD d
    let dst ← rdS a
    let src ← rdS b
    let sh ← shapeOf h
    let q ← copyCheck sh 1 false false
    strideOk [(src.toNat : Int), (dst.toNat : Int), q.ss0, q.ss1, q.ds0, q.ds1] q.e
    let (sl, shi) := spanOf q q.ss0 q.ss1
    let (dl, dh) := spanOf q q.ds0 q.ds1
    let (so, sr) ← operand src sl shi accR
    let (dop, dr) ← operand dst dl dh accW
    footprint [sr] [dr]
    let k ← newCmd
    let t ← accept { k with shape := sh, ops := [dop, so], reads := [sr], writes := [dr] }
    wrS d t) s

/-- CPY's effect (R153). -/
def runCpy (s : State) (u : Nat) (k : Cmd) : CmdRes :=
  let q := copyShape k.shape
  let dst := k.ops.getD 0 { va := 0 }
  let src := k.ops.getD 1 { va := 0 }
  let (ws, s) := collect ((eltOffsets q).map (fun o => moveElt u k q src dst o.1 o.2)) s
  finishWrites u k.cut ws (fun _ => BitVec.ofNat 16 q.otag) 0 0 0 s

def execFill (d a b : BitVec 5) (h : BitVec 4) (s : State) :=
  runInstr (.fill d a b h) (do
    needS b
    needD d
    let dst ← rdS a
    let v ← rdS b
    let sh ← shapeOf h
    let q ← copyCheck sh 1 true false
    strideOk [(dst.toNat : Int), q.ds0, q.ds1] q.e
    let (dl, dh) := spanOf q q.ds0 q.ds1
    let (dop, dr) ← operand dst dl dh accW
    footprint [] [dr]
    let k ← newCmd
    let t ← accept { k with shape := sh, ops := [dop], args := [v], writes := [dr] }
    wrS d t) s

/-- FILL's effect (R153). -/
def runFill (s : State) (u : Nat) (k : Cmd) : CmdRes :=
  let q := copyShape k.shape
  let dst := k.ops.getD 0 { va := 0 }
  let v := (k.args.getD 0 0).toNat % 2 ^ (8 * q.e)
  let (ws, s) := collect ((eltOffsets q).map (fun o => do
    let dl ← opLoc u k dst o.2 (engAcc true q.fem)
    pure ({ loc := dl, n := q.e, data := v, fe := femOf q.fem false } : EWrite))) s
  finishWrites u k.cut ws (fun _ => BitVec.ofNat 16 q.otag) 0 0 0 s

/-! ### Gather and scatter (R154, R155) -/

/-- A row stride: 0 stands for the row's length (R154). -/
def rowStride (q : CopyShape) (st : Int) : Int := if st = 0 then (q.n2 : Int) * q.e else st

/-- The byte range of `n` rows at a stride. -/
def rowSpan (q : CopyShape) (n : Nat) (st : Int) : Int × Int :=
  let (a, b) := reach n (rowStride q st)
  (a, b + (q.n2 : Int) * q.e)

/-- The miss bitmap's region, when MBE asks for it (R152, R155). -/
def missRegion (q : CopyShape) : M (List Region) := do
  if q.mbe then do
    trapIf (q.sp % 8 != 0) 0x05
    let n := (q.n0 + 7) / 8
    trapIf (0x80000 < q.sp + n) 0x09
    let u ← myUnit
    pure [homeRegion (unitLoc u q.sp) n]
  else pure []

/-- Acceptance of GATH and SCAT: `table` and `rows` say which operand is which. -/
def indexCmd (d : BitVec 5) (dst src : Word) (h : BitVec 4) (gath : Bool) : M Unit := do
  needD d
  let list ← rdS d
  let sh ← shapeOf h
  let q ← copyCheck sh 2 false true
  strideOk [(src.toNat : Int), (dst.toNat : Int), q.ss0, q.ds0] q.e
  trapIf (bits list 1 0 != 0) 0x05
  trapIf (q.mbe && q.sp % 8 != 0) 0x05
  let (lo, lr) ← operand list 0 ((q.n0 : Int) * 4) accR
  let (sl, shi) := rowSpan q (if gath then q.n1 else q.n0) q.ss0
  let (dl, dh) := rowSpan q (if gath then q.n0 else q.n1) q.ds0
  let (so, sr) ← operand src sl shi accR
  let (dop, dr) ← operand dst dl dh accW
  let ms ← missRegion q
  footprint [lr, sr] (dr :: ms)
  let k ← newCmd
  let t ← accept { k with shape := sh, ops := [dop, so, lo], reads := [lr, sr], writes := dr :: ms }
  wrS d t

def execGath (d a b : BitVec 5) (h : BitVec 4) (s : State) :=
  runInstr (.gath d a b h) (do needS d; needS b; let dst ← rdS a; let tab ← rdS b; indexCmd d dst tab h true) s
def execScat (d a b : BitVec 5) (h : BitVec 4) (s : State) :=
  runInstr (.scat d a b h) (do needS d; needS b; let tab ← rdS a; let src ← rdS b; indexCmd d tab src h false) s

/-- The indices of GATH and SCAT, each read whole (R154). -/
def readIndices (u : Nat) (k : Cmd) (list : Opnd) (n : Nat) : E (List Nat) :=
  (List.range n).mapM (fun (i : Nat) => do
    let l ← opLoc u k list ((i : Int) * 4) accR
    engRead u l 4)

/-- The bytes of the miss bitmap (R155). -/
def missWrites (u : Nat) (q : CopyShape) (bad : List Bool) : List (Except Nat EWrite) :=
  (List.range ((bad.length + 7) / 8)).map (fun i => .ok
    { loc := unitLoc u (q.sp + i), n := 1
      data := nsum ((List.range 8).map (fun b => if bad.getD (8 * i + b) false then 2 ^ b else 0)) })

/-- GATH's and SCAT's effect (R154, R155). DESIGN CHOICE: a fault in the index list leaves every element of the write regions old, where
R159 lets each be old or new (log 74); where destination rows overlap, the row later in the list wins, R154 moving rows in any
order (log 75). -/
def runIndex (s : State) (u : Nat) (k : Cmd) (gath : Bool) : CmdRes :=
  let q := copyShape k.shape
  let dst := k.ops.getD 0 { va := 0 }
  let src := k.ops.getD 1 { va := 0 }
  let list := k.ops.getD 2 { va := 0 }
  match readIndices u k list q.n0 s with
  | .error c s => .fault s c 0 0 0
  | .ok idx s =>
    let bad := idx.map (fun x => q.n1 ≤ x || x == 0xFFFFFFFF)
    let misses := (bad.filter id).length
    let first := bad.idxOf true
    let first := if misses = 0 then 0 else first
    if q.ifm && misses != 0 then .fault s 0x12 misses first 0 else
    let row := fun (i : Nat) => (List.range q.n2).map (fun (j : Nat) =>
      let x := idx.getD i 0
      let eo := (j : Int) * q.e
      if gath then
        let dof := (i : Int) * rowStride q q.ds0 + eo
        if bad.getD i false then (do
          let dl ← opLoc u k dst dof (engAcc true q.fem)
          pure ({ loc := dl, n := q.e, data := 0, fe := femOf q.fem false } : EWrite))
        else moveElt u k q src dst ((x : Int) * rowStride q q.ss0 + eo) dof
      else moveElt u k q src dst ((i : Int) * rowStride q q.ss0 + eo) ((x : Int) * rowStride q q.ds0 + eo))
    let rows := (List.range q.n0).filter (fun i => gath || !bad.getD i false)
    let (ws, s) := collect (rows.flatMap row) s
    let ms := if q.mbe then missWrites u q bad else []
    finishWrites u k.cut (ws ++ ms) (fun _ => BitVec.ofNat 16 q.otag) misses first 0 s

/-! ### Collectives (R156) -/

/-- An operand that must be an own-unit (1) or own-cluster (2) window address (R156). DESIGN CHOICE: any other address is one that
does not exist for this operand, causes 0x08 and 0x09 (log 25). -/
def needWindow (va : Word) (w : Nat) (cause : Nat) : M Unit := trapIf (!isWindow va || bits va 47 44 != w) cause

/-- The bytes of a collective's region. -/
def CopyShape.len (q : CopyShape) : Nat := q.n0 * q.e

/-- A member's unit (R28): none while it is migrating; a unit, or the cause of a member not mapped. -/
def State.member (s : State) (u p n cause : Nat) : Option (Except Nat Nat) :=
  match s.lumRes p n with
  | .unmapped => some (.error cause)
  | .migrating => none
  | .to v => some (if s.pathBad u v then .error 0x45 else .ok v)

/-- The home of an offset in a member's scratchpad, or, for CBCAST, in a member cluster's (R30, R156). -/
def memberLoc (cop v off : Nat) : Nat :=
  if cop = 4 then (if isCroft v then croftLoc off else clusterLoc (clusterOf v) off) else unitLoc v off

/-- The regions of an operand that a collective declares: those in the issuing unit's own scratchpad or outside every unit scratchpad
(R147). `each` says that the operand stands for the same offset in every member, so that the issuer's own is meant only if it is one. -/
def declared (u : Nat) (each isMember : Bool) (o : Opnd) (r : Region) : List Region :=
  match o.home with
  | some h => if each then (if isMember then [r] else []) else if isUnitPad h && padUnit h != u then [] else [r]
  | none => [r]

/-- The regions CBCAST writes: one in each scratchpad of a cluster in its mask (R147, R156). -/
def State.castRegions (s : State) (p : Nat) (mask : Word) (off n : Nat) : List Region :=
  ((List.range 16).filter (bit mask ·)).filterMap (fun j => match s.lumRes p (16 * j) with
    | .to v => some (homeRegion (memberLoc 4 v off) n)
    | _ => none)

/-- COLL (R156): it waits at issue while a member migrates (R28); the issuing unit is a member where some member's logical unit names it
(R147). -/
def execColl (d a b : BitVec 5) (h : BitVec 4) (s : State) :=
  runInstr (.coll d a b h) (do
    needS b
    needS d
    needD d
    let dst ← rdS a
    let mask ← rdS b
    let src ← rdS d
    let sh ← shapeOf h
    let q ← copyCheck sh 3 false false
    trapIf (5 ≤ q.cop || bits mask 63 16 != 0 || bits mask 15 0 == 0) 0x07
    let sumOk := q.fem == 0 && ((q.ety == 0 && q.e == 4) || (q.ety == 1 && q.e == 2) || (q.ety == 4 && q.e == 4))
    trapIf ((q.cop == 1 || q.cop == 2) && !sumOk) 0x07
    strideOk [(src.toNat : Int), (dst.toNat : Int)] q.e
    let ownSrc := q.cop == 1 || q.cop == 2 || q.cop == 3
    let ownDst := q.cop == 0 || q.cop == 2
    if ownSrc then needWindow src 1 0x08 else pure ()
    if ownDst then needWindow dst 1 0x09 else pure ()
    if q.cop = 4 then needWindow dst 2 0x09 else pure ()
    let members := popCount (BitVec.ofNat 16 (bits mask 15 0))
    let (so, sr) ← operand src 0 q.len accR
    let (dop, dr) ← operand dst 0 (if q.cop = 3 then (members * q.len : Nat) else q.len) accW
    let u ← myUnit
    let k ← newCmd
    let s ← get
    let logical := fun (j : Nat) => if q.cop = 4 then 16 * j else k.home / 16 * 16 + j
    let js := (List.range 16).filter (bit mask ·)
    stallUnless (!js.any (fun j => s.lumRes k.part (logical j) == .migrating)) wLum
    let own := js.any (fun j => s.lumRes k.part (logical j) == .to u)
    let reads := declared u ownSrc own so sr
    let writes := if q.cop = 4 then s.castRegions k.part mask (windowOff dst) q.len else declared u ownDst own dop dr
    footprint reads writes
    let t ← accept { k with shape := sh, ops := [dop, so], args := [mask], reads := reads, writes := writes }
    wrS d t) s

/-- The sum of a list of patterns in increasing member number, and its flags (R156). -/
def collSum (ety : Nat) (vals : List Nat) : Nat × Nat :=
  match ety with
  | 4 =>
    let r := vals.foldl (fun (a : Int × Nat) v => let (c, out) := (ifmt 4).clamp (a.1 + (ifmt 4).decode v); (c, if out then Nat.lor a.2 fIS else a.2)) (0, 0)
    ((ifmt 4).encode r.1, r.2)
  | _ =>
    let l := vals.map (toF32 ety)
    let add := fun (a : Nat × Nat) v =>
      let (x, nv) := fvAdd 0 (f32.decode a.1) (f32.decode v)
      let (p, f) := f32.roundNE x.ex
      (p, Nat.lor a.2 (Nat.lor nv f))
    let r := match l with | [] => (0, 0) | h :: t => t.foldl add (h, 0)
    if ety = 1 then let (p, f) := bf16.roundNE (f32.decode r.1).ex; (p, Nat.lor r.2 f) else r

/-- COLL's effect (R156). DESIGN CHOICE: its members' map entries are read again as it executes, where R156 finds an unmapped one, though
the regions CBCAST declares were found at issue (R28, log 73); a fault in a member's region that REDUCE or ALLRED reads leaves
every element of the write regions old (R159, log 74). -/
def runColl (s : State) (u : Nat) (k : Cmd) : CmdRes :=
  let q := copyShape k.shape
  let dst := k.ops.getD 0 { va := 0 }
  let src := k.ops.getD 1 { va := 0 }
  let mask := k.args.getD 0 0
  let js := (List.range 16).filter (fun j => bit mask j)
  let log := fun j => if q.cop = 4 then 16 * j else k.home / 16 * 16 + j
  let cause := if q.cop = 1 ∨ q.cop = 2 ∨ q.cop = 3 then 0x08 else 0x09
  let ms := js.map (fun j => s.member u k.part (log j) cause)
  if ms.any (·.isNone) then .wait s else
  let res := ms.filterMap id
  let units := res.filterMap (fun e => match e with | .ok v => some v | .error _ => none)
  let missing := res.filterMap (fun e => match e with | .ok _ => none | .error c => some (Except.error c : Except Nat EWrite))
  let elts := (List.range q.n0).map (fun (i : Nat) => (i : Int) * q.e)
  let off := windowOff dst.va
  let soff := windowOff src.va
  let tag := fun (_ : Nat) => BitVec.ofNat 16 q.otag
  match q.cop with
  | 1 | 2 =>
    if missing ≠ [] then .fault s ((causeOf missing).getD cause) 0 0 0 else
    let (sums, s) := collect (elts.map (fun o => do
      let vs ← units.mapM (fun v => engRead u (memberLoc 1 v (soff + o.toNat)) q.e)
      pure (collSum q.ety vs))) s
    let fl := (goodOf sums).foldl (fun a e => Nat.lor a e.2) 0
    match causeOf sums with
    | some c => .fault s c 0 0 fl
    | none =>
      let vals := (goodOf sums).map (·.1)
      if q.cop = 2 then
        finishWrites u k.cut (units.flatMap (fun v => vals.zipIdx.map (fun e => .ok { loc := memberLoc 1 v (off + e.2 * q.e), n := q.e, data := e.1 }))) tag 0 0 fl s
      else
        let (ws, s) := collect (vals.zipIdx.map (fun e => do
          let dl ← opLoc u k dst ((e.2 : Int) * q.e) accW
          pure ({ loc := dl, n := q.e, data := e.1 } : EWrite))) s
        finishWrites u k.cut ws tag 0 0 fl s
  | 3 =>
    let nth := res.zipIdx.filterMap (fun e => match e.1 with | .ok v => some (v, e.2) | .error _ => none)
    let (ws, s) := collect (nth.flatMap (fun m => elts.map (fun o => do
      let sl := memberLoc 1 m.1 (soff + o.toNat)
      let v ← engRead u sl q.e
      let s ← get
      let dl ← opLoc u k dst ((m.2 * q.len : Nat) + o) (engAcc true q.fem)
      pure ({ loc := dl, n := q.e, data := v, fe := femOf q.fem (s.feAt sl) } : EWrite)))) s
    finishWrites u k.cut (ws ++ missing) tag 0 0 0 s
  | _ =>
    let (ws, s) := collect (units.flatMap (fun m => elts.map (fun o => do
      let sl ← opLoc u k src o (engAcc false q.fem)
      let v ← engRead u sl q.e
      let s ← get
      pure ({ loc := memberLoc q.cop m (off + o.toNat), n := q.e, data := v, fe := femOf q.fem (s.feAt sl) } : EWrite)))) s
    finishWrites u k.cut (ws ++ missing) tag 0 0 0 s

/-! ### Tile moves (R126, R127) -/

/-- Acceptance of TMOV (R126). DESIGN CHOICE: the output tag's check stands with the count's, of the same cause (log 58). -/
def tmov (d a b : BitVec 5) (h : BitVec 4) (tg : Bool) : M Unit := do
  needS b
  needD d
  let dst ← rdS a
  let src ← rdS b
  let sh ← shapeOf h
  let n := shapeF sh 1
  let t := shapeF sh 8 / 2 ^ 16
  trapIf (n == 0 || 32768 < n || !tagOk t) 0x07
  trapIf (bits dst 9 0 != 0 || bits src 9 0 != 0) 0x05
  let (so, sr) ← operand src 0 ((1024 * n : Nat) : Int) accR
  let (dop, dr) ← operand dst 0 ((1024 * n : Nat) : Int) accW
  trapIf (!isWindow src && !isWindow dst) 0x07
  trapIf (!tg && !isWindow src) 0x07
  let k ← newCmd
  let i ← accept { k with shape := sh, ops := [dop, so], reads := [sr], writes := [dr] }
  wrS d i

def execTmov (d a b : BitVec 5) (h : BitVec 4) (s : State) := runInstr (.tmov d a b h) (tmov d a b h false) s
def execTmovTg (d a b : BitVec 5) (h : BitVec 4) (s : State) := runInstr (.tmovTg d a b h) (tmov d a b h true) s

/-- One word of a tile move: data and full/empty bit. -/
def moveWord (u : Nat) (k : Cmd) (src dst : Opnd) (off : Int) : E EWrite := do
  let sl ← opLoc u k src off { fe := true }
  let v ← engRead u sl 8
  let s ← get
  let dl ← opLoc u k dst off { write := true, fe := true }
  pure { loc := dl, n := 8, data := v, fe := some (s.feAt sl) }

/-- The writes of a tile move, granule by granule: one with a word that cannot be read or placed is not written (R111, R126, R127). -/
def wholeGranules (n : Nat) (ws : List (Except Nat EWrite)) : List (Except Nat EWrite) :=
  (List.range n).flatMap (fun g =>
    let l := (ws.drop (128 * g)).take 128
    if (causeOf l).isSome then l.filter (fun e => match e with | .ok _ => false | .error _ => true) else l)

/-- TMOV's effect: every source granule is read, with its tag, before any destination granule is written (R126). -/
def runTmov (s : State) (u : Nat) (k : Cmd) (tg : Bool) : CmdRes :=
  let n := shapeF k.shape 1
  let t := BitVec.ofNat 16 (shapeF k.shape 8 / 2 ^ 16)
  let dst := k.ops.getD 0 { va := 0 }
  let src := k.ops.getD 1 { va := 0 }
  let (s, tags) := (List.range n).foldl (fun (a : State × List (BitVec 16)) g =>
    match src.home with
    | some h => let (s, q) := a.1.tagRead (h + 1024 * g); (s, a.2 ++ [q])
    | none => (a.1, a.2 ++ [0])) (s, [])
  let (ws, s) := collect ((List.range (128 * n)).map (fun (i : Nat) => moveWord u k src dst ((8 * i : Nat) : Int))) s
  let tagOf := fun (a : Nat) => match dst.home with
    | some h => if tg then t else tags.getD ((a - h) / 1024) 0
    | none => 0
  finishWrites u k.cut (wholeGranules n ws) tagOf 0 0 0 s

/-! ### Tags (R128, R129) -/

/-- Waits until the context's own stores into a granule are performed (R124). -/
def granuleWait (loc : Nat) : M Unit := do
  let s ← get
  stallUnless (!(s.ownStores s.cur).any (fun e => e.rs != 2 && e.meets (loc / 1024 * 1024) 1024)) wStore

/-- The home a window address names, or a cause (R128, R129). -/
def tagHome (a : Word) (k : Acc) : M Nat := do
  if isWindow a && (windowRoom a).isSome then home a k 1 true else trapAt k.absent a 7 0

/-- TTAG and TTAG.CAS (R128). -/
def ttag (d a b : BitVec 5) (cas : Bool) : M Unit := do
  needS b
  needD d
  let x ← rdS a
  let v ← rdS b
  let loc ← tagHome x accW
  trapIf (!tagOk (bits v 15 0)) 0x07
  granuleWait loc
  let s ← get
  let r ← blocking { ctx := s.cur, loc := loc, op := .ttag cas, data := v, rd := d.toNat, va := x, insn := s.insn }
  wrS d r

def execTtag (d a b : BitVec 5) (s : State) := runInstr (.ttag d a b) (ttag d a b false) s
def execTtagCas (d a b : BitVec 5) (s : State) := runInstr (.ttagCas d a b) (ttag d a b true) s

def execTget (d a : BitVec 5) (s : State) :=
  runInstr (.tget d a) (do
    needD d
    let x ← rdS a
    let loc ← tagHome x accR
    granuleWait loc
    let s ← get
    let r ← blocking { ctx := s.cur, loc := loc, op := .tget, rd := d.toNat, va := x, insn := s.insn }
    wrS d r) s

end Sys2Proof.Machine
end

