-- ==== Sys2Proof/Machine/Gme.lean ====
section
/-! DEFINITION. Gaussian messages (R270 to R288): acceptance of the nine GME instructions, their exact FP32 arithmetic, and
dependence counters at their home (R352), which GSEND decrements. -/

namespace Sys2Proof.Machine

/-! ### Records (R271, R272) -/

/-- The size of a record. -/
def recSize : Nat := 1152
/-- `n` bytes of a record, held as one number, at an offset. -/
def recAt (r off n : Nat) : Nat := r >>> (8 * off) % 2 ^ (8 * n)
/-- Replaces `n` bytes of a record at an offset. -/
def recPut (r off n v : Nat) : Nat := r - recAt r off n * 2 ^ (8 * off) + v % 2 ^ (8 * n) * 2 ^ (8 * off)
/-- A copy of a record, with FLG's reserved bits zero (R272). -/
def recCopy (r : Nat) : Nat := recPut r 0x15 1 (recAt r 0x15 1 % 4)

/-- A Gaussian of `d` dimensions: the lower triangle of the matrix stands for all of it (R270). -/
structure Gauss where
  d : Nat
  eta : List FV
  lam : List (List FV)

/-- An element of the symmetric matrix. -/
def Gauss.at (g : Gauss) (i j : Nat) : FV := if j ≤ i then (g.lam.getD i []).getD j (.fin false 0 0) else (g.lam.getD j []).getD i (.fin false 0 0)
/-- An element of the information vector. -/
def Gauss.e (g : Gauss) (i : Nat) : FV := g.eta.getD i (.fin false 0 0)

/-! ### Arithmetic (R277, R280) -/

/-- A computation that accrues flags and may end with a cause. -/
abbrev G := EStateM Nat Nat

/-- One rounding: RoundNE to FP32, its flags accrued; a NaN or infinity ends the command with cause 0x21 (R277). -/
def gRound (x : Ex) (flags : Nat) : G FV := do
  let (p, f) := f32.roundNE x
  modify (fun a => Nat.lor a (Nat.lor f flags))
  match f32.decode p with
  | .fin n m e => pure (.fin n m e)
  | _ => throw 0x21

/-- RoundNE(x + y). -/
def gAdd (x y : FV) : G FV := let (v, n) := fvAdd 0 x y; gRound v.ex n
/-- RoundNE(t + x × y), rounded once. -/
def gFma (t x y : FV) : G FV := let (v, n) := fvAdd 0 t (fvMul x y).1; gRound v.ex n
/-- RoundNE(t - x × y), rounded once. -/
def gFms (t x y : FV) : G FV := gFma t x.negate y
/-- RoundNE(t ÷ d). -/
def gDiv (t d : FV) : G FV := let (v, n) := fvDiv t d; gRound v n
/-- RoundNE(√s). -/
def gSqrt (s : FV) : G FV := let (v, n) := fvSqrt s; gRound v n

/-- A finite value read within DIM (R277). -/
def gVal (x : Nat) : G FV :=
  match f32.decode x with
  | .fin n m e => pure (.fin n m e)
  | _ => throw 0x21

/-- DIM and MO of a source of an information-form command (R277). -/
def gDim (r : Nat) : G Nat :=
  let d := recAt r 0x14 1
  if d = 0 ∨ 16 < d ∨ (recAt r 0x15 1).testBit 1 = true then throw 0x07 else pure d

/-- The Gaussian of a record (R270, R271). -/
def gRead (r d : Nat) : G Gauss := do
  let eta ← (List.range d).mapM (fun i => gVal (recAt r (0x40 + 4 * i) 4))
  let lam ← (List.range d).mapM (fun i => (List.range (i + 1)).mapM (fun j => gVal (recAt r (0x80 + 64 * i + 4 * j) 4)))
  pure { d := d, eta := eta, lam := lam }

/-- The FP32 pattern of a value already rounded. -/
def gPat (v : FV) : Nat := (f32.roundNE v.ex).1

/-- A record from a header and a Gaussian: full symmetric matrix, zero elsewhere, reserved flags zero (R270, R272). -/
def gRecord (hdr : Nat) (g : Gauss) : Nat :=
  let h := recPut (recPut (hdr % 2 ^ 512) 0x14 1 g.d) 0x15 1 (recAt hdr 0x15 1 % 4)
  h + nsum ((List.range g.d).map (fun i => gPat (g.e i) * 2 ^ (8 * (0x40 + 4 * i)) +
    nsum ((List.range g.d).map (fun j => gPat (g.at i j) * 2 ^ (8 * (0x80 + 64 * i + 4 * j))))))

/-- A step of a running difference over two lists in order. -/
def gDots (t : FV) (l : List (FV × FV)) : G FV := l.foldlM (fun t p => gFms t p.1 p.2) t

/-- Cholesky's factor, row by row (R280). -/
def chol (m : Nat → Nat → FV) (e : Nat) (eps : FV) : G (List (List FV)) :=
  (List.range e).foldlM (fun rows j => do
    let rj := rows.getD j []
    let s ← gDots (m j j) (rj.zip rj)
    if eps != .nan && !fvLt eps s then throw 0x20 else do
      let ljj ← gSqrt s
      rows.zipIdx.mapM (fun r =>
        if r.2 < j then pure r.1
        else if r.2 = j then pure (r.1 ++ [ljj])
        else do
          let t ← gDots (m r.2 j) (r.1.zip rj)
          let q ← gDiv t ljj
          pure (r.1 ++ [q]))) (List.replicate e [])

/-- Forward substitution: y with L y = v (R280). -/
def fwd (l : List (List FV)) (v : List FV) : G (List FV) :=
  v.zipIdx.foldlM (fun y t => do
    let r := l.getD t.2 []
    let s ← gDots t.1 (r.zip y)
    let q ← gDiv s (r.getD t.2 (.fin false 0 0))
    pure (y ++ [q])) []

/-- GACC and GSUB (R279). -/
def gAcc (neg : Bool) (maps : Nat) (jr mr : Nat) : G Nat := do
  let dj ← gDim jr
  let dm ← gDim mr
  let pos := (List.range dm).map (fun i => maps >>> (4 * i) % 16)
  if dj < dm ∨ pos.any (fun p => dj ≤ p) = true ∨ pos.eraseDups.length ≠ dm then throw 0x07 else do
    let j ← gRead jr dj
    let m ← gRead mr dm
    let sg := fun (v : FV) => if neg then v.negate else v
    let eta ← (List.range dj).mapM (fun p => if pos.contains p then gAdd (j.e p) (sg (m.e (pos.idxOf p))) else pure (j.e p))
    let lam ← (List.range dj).mapM (fun p => (List.range (p + 1)).mapM (fun q =>
      if pos.contains p && pos.contains q then gAdd (j.at p q) (sg (m.at (pos.idxOf p) (pos.idxOf q))) else pure (j.at p q)))
    pure (gRecord jr { d := dj, eta := eta, lam := lam })

/-- GSCHUR (R280). -/
def gSchur (keep : Nat) (eps : FV) (r : Nat) : G Nat := do
  let d ← gDim r
  if keep = 0 ∨ 2 ^ d ≤ keep then throw 0x07 else do
    let g ← gRead r d
    let as := (List.range d).filter (fun i => keep.testBit i)
    let bs := (List.range d).filter (fun i => !keep.testBit i)
    let a := fun i => as.getD i 0
    let b := fun i => bs.getD i 0
    if bs = [] then pure (gRecord r g) else do
      let l ← chol (fun i j => g.at (b i) (b j)) bs.length eps
      let ys ← as.mapM (fun c => fwd l (bs.map (fun i => g.at i c)))
      let z ← fwd l (bs.map g.e)
      let rows ← (List.range as.length).mapM (fun i => do
        let y := ys.getD i []
        let eta ← gDots (g.e (a i)) (y.zip z)
        let row ← (List.range (i + 1)).mapM (fun c => gDots (g.at (a i) (a c)) (y.zip (ys.getD c [])))
        pure (eta, row))
      pure (gRecord r { d := as.length, eta := rows.map (·.1), lam := rows.map (·.2) })

/-- GSOLVE (R281). -/
def gSolve (eps : FV) (r : Nat) : G Nat := do
  let d ← gDim r
  let g ← gRead r d
  let l ← chol g.at d eps
  let lat := fun i j => (l.getD i []).getD j (.fin false 0 0)
  let y ← fwd l g.eta
  let mu ← (List.range d).reverse.foldlM (fun mu i => do
    let t ← gDots (y.getD i (.fin false 0 0)) (((rangeFrom (i + 1) (d - 1 - i)).map (fun p => lat p i)).zip mu)
    let q ← gDiv t (lat i i)
    pure (q :: mu)) []
  let one := FV.fin false 1 0
  let zero := FV.fin false 0 0
  let zs ← (List.range d).mapM (fun c => fwd l ((List.range d).map (fun i => if i = c then one else zero)))
  let zat := fun p c => (zs.getD c []).getD p zero
  let sig ← (List.range d).mapM (fun i => (List.range (i + 1)).mapM (fun j =>
    (rangeFrom i (d - i)).foldlM (fun t p => gFma t (zat p i) (zat p j)) zero))
  let out := gRecord r { d := d, eta := mu, lam := sig }
  pure (recPut out 0x15 1 (Nat.lor (recAt out 0x15 1) 2))

/-- GDAMP (R282). -/
def gDamp (nr or_ : Nat) : G Nat := do
  let d ← gDim nr
  let d' ← gDim or_
  let beta := f32.decode (recAt nr 0x0C 4)
  let one := FV.fin false 1 0
  let zero := FV.fin false 0 0
  if d ≠ d' ∨ beta = .nan ∨ fvLt beta zero = true ∨ fvLt one beta = true then throw 0x07 else do
    let n ← gRead nr d
    let o ← gRead or_ d
    let mix := fun (x y : FV) =>
      if fvEq beta zero then pure x
      else if fvEq beta one then pure y
      else let (v, f) := fvAdd 0 (fvMul (fvAdd 0 one beta.negate).1 x).1 (fvMul beta y).1; gRound v.ex f
    let eta ← (List.range d).mapM (fun i => mix (n.e i) (o.e i))
    let lam ← (List.range d).mapM (fun i => (List.range (i + 1)).mapM (fun j => mix (n.at i j) (o.at i j)))
    pure (gRecord nr { d := d, eta := eta, lam := lam })

/-- GRESID (R283). -/
def gResid (ar br : Nat) : G Nat := do
  let d ← gDim ar
  let d' ← gDim br
  if d ≠ d' then throw 0x07 else do
    let a ← gRead ar d
    let b ← gRead br d
    let ps := (a.eta.zip b.eta) ++ (a.lam.flatten.zip b.lam.flatten)
    let rs ← ps.mapM (fun p => gAdd p.1 p.2.negate)
    let mag := fun (v : FV) => match v with | .fin _ m e => FV.fin false m e | v => v
    let r := rs.foldl (fun m v => if fvLt m (mag v) then mag v else m) (FV.fin false 0 0)
    pure (recPut (gRecord ar a) 0x10 4 (gPat r))

/-! ### Acceptance (R275, R276) -/

/-- The kinds of GME instruction, by opcode. -/
inductive GKind where
  | gld (take : Bool)
  | gst
  | gacc
  | gsub
  | gschur
  | gdamp
  | gsolve
  | gresid
  | gsend (rs : Bool)
deriving DecidableEq, Repr

/-- The kind of GME instruction an encoded instruction is. -/
def gKind (i : Instr) : Option GKind :=
  match i with
  | .gld _ _ _ t => some (.gld (t.toNat == 1))
  | .gst .. => some .gst
  | .gacc .. => some .gacc
  | .gsub .. => some .gsub
  | .gschur .. => some .gschur
  | .gdamp .. => some .gdamp
  | .gsolve .. => some .gsolve
  | .gresid .. => some .gresid
  | .gsend _ _ _ _ r => some (.gsend (r.toNat == 1))
  | _ => none

/-- The shape's check by kind (R133, R274). -/
def gShapeOk (k : GKind) (h : BitVec 512) : Bool :=
  match k with
  | .gacc | .gsub => shapeF h 0 == 5
  | .gschur => shapeF h 0 == 5 && shapeF h 1 / 2 ^ 16 == 0
  | _ => true

/-- Whether an address is in a window from `lo` to `hi`. -/
def inWindow (va : Word) (lo hi : Nat) : Bool := isWindow va && lo ≤ bits va 47 44 && bits va 47 44 ≤ hi

/-- The kinds of address a GME instruction takes (R276 step 4). -/
def gAddrOk (k : GKind) (dst src cnt : Word) : Bool :=
  (match k with
    | .gst => true
    | .gsend _ => inWindow dst 1 5
    | _ => inWindow dst 1 1) &&
  (match k with | .gld true => inWindow src 1 5 | _ => true) &&
  (cnt == 0 || inWindow cnt 1 1 || inWindow cnt 4 4)

/-- The first source's address: ra, or the slot at C of the handle it names, with the handle and its footprint, the whole slot (R144,
R275, R276 step 1). -/
def gSource (v : Word) (bh : Bool) : M (Word × List Nat × List Region) := do
  if bh then do
    let (h, b) ← theHandle v
    trapIf (b.slot b.c != 3) 0x06
    trapIf (b.ssize < 2) 0x07
    let u ← myUnit
    pure (ownWindow (b.offset b.c), [h], [homeRegion (unitLoc u (b.offset b.c)) (b.ssize * 1024)])
  else pure (v, [], [])

/-- A GME instruction at the head of the dispatch queue (R276). An operand of an unmapped logical unit is accepted: the command finds it
as it executes (R277). -/
def gAtHead (k : GKind) (d : BitVec 5) (hasB : Bool) (h : BitVec 4) (bh : BitVec 1) (l : List Word) : M Unit := do
  let dst := op0 l
  let bv := l.getD 2 0
  needD d
  let x ← getC
  let (src, hs, hr) ← gSource (op1 l) (bh.toNat == 1)
  (match k with | .gacc => regCheck 5 h.toNat | .gsub => regCheck 5 h.toNat | .gschur => regCheck 5 h.toNat | _ => pure ())
  let img := x.h h.toNat
  trapIf (!gShapeOk k img) 0x07
  let isSend := match k with | .gsend _ => true | _ => false
  let two := hasB && !isSend
  let cnt := if isSend then bv else 0
  trapIf (dst.toNat % 64 != 0 || src.toNat % 64 != 0 || (two && bv.toNat % 64 != 0) || cnt.toNat % 8 != 0) 0x05
  trapIf (!gAddrOk k dst src cnt) 0x07
  let (so, sr) ← operand src 0 1152 accR (late := true)
  let (bo, br) ← if two then operand bv 0 1152 accR (late := true) else pure ({ va := 0 }, { lo := 0, len := 0 })
  let (dop, dr) ← operand dst 0 1152 accW (late := true)
  let (co, cr) ← if cnt = 0 then pure ({ va := 0 }, { lo := 0, len := 0 }) else operand cnt 0 8 accW (late := true)
  let reads := sr :: (if two then [br] else [])
  let writes := dr :: ((if cnt = 0 then [] else [cr]) ++ (if k = .gld true then [sr] else []))
  trapIf (reads.any (fun r => writes.any (fun w => r.meets w && r != w))) 0x11
  let c ← newCmd
  let t ← accept { c with
    shape := img, ops := [dop, so, bo, co], args := [x.csrGet 0x40, x.csrGet 0x41, cnt], reads := reads ++ hr, writes := writes, handles := hs }
  wrS d t

/-- Issue of a GME instruction: it waits for the head of the dispatch queue (R276). -/
def gIssue (k : GKind) (d a : BitVec 5) (b : Option (BitVec 5)) (h : BitVec 4) (bh : BitVec 1) : M Unit :=
  atHead (d :: a :: b.toList) (fun _ => true) (gAtHead k d b.isSome h bh)

def execGld (d a : BitVec 5) (y t : BitVec 1) (s : State) := runInstr (.gld d a y t) (gIssue (.gld (t.toNat == 1)) d a none 0 y) s
def execGst (d a : BitVec 5) (y : BitVec 1) (s : State) := runInstr (.gst d a y) (gIssue .gst d a none 0 y) s
def execGacc (d a b : BitVec 5) (h : BitVec 4) (y : BitVec 1) (s : State) := runInstr (.gacc d a b h y) (gIssue .gacc d a (some b) h y) s
def execGsub (d a b : BitVec 5) (h : BitVec 4) (y : BitVec 1) (s : State) := runInstr (.gsub d a b h y) (gIssue .gsub d a (some b) h y) s
def execGschur (d a : BitVec 5) (h : BitVec 4) (y : BitVec 1) (s : State) := runInstr (.gschur d a h y) (gIssue .gschur d a none h y) s
def execGdamp (d a b : BitVec 5) (y : BitVec 1) (s : State) := runInstr (.gdamp d a b y) (gIssue .gdamp d a (some b) 0 y) s
def execGsolve (d a : BitVec 5) (y : BitVec 1) (s : State) := runInstr (.gsolve d a y) (gIssue .gsolve d a none 0 y) s
def execGresid (d a b : BitVec 5) (y : BitVec 1) (s : State) := runInstr (.gresid d a b y) (gIssue .gresid d a (some b) 0 y) s
def execGsend (d a b : BitVec 5) (y r : BitVec 1) (s : State) := runInstr (.gsend d a b y r) (gIssue (.gsend (r.toNat == 1)) d a (some b) 0 y) s

/-! ### Dependence counters at their home (R352) -/

/-- A decrement of `n` of the counter at a home, for a partition: the old word, a cause, or a wait for a full ring. -/
def State.dcntHome (s : State) (loc n p : Nat) : AtHome :=
  let s := (s.rouse loc).correct (padUnit loc) loc 8
  if s.readErr loc 8 ≠ 0 then .cause s (s.readErr loc 8) else
  let w := w64 (s.peek loc 8)
  let c := bits w 15 0
  let put := fun (s : State) (v : Nat) => (s.poke loc 8 (putBits w 15 0 v).toNat).clearV loc
  if n < c then .done (put s (c - n)) w
  else if c = 0 then .done s w
  else
    let r := bits w 34 32
    let ring := s.ring (padUnit loc) r
    if !ring.usable p then .cause s 0x06
    else if ringCap ≤ ring.q.length then .wait s
    else .done ((put s (bits w 63 48)).ringPush (padUnit loc) r (ownWindow (bits w 47 35 * 64) ||| w64 (b2n (bit w 16)))) w

/-! ### Effects (R277 to R284) -/

/-- Reads a record whole; a record in host memory is cause 0x07 (R277). -/
def recRead (u : Nat) (k : Cmd) (o : Opnd) : E Nat := do
  let ws ← (List.range 144).mapM (fun i => do
    let l ← opLoc u k o ((8 * i : Nat) : Int) accR
    if isHostPa l then throw 0x07 else engRead u l 8)
  pure (ws.foldr (fun v acc => v + acc <<< 64) 0)

/-- The writes of a whole record. -/
def recWrites (u : Nat) (k : Cmd) (o : Opnd) (r : Nat) : E (List EWrite) :=
  (List.range 144).mapM (fun i => do
    let l ← opLoc u k o ((8 * i : Nat) : Int) accW
    if isHostPa l then throw 0x07 else pure { loc := l, n := 8, data := recAt r (8 * i) 8 })

/-- A part that computes. -/
def liftG (g : G Nat) : E (Nat × Option Nat × Nat) := fun s =>
  match g 0 with
  | .ok v f => .ok (v, none, f) s
  | .error c f => .ok (0, some c, f) s

/-- What a computing command makes of its records (R279 to R283). -/
def gCompute (kd : GKind) (k : Cmd) (a b : Nat) : G Nat :=
  let eps := f32.decode (bits (k.args.getD 0 0) 31 0)
  match kd with
  | .gld _ | .gst | .gsend _ => pure (recCopy a)
  | .gacc => gAcc false (shapeF k.shape 2 + shapeF k.shape 3 * 2 ^ 32) a b
  | .gsub => gAcc true (shapeF k.shape 2 + shapeF k.shape 3 * 2 ^ 32) a b
  | .gschur => gSchur (shapeF k.shape 1 % 2 ^ 16) eps a
  | .gdamp => gDamp a b
  | .gsolve => gSolve eps a
  | .gresid => gResid a b

/-- The effect of every GME command but GSEND: nothing is written when a fault ends it (R277). -/
def runRecord (s : State) (u : Nat) (k : Cmd) (kd : GKind) : CmdRes :=
  let op := fun i => k.ops.getD i { va := 0 }
  let two := decide (kd = .gacc ∨ kd = .gsub ∨ kd = .gdamp ∨ kd = .gresid)
  let body : E (List EWrite × Option Nat × Nat) := do
    let a ← recRead u k (op 1)
    let b ← if two then recRead u k (op 2) else pure 0
    let (r, c, f) ← liftG (gCompute kd k a b)
    match c with
    | some _ => pure ([], c, f)
    | none => do
      let ws ← recWrites u k (op 0) r
      if kd = .gld true then do
        let l ← opLoc u k (op 1) 0x15 accW
        pure ({ loc := l, n := 1, data := recAt a 0x15 1 / 2 * 2 } :: ws, none, f)
      else pure (ws, none, f)
  match body s with
  | .error c s => .fault s c 0 0 0
  | .ok (_, some c, f) s => .fault s c 0 0 f
  | .ok (ws, none, f) s => .ok (s.applyWrites u ws (fun _ => 0)) 0 0 f

/-- Whether the accesses a context issued before a command are performed, as a release asks (R311, R320). -/
def State.relOkBefore (s : State) (c no : Nat) : Bool :=
  let sb := (s.unit (s.unitOf c)).sb
  !sb.any (fun e => e.id < no && e.rs != 2 && (e.ctx == c || (s.dirE c).sibRead.contains e.id)) && !(s.ctx c).ldqOut.any (fun e => e.id < no)

/-- GSEND's decrement, once its slot is written (R284): it is a release (R320), and a full ring holds it back. -/
def sendCount (s : State) (u : Nat) (k : Cmd) : CmdRes :=
  let o := k.ops.getD 3 { va := 0 }
  match o.home with
  | none => if o.unmapped then .fault s 0x09 0 0 0 else .ok s 0 0 0
  | some loc =>
    if s.cutOff u loc then .fault s 0x45 0 0 0
    else if !s.relOkBefore k.issuer k.no then .wait s
    else match s.dcntHome loc 1 k.part with
      | .wait _ => .wait s
      | .cause s c => .fault s c 0 0 0
      | .done s _ => .ok s 0 0 0

/-- GSEND's effect (R284). -/
def runSend (s : State) (u : Nat) (k : Cmd) (rs : Bool) : CmdRes :=
  if k.phase = 1 then sendCount s u k else
  let op := fun i => k.ops.getD i { va := 0 }
  let body : E (Option (List EWrite)) := do
    let a ← recRead u k (op 1)
    if rs && fvLt (f32.decode (recAt a 0x10 4)) (f32.decode (bits (k.args.getD 1 0) 31 0)) then pure none else do
      let l ← opLoc u k (op 0) 8 accW
      let v ← engRead u l 4
      let s ← get
      let r := recPut a 0 8 (recAt a 0 4 + s.ctxId k.issuer % 2 ^ 22 * 2 ^ 32)
      let r := recPut (recPut r 8 4 (v + 1)) 0x15 1 (recAt a 0x15 1 / 2 % 2 * 2 + 1)
      let ws ← recWrites u k (op 0) r
      pure (some ws)
  match body s with
  | .error c s => .fault s c 0 0 0
  | .ok none s => .ok s 1 0 0
  | .ok (some ws) s =>
    let s := s.applyWrites u ws (fun _ => 0)
    match sendCount s u k with
    | .wait s => .wait (s.modUnit u (fun x => { x with cmds := x.cmds.map (fun j => if j.same k then { j with phase := 1 } else j) }))
    | r => r

end Sys2Proof.Machine
end

