-- ==== Sys2Proof/Machine/Ssu.lean ====
section
/-! DEFINITION. The speculative snapshot unit (R293 to R302): iterations, SNAP, SCOMMIT and SABORT. -/

namespace Sys2Proof.Machine

/-! ### Handles (R293, R299) -/

/-- The iteration of an entry. -/
def State.iter (s : State) (e : Nat) : Iter := mget s.ssu e {}
/-- Replaces an iteration. -/
def State.setIter (s : State) (e : Nat) (i : Iter) : State := { s with ssu := mset s.ssu e i }

/-- The unit must be reachable: from Croft only while Acre runs (R25). -/
def ssuReady : M Unit := do
  needAcre
  modify (fun s => s.reapIters)

/-- The entry a handle of sixteen bits names, or causes 0x06 and 0x28 (R299). -/
def handleOf (h : Nat) : M (Nat × Iter) := do
  let s ← get
  let e := h % 256
  let i := s.iter e
  let mine := i.gen == h / 256 && i.part == (s.dirE s.cur).part
  if i.st == 3 && mine then throw (.trap { cause := 0x28, addr := w64 (i.gen * 256 + e), aux := w64 i.cause }) else pure ()
  trapIf (!(i.st == 1 && mine)) 0x06
  pure (e, i)

/-- The entry a handle operand names (R299). -/
def handleArg (v : Word) : M (Nat × Iter) := do
  trapIf (bits v 63 16 != 0) 0x06
  handleOf v.toNat

/-- A context as a member. -/
def Iter.member (i : Iter) (c : Nat) : Option Member := i.members.find? (fun m => m.ctx == c)

/-- Joins a member; a 65th is cause 0x07 (R299). -/
def Iter.join (i : Iter) (c : Nat) : M Iter := do
  if (i.member c).isSome then pure i else do
    trapIf (64 ≤ i.members.length) 0x07
    pure { i with members := i.members ++ [{ ctx := c }] }

/-! ### Opening, joining, finishing, aborting (R299) -/

def execSnapOpen (d a : BitVec 5) (s : State) :=
  runInstr (.snapOpen d a) (do
    needD d
    let t ← rdS a
    ssuReady
    if bits t 5 0 ≠ 0 then trapAt 0x05 t 7 3 else do
      let h ← readDws t 8
      let at_ := fun n => w64 (h.getD n 0)
      let nseq := bits (at_ 2) 31 0
      trapIf (bits (at_ 0) 7 0 != 0) 0x05
      let seqs ← if nseq = 0 ∨ 64 < nseq then pure [] else readDws (t + 0x40) nseq
      trapIf (seqs.any (fun q => q % 256 != 0)) 0x05
      trapIf (nseq == 0 || 64 < nseq || bits (at_ 2) 63 32 != 0 || (rangeFrom 3 5).any (fun n => at_ n != 0) || bits (at_ 1) 7 0 != 0 ||
        2 ^ 32 < (at_ 1).toNat) 0x07
      let s ← get
      match (List.range 256).find? (fun e => (s.iter e).st == 0) with
      | none => wrS d (BitVec.allOnes 64)
      | some e =>
        let g := ((s.iter e).gen + 1) % 256
        modify (fun s => s.setIter e
          { gen := g, st := 1, part := (s.dirE s.cur).part, opener := s.cur, area := at_ 0, asize := (at_ 1).toNat
            seqs := seqs.map w64, members := [{ ctx := s.cur }] })
        wrS d (w64 (g * 256 + e))) s

def execSnapJoin (a : BitVec 5) (s : State) :=
  runInstr (.snapJoin a) (do
    let v ← rdS a
    ssuReady
    let (e, i) ← handleArg v
    let s ← get
    let i ← i.join s.cur
    modify (fun s => s.setIter e i)) s

def execSnapFin (a : BitVec 5) (s : State) :=
  runInstr (.snapFin a) (do
    let v ← rdS a
    ssuReady
    let (e, i) ← handleArg v
    let s ← get
    trapIf (i.member s.cur).isNone 0x06
    modify (fun s => s.setIter e { i with members := i.members.map (fun m =>
      if m.ctx = s.cur ∧ m.st = 0 then { m with st := 1, no := s.ids } else m) })) s

def execSabort (a : BitVec 5) (s : State) :=
  runInstr (.sabort a) (do
    let v ← rdS a
    ssuReady
    let (e, i) ← handleArg v
    let s ← get
    trapIf (i.member s.cur).isNone 0x06
    modify (fun s => s.abandon e s.cur 0 true)) s

/-! ### Finishing (R295, R299) -/

/-- MEMBER_FINISHED (R299): a finishing member is marked finished; it counts as such from the first moment it is (`memberDone`). -/
def execMemberFinished (s : State) :=
  runEvent (do
    let s ← get
    let i := s.iter s.arg.n0
    match i.member s.arg.n1 with
    | none => stall 0
    | some m => do
      enabled (i.st == 1 && m.st == 1 && s.memberDone m)
      set (s.setIter s.arg.n0 { i with members := i.members.map (fun x => if x.ctx = m.ctx then { x with st := 2 } else x) })) s

/-! ### SNAP (R300) -/

/-- Waits while the unit a window address names is migrating (R28). -/
def areaWait (va : Word) : M Unit := do
  let s ← get
  let w := s.whoIs s.cur
  stallUnless (!isWindow va || s.windowHome w.u w.part va accW != .wait wLum) wLum

/-- The snapshot area as an operand, resolved at issue; one of an unmapped unit is found as the command executes (R28, R300). -/
def State.areaOpnd (s : State) (w : Who) (va : Word) (n : Nat) : Opnd × Region :=
  if isWindow va then
    match windowRoom va, s.windowHome w.u w.part va accW with
    | some room, .ok loc => if n ≤ room then ({ va := va, home := some loc }, homeRegion loc n) else ({ va := va }, { lo := va.toNat, len := n })
    | some _, .fault .. => ({ va := va, unmapped := true }, { lo := va.toNat, len := n })
    | _, _ => ({ va := va }, { lo := va.toNat, len := n })
  else ({ va := va }, { lo := va.toNat, len := n })

/-- The pages of a range of virtual addresses. -/
def pagesOf (va : Word) (n : Nat) : List Word :=
  va :: ((List.range ((va.toNat % 4096 + n + 4095) / 4096)).tail.map (fun i => (va &&& ~~~0xFFF) + w64 (4096 * i)))

/-- Whether a range meets host memory. -/
def State.inHost (s : State) (w : Who) (va : Word) (n : Nat) : Bool :=
  !isWindow va && (pagesOf va n).any (fun p => match (s.resolve w p accR true).1 with | .ok loc => isHostPa loc | _ => false)

def execSnap (d a b : BitVec 5) (s : State) :=
  runInstr (.snap d a b) (do
    needS a
    needS b
    needS d
    needD d
    let key ← rdS d
    let src ← rdS a
    let live ← rdS b
    ssuReady
    let (e, i) ← handleOf (bits key 15 0)
    let node := bits key 21 16
    let q := bits key 37 32
    let n := (bits key 51 40 + 1) * 256
    trapIf (bits key 31 22 != 0 || bits key 39 38 != 0 || bits key 63 52 != 0 || i.seqs.length ≤ q) 0x07
    let s ← get
    trapIf ((i.member s.cur).any (fun m => m.st != 0)) 0x07
    trapIf (bits src 7 0 != 0 || bits live 7 0 != 0) 0x05
    let (so, sr) ← operand src 0 (n : Int) accR
    let (_, _) ← operand live 0 (n : Int) accW
    let s ← get
    let w := s.whoIs s.cur
    let same := fun (r : SnapRec) => r.q == q && r.node == node && r.live == live
    trapIf (s.inHost w live n || i.recs.any (fun r => same r && r.n != n) || i.asize < i.used + n ||
      1024 ≤ i.recs.length) 0x07
    areaWait (i.area + w64 i.used)
    let i ← i.join s.cur
    let (ao, ar) := s.areaOpnd w (i.area + w64 i.used) n
    let k ← newCmd
    let t ← accept { k with ops := [ao, so], args := [w64 n], reads := [sr], writes := [ar], iter := some e }
    modify (fun s => s.setIter e { i with
      used := i.used + n, recs := i.recs.filter (fun r => !same r) ++ [{ q := q, node := node, live := live, n := n, off := i.used }] })
    wrS d t) s

/-- SNAP's copy (R300). -/
def runSnap (s : State) (u : Nat) (k : Cmd) : CmdRes :=
  let dst := k.ops.getD 0 { va := 0 }
  let src := k.ops.getD 1 { va := 0 }
  let (ws, s) := collect ((List.range ((k.args.getD 0 0).toNat / 8)).map (fun (i : Nat) => moveWord u k src dst ((8 * i : Nat) : Int))) s
  finishWrites u k.cut ws (fun _ => 0) 0 0 0 s

/-! ### SCOMMIT (R301, R302) -/

/-- A sequence that a commit changes: its number, its record's address, and the doublewords of the record and of its accept
entry (R289, R301). -/
structure SeqIn where
  q : Nat
  addr : Word
  rec' : List Nat
  acc : List Nat

/-- Bytes of a table held as doublewords. -/
def dwAt (l : List Nat) (off n : Nat) : Nat := l.getD (off / 8) 0 >>> (8 * (off % 8)) % 2 ^ (8 * n)

/-- CLEN. -/
def SeqIn.clen (x : SeqIn) : Nat := dwAt x.rec' 0 4
/-- TOKBASE. -/
def SeqIn.tok (x : SeqIn) : Word := w64 (dwAt x.rec' 0x18 8)
/-- NKV. -/
def SeqIn.nkv (x : SeqIn) : Nat := dwAt x.rec' 0x21 1
/-- BASE, STRIDE and ESIZE of a descriptor. -/
def SeqIn.kv (x : SeqIn) (d : Nat) : Word × Nat × Nat := (w64 (dwAt x.rec' (0x40 + 16 * d) 8), dwAt x.rec' (0x48 + 16 * d) 4, dwAt x.rec' (0x4C + 16 * d) 4)
/-- A. -/
def SeqIn.a (x : SeqIn) : Nat := dwAt x.acc 0 1
/-- NODE[i] for i from 1. -/
def SeqIn.node (x : SeqIn) (i : Nat) : Nat := dwAt x.acc (0x10 + 2 * (i - 1)) 2
/-- TOK[i] for i from 1. -/
def SeqIn.tokAt (x : SeqIn) (i : Nat) : Nat := dwAt x.acc (0x40 + 4 * (i - 1)) 4
/-- The node whose snapshots are kept. -/
def SeqIn.last (x : SeqIn) : Nat := if x.a = 0 then 0 else x.node x.a

/-- The checks of R301 step 5. -/
def SeqIn.ok (x : SeqIn) : Bool :=
  x.nkv ≤ 8 && dwAt x.rec' 0x20 1 < 2 && x.tok.toNat % 8 == 0 && x.a ≤ 16 && dwAt x.acc 1 1 < 2 && dwAt x.acc 2 2 == 0 && dwAt x.acc 4 4 == 0 &&
    dwAt x.acc 0x34 4 == 0 && dwAt x.acc 0x38 8 == 0 && x.clen + 1 + x.a < dwAt x.rec' 4 4 &&
    (List.range x.a).all (fun i => let n := x.node (i + 1); 1 ≤ n && n ≤ 63 && (i == 0 || x.node i < n)) &&
    (List.range x.nkv).all (fun d =>
      let (b, st, e) := x.kv d
      b.toNat % 64 == 0 && st % 64 == 0 && e % 64 == 0 && 64 ≤ e && e ≤ 65536 && e ≤ st)

/-- The live regions with a record of a sequence, each once (R301 step 6). -/
def Iter.lives (i : Iter) (q : Nat) : List Word := ((i.recs.filter (fun r => r.q == q)).map (·.live)).eraseDups

/-- The record of a live region that a commit keeps. -/
def Iter.kept (i : Iter) (x : SeqIn) (l : Word) : Option SnapRec := i.recs.find? (fun r => r.q == x.q && r.live == l && r.node == x.last)

/-- The position copies of a commit, in order: source and destination offsets from BASE, and length (R301). -/
def SeqIn.moves (x : SeqIn) : List (Word × Nat × Nat × Nat) :=
  (List.range x.nkv).flatMap (fun d =>
    let (b, st, e) := x.kv d
    (List.range x.a).filterMap (fun i =>
      if x.node (i + 1) = i + 1 then none else some (b, (x.clen + x.node (i + 1)) * st, (x.clen + i + 1) * st, e)))

/-- Checks every page of a range for an access, and that none is in host memory; gives the home of each page (R301 step 7). -/
def pagesOk (k : Acc) : List Word → M (List Nat)
  | [] => pure []
  | va :: l => do
    let loc ← home va k 8 false
    if isRegBlock loc then trapAt 0x05 va 7 3 else do
      trapIf (isHostPa loc) 0x07
      let t ← pagesOk k l
      pure (loc / 4096 * 4096 :: t)

/-- Checks a range and gives it as an operand, with the homes it will have, and region. -/
def rangeOk (k : Acc) (base : Word) (off n : Nat) : M (Opnd × Region) := do
  let ps ← pagesOk k (pagesOf (base + w64 off) n)
  let (o, r) ← operand (base + w64 off) 0 (n : Int) k
  pure ({ o with pages := if o.home.isNone then ps else [] }, r)

/-- Everything a commit reads and writes, checked: the operands it captures and its write regions (R301 step 7). -/
def seqRanges (area : Word) (i : Iter) (x : SeqIn) : M (List Opnd × List Region) := do
  let kvs ← x.moves.mapM (fun m => do
    let (so, _) ← rangeOk accR m.1 m.2.1 m.2.2.2
    let (dop, dr) ← rangeOk accW m.1 m.2.2.1 m.2.2.2
    pure ([so, dop], [dr]))
  let lvs ← (i.lives x.q).mapM (fun l => match i.kept x l with
    | none => pure ([], [])
    | some r => do
      let (so, _) ← rangeOk accR area r.off r.n
      let (dop, dr) ← rangeOk accW l 0 r.n
      pure ([so, dop], [dr]))
  let (tok, tr) ← rangeOk accW x.tok (8 * (x.clen + 1)) (8 * (x.a + 1))
  let (ro, rr) ← rangeOk accW x.addr 0 256
  pure ((kvs.map (·.1)).flatten ++ (lvs.map (·.1)).flatten ++ [tok, ro], (kvs.map (·.2)).flatten ++ (lvs.map (·.2)).flatten ++ [tr, rr])

/-- A trap of the body abandons an iteration when it is taken, a wait that a task must not make included (R301, R349). -/
def orAbandon {α : Type} (e : Nat) (body : M α) : M α := fun s =>
  match body s with
  | .error (.trap t) s' => .error (.trap { t with iter := some e }) s'
  | .error (.park why true ext) s' =>
    if (s'.ctx s'.cur).task.active then .error (.trap { cause := 0x18, iter := some e }) s' else .error (.park why true ext) s'
  | r => r

/-- Reads the sequences of a batch that a commit changes (R301 step 4). -/
def readSeqs (tab : Word) : List (Word × Nat) → M (List SeqIn)
  | [] => pure []
  | (addr, q) :: l => do
    let r ← readDws addr 32
    if r.getD 4 0 % 2 = 1 then readSeqs tab l else do
      let a ← readDws (tab + w64 (128 * q)) 16
      let xs ← readSeqs tab l
      pure ({ q := q, addr := addr, rec' := r, acc := a } :: xs)

/-- A sequence as captured in a command. -/
def SeqIn.words (x : SeqIn) : List Word := w64 x.q :: x.addr :: (x.rec' ++ x.acc).map w64

def execScommit (d a b : BitVec 5) (s : State) :=
  runInstr (.scommit d a b) (do
    needS b
    needD d
    let v ← rdS a
    let tab ← rdS b
    ssuReady
    let (e, i) ← handleArg v
    let s ← get
    trapIf (i.opener != s.cur) 0x06
    orAbandon e (do
      if bits tab 6 0 ≠ 0 then trapAt 0x05 tab 7 3 else pure ()
      parkUnless (s.finishedBefore s.cur s.ids) wOrder
      parkUnless (i.members.all (fun m => s.memberDone m || m.ctx == s.cur)) wOrder
      modify (fun s => s.setIter e { i with members := i.members.map (fun m => if m.ctx = s.cur then { m with st := 2 } else m) })
      let xs ← readSeqs tab i.seqs.zipIdx
      trapIf (xs.any (fun x => !x.ok)) 0x07
      trapIf (xs.any (fun x => (i.lives x.q).any (fun l => (i.kept x l).isNone))) 0x29
      let rs ← xs.mapM (seqRanges i.area i)
      areaWait i.area
      let s ← get
      let (ao, ar) := s.areaOpnd (s.whoIs s.cur) i.area i.used
      let (_, tr) := s.areaOpnd (s.whoIs s.cur) tab (128 * i.seqs.length)
      let k ← newCmd
      let t ← accept { k with
        ops := ao :: (rs.map (·.1)).flatten, args := (xs.map SeqIn.words).flatten, iter := some e
        reads := ar :: tr :: xs.map (fun x => if isWindow x.addr then { lo := 0, len := 0 } else { lo := x.addr.toNat, len := 256 })
        writes := (rs.map (·.2)).flatten }
      modify (fun s => s.setIter e { s.iter e with st := 2 })
      wrS d t)) s

/-- The sequences a command captured. -/
def seqsOf : Nat → List Word → List SeqIn
  | 0, _ => []
  | n + 1, l => if l.isEmpty then [] else
    { q := (l.getD 0 0).toNat, addr := l.getD 1 0, rec' := (l.drop 2).take 32 |>.map (·.toNat), acc := (l.drop 34).take 16 |>.map (·.toNat) }
      :: seqsOf n (l.drop 50)

/-- Copies a range word by word with full/empty bits, effective before what follows (R301). -/
def copyNow (u : Nat) (k : Cmd) (src dst : Opnd) (n : Nat) : E (List EWrite) := do
  let ws ← (List.range (n / 8)).mapM (fun (i : Nat) => moveWord u k src dst ((8 * i : Nat) : Int))
  modify (fun s => s.applyWrites u ws (fun _ => 0))
  pure ws

/-- The copies of a sequence, each pair of captured operands in turn. -/
def copyAll (u : Nat) (k : Cmd) : List Nat → List Opnd → List EWrite → State → List EWrite × List Opnd × Option Nat × State
  | [], os, ws, s => (ws, os, none, s)
  | n :: l, os, ws, s =>
    match copyNow u k (os.getD 0 { va := 0 }) (os.getD 1 { va := 0 }) n s with
    | .ok w s => copyAll u k l (os.drop 2) (ws ++ w) s
    | .error c s => (ws, os, some c, s)

/-- Gives some of the 64-byte granules a sequence's writes reached their old contents and errors, by free choice (R302); their granules' tags
follow what stays written (R123, R159). -/
def State.undoSome (s s0 : State) (ws : List EWrite) : State :=
  let gs := (ws.map (fun w => w.loc / 64)).eraseDups
  let back := (gs.zipIdx.filter (fun g => Config.freeNat (s0.fresh + g.2) % 2 == 1)).map (·.1)
  let s' := back.foldl (fun s g =>
      (rangeFrom (8 * g) 8).foldl (fun s w => (s.pokeRaw (8 * w) 8 (s0.peek (8 * w) 8)).setFe (8 * w) (s0.feAt (8 * w))) s) s
  let errs := (s0.memErr.filter (fun e => back.contains (e.1 / 8))).foldl (fun m e => mset m e.1 e.2) s'.memErr
  let s' := ((ws.map (fun w => w.loc / 1024)).eraseDups).foldl (fun (s : State) g => s.setTag (1024 * g) (s0.tagAt (1024 * g))) { s' with memErr := errs }
  { (s'.settleWrites (ws.filter (fun w => !back.contains (w.loc / 64))) (fun _ => 0)) with fresh := s.fresh + gs.length }

/-- How many ranges a sequence of a commit copies. -/
def SeqIn.copies (i : Iter) (x : SeqIn) : Nat := x.moves.length + ((i.lives x.q).filterMap (i.kept x)).length

/-- Commits one sequence: its copies, its tokens, RNGCTR and STOP, and CLEN last (R301). The operands it used are dropped. -/
def commitSeq (u : Nat) (k : Cmd) (i : Iter) (x : SeqIn) (os : List Opnd) (s0 : State) : List Opnd × Option Nat × State :=
  let lens := x.moves.map (fun m => m.2.2.2) ++ (i.lives x.q).filterMap (fun l => (i.kept x l).map (·.n))
  let (ws, os, c, s) := copyAll u k lens os [] s0
  match c with
  | some c => (os, some c, s.undoSome s0 ws)
  | none =>
    let tail : E (List EWrite) := do
      let toks ← (List.range (x.a + 1)).mapM (fun i => do
        let l ← opLoc u k (os.getD 0 { va := 0 }) ((8 * i : Nat) : Int) accW
        pure ({ loc := l, n := 8, data := if i = x.a then dwAt x.acc 0x30 4 else x.tokAt (i + 1), fe := some true } : EWrite))
      let r ← opLoc u k (os.getD 1 { va := 0 }) 0 accW
      let stop := if dwAt x.acc 1 1 % 2 = 1 then [({ loc := r + 0x20, n := 1, data := 1 } : EWrite)] else []
      pure (toks ++ [{ loc := r + 0x10, n := 8, data := dwAt x.acc 8 8 }] ++ stop ++ [{ loc := r, n := 4, data := x.clen + 1 + x.a }])
    match tail s with
    | .error c s => (os.drop 2, some c, s.undoSome s0 ws)
    | .ok more s =>
      if s.poisonMet (coverage (ws ++ more)) then (os.drop 2, some 0x43, s.undoSome s0 ws)
      else (os.drop 2, none, (s.applyWrites u more (fun _ => 0)).settleWrites (ws ++ more) (fun _ => 0))

/-- The sequences of a commit in increasing order (R301). -/
def commitAll (u : Nat) (k : Cmd) (i : Iter) : List SeqIn → List Opnd → State → Option Nat × State
  | [], _, s => (none, s)
  | x :: l, os, s =>
    match commitSeq u k i x os s with
    | (os, none, s) => commitAll u k i l os s
    | (_, some c, s) => (some c, s)

/-- SCOMMIT's effect (R301, R302): CLEN is written after what its opener's release orders before it (R320). -/
def runScommit (s : State) (u : Nat) (k : Cmd) : CmdRes :=
  let i := s.iter (k.iter.getD 0)
  if !s.relOkBefore k.issuer k.no then .wait s else
  match commitAll u k i (seqsOf 64 k.args) (k.ops.drop 1) s with
  | (none, s) => .ok s 0 0 0
  | (some c, s) => .fault s c 0 0 0

end Sys2Proof.Machine
end

