-- ==== Sys2Proof/Machine/Life.lean ====
section
/-! DEFINITION. The life of a context: creation (R164, R179, R323, R326), leaving its group and halting (R338, R342), idle
units (R339), saves and restores (R321, R372, R375, R377 to R379), and loss (R383, R385). -/

namespace Sys2Proof.Machine

/-! ### Directory (R179, R323) -/

/-- The lowest free context numbers, at most `n` (R323). -/
def State.freeNums (s : State) (n : Nat) : List Nat :=
  ((List.range (min 65536 (s.dir.length + n))).filter (fun c => (s.dirE c).st != 1)).take n

/-- Each of six generations one higher, modulo 64 (R179). -/
def bumpGens (g : BitVec 48) : BitVec 48 :=
  (List.range 6).foldl (fun g c => putBits g (6 * c + 5) (6 * c) ((bits g (6 * c + 5) (6 * c) + 1) % 64)) g

/-- A context that lives. -/
def State.live (s : State) (c : Nat) : Bool := (s.dirE c).st == 1

/-- The group of a context, in its image when it is saved (R341). -/
def State.grpOf (s : State) (c : Nat) : Nat :=
  match (s.dirE c).place with
  | .saved => ((s.savedHead c).map (fun b => imgAt b 0xC 2)).getD 0
  | _ => (s.ctx c).grp

/-- The live members of a group of a partition (R341). -/
def State.members (s : State) (p g : Nat) : List Nat :=
  if g = 0 then [] else (s.dir.filter (fun e => e.2.st == 1 && e.2.part == p && s.grpOf e.1 == g)).map (·.1)

/-! ### Places -/

/-- Takes a context out of its slot or TCC. -/
def State.vacate (s : State) (c : Nat) : State :=
  let s := match (s.dirE c).place with
    | .slot u sl => s.modUnit u (fun x => { x with slots := mdel x.slots sl })
    | .tcc u => s.modUnit u (fun x => { x with tcc := x.tcc.filter (fun d => d != c) })
    | _ => s
  s.modDir c (fun d => { d with place := .none })

/-- Whether a trap waits that the context would take at its next boundary; held and frozen contexts take none (R368, R378). -/
def State.trapWaits (s : State) (c : Nat) : Bool :=
  let x := s.ctx c
  !x.held && !x.frozen && (((s.unit (s.unitOf c)).sfq.any (fun r => r.ctx == c && (!x.inHandler || r.inH))) ||
    (s.dirE c).async.any (fun a => !x.inHandler || causeToCmc a.cause))

/-- Whether a checkpoint copy of a context is still to read its save area: writes there wait behind it (R387). -/
def State.ckptBusy (s : State) (c : Nat) : Bool := s.allCmds.any (fun uk => uk.2.isCkpt && uk.2.ctx == c)

/-- Whether a context's accesses are done, as a FENCE of all bits would wait for them (R114, R321): own stores performed or faulted,
sibling stores read while pending, queued loads, and answers over the mesh. A store waiting in the dispatch queue is pending. -/
def State.settled (s : State) (c : Nat) : Bool :=
  (s.ownStores c).all (fun e => e.rs == 2) && !(s.unit (s.unitOf c)).sb.any (fun e => e.rs != 2 && (s.dirE c).sibRead.contains e.id) &&
    (s.ctx c).ldqOut.isEmpty && !s.answerDue c

/-- The waits before a save or a move (R167, R260, R321, R368, R387): its accesses are done and every fault of them is taken. -/
def State.canSave (s : State) (c : Nat) : Bool :=
  let x := s.ctx c
  s.settled c && (s.ownStores c).isEmpty && x.results.isEmpty && x.outst == 0 && !s.accsBusy c && !s.trapWaits c && !s.ckptBusy c

/-! ### Saving and restoring (R375, R377 to R379) -/

/-- The images in a cluster's reserve (R379). -/
def State.reserveUsed (s : State) (cl : Nat) : Nat := (s.dir.filter (fun e => e.2.place == .reserve cl && e.2.st == 1)).length

/-- Saves a context to its save area (R377); a fault diverts it to the reserve, or leaves it where it is, frozen (R378, R379). It stays
ready where a trap or a remote command waits for it (R264, R333). What the image does not hold of it the device keeps (log 12). -/
def State.saveCtx (s : State) (c : Nat) : State :=
  let away := s.readyAway c (s.ctx c).wait
  let s := (s.leaveWaits c).abandonOf c 0 (2 ^ 64) false
  let x := s.ctx c
  let d := s.dirE c
  let u := s.unitOf c
  let mine := (s.unit u).sfq.filter (fun r => r.ctx == c)
  let x' := { x with wait := none }
  match s.writeImage u d.part x.asn d.save (x'.image d (s.ctxId c) (mine.take 8) true) with
  | .ok s =>
    let s := s.vacate c
    let s := s.modUnit u (fun y => { y with sfq := y.sfq.filter (fun r => !((mine.take 8).contains r)) })
    let called := !d.async.isEmpty || !mine.isEmpty || s.units.any (fun e => e.2.rcq.any (fun r => r.target == c))
    ({ s with ctxs := mdel s.ctxs c } : State).modDir c (fun d => { d with
      place := .saved, saveAsn := x.asn, task := x.task, flagsAcc := 0, xfailNew := false, fenced := none, sibRead := []
      dqFmt := x.dq.map (·.fmt), dqPc := x.dq.map (·.pc), pendH := (mine.take 8).map (·.inH)
      portsKept := x.ports.map (fun p => (p.2.kind, p.2.dir, p.2.ring)), ready := (d.ready && away) || called })
  | .error f =>
    let s := (((s.withdraw c).modCtx c (fun x => { x with wait := none })) : State).saveFault c f
    if isCroft u || 8 ≤ s.reserveUsed (clusterOf u) then s
    else (s.vacate c).modDir c (fun d => { d with place := .reserve (clusterOf u) })

/-- The number under which a context's work outlives it: it answers to nobody from now on, and no other work ever has it (R342). -/
def State.orphan (s : State) (c : Nat) : Nat := c + 2 ^ 32 * (s.steps + 1)

/-- The commands of a context that ends: they run on under its work's number, their status and faults go nowhere. -/
def Cmd.orphaned (k : Cmd) (c o : Nat) : Cmd :=
  { k with
    issuer := if k.issuer = c then o else k.issuer
    ctx := if k.ctx = c then o else k.ctx
    acc := k.acc.map (fun a => if a.1 = c then (o, a.2) else a) }

/-- A finished member, or the opener, of an iteration that ends as a context: its number means it no more (R295). -/
def Iter.orphaned (i : Iter) (c o : Nat) : Iter :=
  { i with
    opener := if i.opener = c then o else i.opener, owes := i.owes && i.opener != c
    members := i.members.map (fun m => if m.ctx = c then { m with ctx := o, st := 2 } else m) }

/-- A delivery of a context that ends: its acknowledgement goes nowhere. -/
def Delivery.orphaned (d : Delivery) (s : State) (c : Nat) : Delivery := if d.sender = c ∧ d.dev = s.devNo then { d with orphan := true } else d

/-- Cuts a context's ties to what is still under way: its deliveries, commands and iterations (R186, R264, R295, R342). -/
def State.cutTies (s : State) (c : Nat) : State :=
  let o := s.orphan c
  let gone := (s.units.flatMap (fun e => (e.2.mbox.filter (fun m => m.2 == c)).map (fun m => (e.1, m.1)))) ++
    (s.units.flatMap (fun e => (e.2.rcq.filter (fun r => r.target == c)).map (fun r => (e.1, r.d))))
  let s : State := { s with
    units := s.units.map (fun (e : Nat × UnitSt) => (e.1, { e.2 with
      mbox := (e.2.mbox.filter (fun m => m.2 != c)).map (fun m => (m.1.orphaned s c, m.2))
      rcq := (e.2.rcq.filter (fun r => r.target != c)).map (fun r => { r with d := r.d.orphaned s c })
      cmds := e.2.cmds.map (·.orphaned c o)
      sfq := e.2.sfq.filter (fun r => r.ctx != c)
      reports := e.2.reports.filter (fun r => r.ctx != c)
      rings := e.2.rings.map (fun r => (r.1, if r.2.owner = some c then { r.2 with owner := some o } else r.2)) }))
    pkts := (s.pkts.filter (fun p => match p.body with | .ack d _ _ _ => d != c | _ => true)).map (fun p =>
      match p.body with | .delivery d => { p with body := .delivery (d.orphaned s c) } | _ => p)
    staggers := s.staggers.map (fun g => { g with ctxs := ndel g.ctxs c })
    regErr := s.regErr.filter (fun e => e.1 / 4096 != c)
    imgErr := mdel s.imgErr c
    ssu := s.ssu.map (fun e => (e.1, e.2.orphaned c o)) }
  gone.foldl (fun s e => s.ackCause e.1 e.2 0x17) s

/-- A powered segment goes down: its contents count for nothing any more, and stand apart until the first access clears them (R118,
R428). -/
def State.fade (s : State) (u n : Nat) : State :=
  if !bit (s.unit u).segOn n then s else
  let lo := unitLoc u (n * 0x10000)
  let here := fun (c : Host.Cell) => lo ≤ c.1 && c.1 < lo + 0x10000
  { s with faded := s.faded.filter (fun c => !here c) ++ s.mem.filter here }.wipe lo (lo + 0x10000)

/-- Powers down the segments of an idle unit's scratchpad that are not retained (R118, R339). -/
def State.idleDown (s : State) (u : Nat) : State :=
  if !(s.homedOn u).isEmpty then s else
  let keep := (s.unit u).retained
  let s := (List.range 8).foldl (fun s n => if bit keep n then s else s.fade u n) s
  s.modUnit u (fun x => { x with segOn := x.segOn &&& keep })

/-- A context becomes halted (R338, R342): it leaves its place and its group, its iterations are abandoned, its ties are cut,
the record that created it counts it out, and its unit may become idle. Its registers stand as they are until its number is used
again (R428). -/
def State.haltCtx (s : State) (c : Nat) : State :=
  let u := s.unitOf c
  let d := s.dirE c
  let s := ((s.withdraw c).abandonOf c 0 (2 ^ 64) true).abandonOpened c
  let s := (s.vacate c).cutTies c
  let s : State := { s with
    ctxs := mdel s.ctxs c, halted := (match mfind s.ctxs c with | some x => mset s.halted c x | none => s.halted)
    launches := s.launches.map (fun e => (e.1, { e.2 with live := ndel e.2.live c })) }
  let s := s.modDir c (fun _ => { st := 2, part := d.part, prio := d.prio, home := d.home, gens := d.gens, save := d.save })
  s.idleDown u

/-- Executes what can still execute of a context's dispatch queue. -/
def State.drainQueue (s : State) (c : Nat) : Nat → State
  | 0 => s
  | n + 1 => match s.wideHead c with | some s => s.drainQueue c n | none => s

/-- The entries of a context's dispatch queue that outlive it when it is reset: while accepted commands use its accumulators, those issued
and not yet executed, which take their data when the commands have ended (R342, log 59). -/
def State.leftQueue (s : State) (c : Nat) : List DqEnt :=
  if s.accsBusy c then (s.ctx c).dq.takeWhile (fun e => !e.unissued) else []

/-- The pending stores of a context that is reset: those in its dispatch queue take their data, those not yet translated are
translated now, and those that fault are dropped; the rest are performed without it (R342). What waits in the queue for accepted
commands waits on; a store whose data wait on an empty register has none to write and goes with the context (log 59). -/
def State.castOffStores (s : State) (c : Nat) : State :=
  let s := s.drainQueue c 4
  let u := s.unitOf c
  let o := s.orphan c
  let q := s.leftQueue c
  let (s, sb) := (s.unit u).sb.foldl (fun (a : State × List Store) e =>
    let (s, l) := a
    if e.ctx != c then (s, l ++ [e])
    else
      let (e, s) := if e.rs = 0 then s.resolveStore e true else (e, s)
      if e.rs == 1 && (e.data || q.any (fun d => d.store == some e.id)) then (s, l ++ [{ e with ctx := o }]) else (s, l)) (s, [])
  let s := s.modUnit u (fun x => { x with sb := sb })
  if q.isEmpty then s else
    (s.setCtx o { s.ctx c with dq := q, wait := none, results := [], outst := 0 }).modDir o
      (fun _ => { st := 2, part := (s.dirE c).part, home := (s.dirE c).home, place := .tcc u })

/-- Resets a context, which halts without a trap (R342, R370): its unfinished iterations are abandoned while its work still counts
(R296). -/
def State.resetCtx (s : State) (c : Nat) : State := (((s.abandonOf c 0 (2 ^ 64) true).abandonOpened c).castOffStores c).haltCtx c

/-- A context is lost (R383, R385): it becomes halted, and cause 0x48 goes to the management core. -/
def State.loseCtx (s : State) (c : Nat) : State :=
  let u := s.unitOf c
  let words := [w64 (s.ctxId c * 2 ^ 32 + 7 * 2 ^ 11 + 5 * 2 ^ 8 + 0x48), 0, 0, 0, 0, w64 s.time, 0, 0]
  let s := s.toMailbox (clusterOf u) { words := words, unit := some u }
  s.resetCtx c

/-- Brings a saved context's state back from its image, or loses it; its pending records return to the queue first (R372, R375). An
image whose VALID does not read 1 is not read yet (R377). A HOME that software has edited takes effect first: the context then waits for
its new unit (R375). DESIGN CHOICE: a failure kept for XWAIT.ALL while it was away does not reach the image's XFAIL; the device keeps
it until the restore, where it stands (R157, log 76). -/
def State.readBack (s : State) (c : Nat) : State × Bool :=
  let d := s.dirE c
  let u := s.unitOf c
  match s.savedRead c with
  | (none, s) => (s.loseCtx c, false)
  | (some b, s) =>
    if !imgValid b then (s, false)
    else if !imgForm b || imgAt b 4 4 != s.ctxId c then (s.loseCtx c, false)
    else if imgAt b 8 2 ≠ d.home then (s.modDir c (fun d => { d with home := imgAt b 8 2, prio := imgAt b 0xA 1 }), false) else
    let recs := imgRecs b c d.pendH
    let s := s.setCtx c (ctxOfImage b d)
    let s := s.modUnit u (fun x =>
      { x with sfq := x.sfq.filter (fun r => r.ctx != c) ++ recs ++ x.sfq.filter (fun r => r.ctx == c) })
    (s.modDir c (fun d => { d with xfail := if d.xfailNew then d.xfail else w64 (imgAt b 0xF8 8), prio := imgAt b 0xA 1, gens := BitVec.ofNat 48 (imgAt b 0x18 8) }), true)

/-- A soft error in a TCC entry or shadow-store image found when the context comes back (R383). -/
def State.checkEntry (s : State) (c : Nat) : State × Bool :=
  match mget s.imgErr c 0 with
  | 0 => (s, true)
  | 1 => (({ s with imgErr := mdel s.imgErr c }).logR (clusterOf (s.unitOf c)) 0x40 0, true)
  | _ => (s.loseCtx c, false)

/-- Puts a context in a slot. -/
def State.enterSlot (s : State) (c u sl : Nat) : State :=
  let s := (s.withdraw c).vacate c
  let s := s.modUnit u (fun x => { x with slots := mset x.slots sl c })
  s.modDir c (fun d => { d with place := .slot u sl, placedAt := (s.unit u).cyc })

/-- Brings a context into a slot from wherever it waits: its own image is read if it is saved (R330, R375). -/
def State.bringIn (s : State) (c u sl : Nat) : State :=
  let (s, ok) := match (s.dirE c).place with
    | .saved => s.readBack c
    | .tcc _ => s.checkEntry c
    | _ => (s, true)
  if ok then s.enterSlot c u sl else s

/-- The TCC's size (R20). -/
def tccSize : Nat := 24

/-! ### Creation (R164, R326) -/

/-- A launch record's fields (R84). -/
structure LRec where
  entry : Word
  arg : Word
  save : Word
  next : Word
  shapes : Word
  threads : Nat
  group : Nat
  prio : Nat
  island : Nat
  x0 : Nat
  y0 : Nat
  w : Nat
  h : Nat
  slots : Nat
  nshape : Nat
  priv : Nat
  tail : Nat

/-- A record's fields from its eight doublewords (R84). -/
def lrecOf (l : List Nat) : LRec :=
  let f := fun (off n : Nat) => dwAt l off n
  { entry := w64 (f 0 8), arg := w64 (f 8 8), save := w64 (f 0x10 8), next := w64 (f 0x18 8), shapes := w64 (f 0x20 8)
    threads := f 0x28 4, group := f 0x2C 2, prio := f 0x2E 1, island := f 0x2F 1, x0 := f 0x30 1, y0 := f 0x31 1
    w := f 0x32 1, h := f 0x33 1, slots := f 0x34 1, nshape := f 0x35 1, priv := f 0x36 1, tail := f 0x38 8 * 256 + f 0x37 1 }

/-- The limits of R84 on the fields a SPAWN checks (R337). -/
def LRec.ok1 (r : LRec) : Bool :=
  bits r.entry 1 0 == 0 && bits r.save 5 0 == 0 && bits r.shapes 5 0 == 0 && r.prio < 8 && r.island < 3 && r.x0 < 16 && r.y0 < 32 &&
    r.nshape ≤ 16 && r.priv ≤ 1

/-- The limits on all fields (R84, R325). -/
def LRec.ok (r : LRec) : Bool :=
  r.ok1 && bits r.next 5 0 == 0 && 1 ≤ r.threads && r.threads ≤ 65536 && 1 ≤ r.w && r.w ≤ 16 && 1 ≤ r.h && r.h ≤ 32 && 1 ≤ r.slots &&
    r.slots ≤ 8 && r.tail == 0

/-- The logical units of a record's rectangle, row-major (R326). -/
def LRec.units (r : LRec) : List Nat := (List.range (r.w * r.h)).map (fun j => (r.y0 + j / r.w) * 16 + r.x0 + j % r.w)

/-- Whether a unit suits a record's island field (R325). -/
def LRec.fits (r : LRec) (u : Nat) : Bool := !((r.island == 1 && isCroft u) || (r.island == 2 && !isCroft u))

/-- A new context (R164, R326): `i` is its thread number, `s8` and `s10` its argument and count. -/
def LRec.fresh (r : LRec) (shapes : List (BitVec 512)) (i : Nat) (s8 s10 : Word) : Ctx :=
  { sreg := [(8, s8), (9, w64 i), (10, s10)], hreg := shapes.zipIdx.map (fun e => (e.2, e.1)), pc := r.entry, grp := r.group, sup := r.priv == 1 }

/-- Creates a context in a number (R179, R323): it waits in its unit's TCC, or in its image when the TCC is full. A gated unit wakes
(R396). -/
def State.create (s : State) (c p home : Nat) (r : LRec) (x : Ctx) (i launch freeAt : Nat) : State :=
  let old := s.dirE c
  let u := bits (s.lumEntry p home) 8 0
  let s := (({ s with halted := mdel s.halted c } : State).wakeGated u |>.setCtx c x).modDir c (fun _ =>
    { st := 1, part := p, prio := r.prio, home := home, gens := bumpGens old.gens, save := r.save + w64 (imgSize * i), launch := launch
      since := s.time, freeAt := freeAt })
  if (s.unit u).tcc.length < tccSize then
    (s.modUnit u (fun y => { y with tcc := y.tcc ++ [c] })).modDir c (fun d => { d with place := .tcc u })
  else s.saveCtx c

end Sys2Proof.Machine
end

