-- ==== Sys2Proof/Machine/Sched.lean ====
section
/-! DEFINITION. Slots and the context cache (R329, R330), the rotation table (R331), budget periods (R335), and saves and
restores as steps of the device (R375, R377). -/

namespace Sys2Proof.Machine

/-! ### Which contexts wait for a slot (R326, R329, R330) -/

/-- Whether slot `sl` of a unit may hold contexts of partition `p` (R329). -/
def UnitSt.slotFor (x : UnitSt) (sl p : Nat) : Bool := bit x.slotcfg (32 + sl) && bits x.slotcfg (4 * sl + 3) (4 * sl) == p

/-- The contexts in a unit's slots, with their slots. -/
def State.residents (s : State) (u : Nat) : List (Nat × Nat) := (s.unit u).slots

/-- Whether a record's limit of residents on a unit is reached (R326). -/
def State.atLimit (s : State) (u launch : Nat) : Bool :=
  match mfind s.launches launch with
  | some l => l.slots ≤ ((s.residents u).filter (fun e => (s.dirE e.2).launch == launch)).length
  | none => false

/-- A saved context's image says held or frozen, or is not valid yet (R374, R377). -/
def State.imageStops (s : State) (c : Nat) : Bool :=
  match s.savedHead c with
  | some b => imgAt b 0xB 1 / 4 % 4 != 0 || !imgValid b
  | none => false

/-- Whether a context waits for a slot of unit `u`: live, ready, in no slot, its unit mapped and free to take it (R330,
R385, R401, R410, R418). -/
def State.waitsFor (s : State) (u c : Nat) : Bool :=
  let d := s.dirE c
  d.st == 1 && d.ready && !d.frozen && d.freeAt ≤ s.time && s.lumRes d.part d.home == .to u && (s.part d.part).pst == 0 &&
    (match d.place with
      | .tcc v => v == u && !(s.ctx c).held && !(s.ctx c).frozen
      | .saved => !s.imageStops c && (s.unit u).sfq.length ≤ 8
      | .none => !(s.ctx c).frozen
      | _ => false)

/-- The waiting contexts of a partition at a unit. -/
def State.waiters (s : State) (u p : Nat) : List Nat := (s.dir.filter (fun e => e.2.part == p && s.waitsFor u e.1)).map (·.1)

/-- The waiting context that goes first: highest priority, then ready longest (R330 rule 1). -/
def State.firstOf (s : State) (l : List Nat) : Option Nat :=
  maxBy (fun c => (s.dirE c).prio * 2 ^ 64 + (2 ^ 64 - 1 - (s.dirE c).since)) l

/-! ### Moving out (R330, R368) -/

/-- Whether a resident context may leave its slot: no trap waits for it, it is not frozen, no accepted command works on its
accumulators, and no access of it that has been performed is still to be answered (R114, R260, R368, R379). -/
def State.mayLeave (s : State) (c : Nat) : Bool := !s.trapWaits c && !(s.ctx c).frozen && !s.accsBusy c && !s.answerDue c

/-- The entry of a full TCC that is saved to make room: lowest priority, then least recently resident (rule 5). -/
def State.tccVictim (s : State) (u : Nat) : Option Nat :=
  minBy (fun c => (s.dirE c).prio * 2 ^ 64 + (s.dirE c).placedAt) ((s.unit u).tcc)

/-- Moves a context from its slot to the TCC, saving the victim of a full TCC first; none when that cannot be saved yet. -/
def State.moveOut (s : State) (c u : Nat) : Option State :=
  let out := fun (s : State) =>
    let w := (s.ctx c).wait
    let s := (s.leaveWaits c).vacate c
    let s := s.modCtx c (fun x => { x with wait := none })
    let s := s.modUnit u (fun x => { x with tcc := x.tcc ++ [c] })
    s.modDir c (fun d => { d with
      place := .tcc u, placedAt := (s.unit u).cyc, since := s.time
      ready := s.readyAway c w })
  if (s.unit u).tcc.length < tccSize then some (out s)
  else match s.tccVictim u with
    | some v =>
      if s.canSave v then
        let s := s.saveCtx v
        if (s.unit u).tcc.length < tccSize then some (out s) else none
      else none
    | none => none

/-- The context in a slot. -/
def State.inSlotOf (s : State) (u sl : Nat) : Option Nat := mfind (s.unit u).slots sl

/-- The slots of a unit that may hold a partition's contexts and stand free. -/
def State.freeSlot (s : State) (u p : Nat) : Bool := (List.range 8).any (fun sl => (s.unit u).slotFor sl p && (s.inSlotOf u sl).isNone)

/-- Whether some waiting context would take a resident's place by a test on the two: one that its record's limit keeps out
waits for a resident of that record, any other for a slot when none stands free (R326, R330). -/
def State.displaced (s : State) (u c : Nat) (f : Nat → Bool) : Bool :=
  let p := (s.dirE c).part
  (s.waiters u p).any (fun w => f w && (if s.atLimit u (s.dirE w).launch then (s.dirE w).launch == (s.dirE c).launch else !s.freeSlot u p))

/-- Moves out the context of a slot when a test holds of it. -/
def evict (test : State → Nat → Nat → Bool) : M Unit := do
  let s ← get
  let u := s.arg.n0
  exists_ (u < 260 && s.arg.n1 < 8)
  match s.inSlotOf u s.arg.n1 with
  | none => stall 0
  | some c => do
    enabled (s.mayLeave c && test s u c)
    match s.moveOut c u with
    | some s' => set s'
    | none => stall 0

/-- CONTEXT_PREEMPT (R330 rule 2). -/
def execContextPreempt (s : State) :=
  runEvent (evict (fun s u c =>
    let lower := fun c => s.displaced u c (fun w => (s.dirE c).prio < (s.dirE w).prio)
    let key := fun c => (s.dirE c).prio * 2 ^ 64 + (2 ^ 64 - 1 - (s.dirE c).placedAt)
    lower c && (s.residents u).all (fun e => (s.dirE e.2).part != (s.dirE c).part || !lower e.2 || !s.mayLeave e.2 || key c ≤ key e.2))) s

/-- PARKED_EVICT (R330 rule 3): a held context counts as parked (R370). -/
def execParkedEvict (s : State) :=
  runEvent (evict (fun s u c =>
    ((s.ctx c).held || (match (s.ctx c).wait with | some w => w.since + 256 ≤ (s.unit u).cyc | none => false)) &&
      s.displaced u c (fun w => (s.dirE c).prio ≤ (s.dirE w).prio))) s

/-- TIME_SLICE_EXPIRY (R330 rule 4). -/
def execTimeSliceExpiry (s : State) :=
  runEvent (evict (fun s u c =>
    let tsl := bits (s.unit u).slotcfg 55 40
    tsl != 0 && (s.dirE c).placedAt + tsl * 256 ≤ (s.unit u).cyc && s.displaced u c (fun w => (s.dirE c).prio == (s.dirE w).prio))) s

/-- The context a free slot takes (R330 rule 1). -/
def State.nextFor (s : State) (u sl : Nat) : Option Nat :=
  let x := s.unit u
  if (s.inSlotOf u sl).isSome || !bit x.slotcfg (32 + sl) then none
  else s.firstOf ((s.waiters u (bits x.slotcfg (4 * sl + 3) (4 * sl))).filter (fun c => !s.atLimit u (s.dirE c).launch))

/-- Whether a unit can take contexts now: its island runs and no migration empties it (R393, R396, R410). -/
def State.unitOpen (s : State) (u : Nat) : Bool :=
  (isCroft u || (s.acreOn && !s.island.emergency)) && !s.migs.any (fun m => m.src == u && m.honoured)

/-- CONTEXT_PLACE (R330 rule 1). -/
def execContextPlace (s : State) :=
  runEvent (do
    let s ← get
    let u := s.arg.n0
    let sl := s.arg.n1
    exists_ (u < 260 && sl < 8)
    match s.nextFor u sl with
    | none => stall 0
    | some c =>
      if !isCroft u && !s.acreOn then set s.wakeAcre else do
        enabled (s.unitOpen u)
        set (s.bringIn c u sl)) s

/-- The free slot of its unit that takes a context next. -/
def State.slotTaking (s : State) (u c : Nat) : Option Nat := (List.range 8).find? (fun sl => s.nextFor u sl == some c)

/-- CONTEXT_RESTORE (R375): a saved context whose turn it is comes back from its image. -/
def execContextRestore (s : State) :=
  runEvent (do
    let s ← get
    let c := s.arg.n0
    let u := s.unitOf c
    enabled ((s.dirE c).place == .saved && s.unitOpen u)
    match s.slotTaking u c with
    | some sl => set (s.bringIn c u sl)
    | none => stall 0) s

/-- Whether something calls for a context's save (R330, R393, R404). -/
def State.saveCalled (s : State) (c : Nat) : Bool :=
  let u := s.unitOf c
  let inUnit := match (s.dirE c).place with | .slot _ _ => true | .tcc _ => true | _ => false
  inUnit && ((tccSize ≤ (s.unit u).tcc.length && s.tccVictim u == some c) ||
    (!isCroft u && (s.island.emergency || (s.island.st == 3 && s.island.to_ != 0))))

/-- The order of emergency saves (R404): priority, 7 first, then ascending number; a save starts when all but sixty-three of
those before it have been written. -/
def State.saveTurn (s : State) (c : Nat) : Bool :=
  !s.island.emergency || isCroft (s.unitOf c) ||
    ((s.dir.filter (fun e => e.2.st == 1 && (match e.2.place with | .slot u _ => u < 256 | .tcc u => u < 256 | _ => false) &&
      ((s.dirE c).prio < e.2.prio || ((s.dirE c).prio == e.2.prio && e.1 < c)))).length < 64)

/-- A context of a unit that issues no more takes the trap that waits for it, as it must before it is saved or moved (R368). -/
def State.takeWaiting (s : State) (c : Nat) : State :=
  if !s.trapWaits c || s.answerDue c then s else
  match s.nextRecord c with
  | some r => (s.unissue c).takeRecord c r
  | none =>
    match s.nextAsync c with
    | some a => (s.unissue c).takeAsync c a
    | none => s

/-- A frozen context of a unit that Acre's sleep empties goes to its cluster's reserve, once that has room and its accesses are done
(R321, R379, R393, log 61). -/
def State.divert (s : State) (c : Nat) : Option State :=
  let u := s.unitOf c
  if isCroft u || 8 ≤ s.reserveUsed (clusterOf u) || !s.settled c || s.accsBusy c then none
  else some ((((s.withdraw c).modCtx c (fun x => { x with wait := none })).vacate c).modDir c (fun d => { d with place := .reserve (clusterOf u) }))

/-- Whether a context is frozen, wherever it is. -/
def State.isFrozen (s : State) (c : Nat) : Bool := (s.dirE c).frozen || (s.ctxWherever c).frozen

/-- Releases a frozen context (R379): its state is written to its save area, which may fault once more. From a slot or TCC entry it is
written when the context's accesses are done (R321). -/
def State.unfreeze (s : State) (c : Nat) : State :=
  let inUnit := match (s.dirE c).place with | .slot _ _ => true | .tcc _ => true | _ => false
  if inUnit && !s.settled c then s.modDir c (fun d => { d with releasing := true }) else
  let s := s.modDir c (fun d => { d with frozen := false, releasing := false, ready := true })
  match (s.dirE c).place with
  | .saved => if (s.ctxWherever c).frozen then (s.modWherever c (fun x => { x with frozen := false })).1 else s
  | .reserve _ => (s.modCtx c (fun x => { x with frozen := false })).saveCtx c
  | _ =>
    let s := s.modCtx c (fun x => { x with frozen := false })
    let d := s.dirE c
    match s.writeImage (s.unitOf c) d.part (s.ctx c).asn d.save ((s.ctx c).image d (s.ctxId c) (((s.unit (s.unitOf c)).sfq.filter (fun r => r.ctx == c)).take 8) false) with
    | .ok s => s
    | .error f =>
      let u := s.unitOf c
      let s := s.saveFault c f
      if isCroft u || 8 ≤ s.reserveUsed (clusterOf u) then s
      else (s.vacate c).modDir c (fun d => { d with place := .reserve (clusterOf u) })

/-- CONTEXT_SAVE (R377); on an Acre that goes to sleep a trap that waits is taken first, and a frozen context goes to the reserve (R368,
R379, R393). A release that had to wait is carried out when it may be (R321). -/
def execContextSave (s : State) :=
  runEvent (do
    let s ← get
    let c := s.arg.n0
    enabled (s.live c)
    if (s.dirE c).releasing then do
      enabled (s.isFrozen c && s.settled c)
      set (s.unfreeze c)
    else do
    enabled (s.saveCalled c && s.saveTurn c)
    if (s.ctx c).frozen then
      match s.divert c with
      | some s' => set s'
      | none => stall 0
    else if s.trapWaits c && !s.unitRuns (s.unitOf c) then set (s.takeWaiting c)
    else do
      enabled (s.canSave c)
      set (s.saveCtx c)) s

/-! ### The unit's scheduling registers (R329, R331) -/

/-- A write to a Croft unit's registers wakes Croft (R391). -/
def State.callsCroft (s : State) (u : Nat) : State := if isCroft u then s.wakeCroft else s

/-- Writes SLOTCFG (R329): a context that no longer belongs in its slot leaves it at its next boundary. -/
def State.slotcfgWrite (s : State) (u : Nat) (v : Word) : State :=
  (s.callsCroft u).modUnit u (fun x => { x with slotcfg := v &&& 0x00FFFFFFFFFFFFFF })

/-- Writes ROT (R331): a reserved turn makes the write ignored. -/
def State.rotWrite (s : State) (u : Nat) (v : Word) : State :=
  if (List.range 16).any (fun t => 8 < bits v (4 * t + 3) (4 * t)) then s.callsCroft u
  else (s.callsCroft u).modUnit u (fun x => { x with rotNext := some v })

def execSlotcfgWrite (s : State) :=
  runOpen (do
    let s ← get
    exists_ (s.arg.n0 < 260)
    set (s.slotcfgWrite s.arg.n0 s.arg.v)) s

def execRotWrite (s : State) :=
  runOpen (do
    let s ← get
    exists_ (s.arg.n0 < 260)
    set (s.rotWrite s.arg.n0 s.arg.v)) s

/-- BUDGET_PERIOD (R335). -/
def execBudgetPeriod (s : State) :=
  runEvent (do
    let s ← get
    enabled (s.time / 1024 != s.period)
    set s.reload) s

/-- Whether a resident context still belongs in its slot (R329). -/
def State.belongs (s : State) (u sl c : Nat) : Bool := (s.unit u).slotFor sl (s.dirE c).part

/-! ### YIELD (R340) -/

/-- A context that has executed YIELD gives up its slot when another of its priority or higher waits for it. -/
def State.yieldOut (s : State) (c : Nat) : State :=
  match (s.dirE c).place with
  | .slot u _ =>
    if s.mayLeave c && s.displaced u c (fun w => (s.dirE c).prio ≤ (s.dirE w).prio) then (s.moveOut c u).getD s else s
  | _ => s

def execYield (s : State) :=
  runAs ((encode .yield).getD 0) (fun t => (t.retire false).yieldOut t.cur) (do
    let x ← getC
    trapIf x.task.active 0x18) s

end Sys2Proof.Machine
end

