-- ==== Sys2Proof/Machine/Launch.lean ====
section
/-! DEFINITION. The launch dispatcher (R324 to R328), SPAWN and HALT (R337, R338), groups (R341, R342). -/

namespace Sys2Proof.Machine

/-! ### The launch queue (R324, R325, R417) -/

/-- A write to LAUNCHQ: dropped with OVF while the partition is not enabled or its queue is full. -/
def State.launchqWrite (s : State) (p : Nat) (v : Word) : State :=
  s.modPart p (fun x =>
    if !x.en || 16 ≤ x.launchQ.length then { x with lOvf := true } else { x with launchQ := x.launchQ ++ [{ addr := v, sup := true }] })

/-- LAUNCHQ_WRITE (R324). -/
def execLaunchqWrite (s : State) :=
  runOpen (do
    let s ← get
    exists_ (s.arg.n0 < 16)
    set (s.launchqWrite s.arg.n0 s.arg.v)) s

/-- The home of an address the dispatcher reads, for a partition and address space: the walk of R48 at supervisor privilege, on
cluster 0's behalf (log 44), whose leaf goes to all who wait for the page (R52); the windows that depend on a requester's unit name nothing here. -/
def State.dispHome (s : State) (p asn : Nat) (va : Word) : Option (Nat × State) :=
  if isWindow va then
    match (if bits va 47 44 < 4 then XRes.miss else s.windowHome 256 p va accR) with
    | .ok loc => some (loc, s)
    | _ => none
  else match s.walk 0 p asn va.toNat with
    | (.fail _, _) => none
    | (.leaf l pte pa, s) =>
      let e : TlbEnt := { part := p, asn := asn, level := l, vpn := va.toNat >>> levelShift l, pte := pte, ptePa := pa }
      let s := if bit pte 5 then s else (s.setPte 0 e 5).1
      let s := s.missFilled p asn (va.toNat >>> 12) e
      match s.useLeaf { u := 256, part := p, asn := asn, sup := true } va.toNat accR e with
      | .ok loc => if isRegBlock loc then none else some (loc, s)
      | _ => none

/-- Doublewords the dispatcher reads; none on a read fault (R325). -/
def State.dispRead (s : State) (p asn : Nat) (va : Word) : Nat → Option (List Nat × State)
  | 0 => some ([], s)
  | n + 1 =>
    match s.dispHome p asn va with
    | none => none
    | some (loc, s) =>
      let s := (s.rouse loc |>.touch loc).correct 0 loc 8
      if s.readErr loc 8 ≠ 0 then none else
      match s.dispRead p asn (va + 8) n with
      | none => none
      | some (l, s') => some (s.peek loc 8 :: l, s')

/-- A shape image from its doublewords. -/
def shapeImage (l : List Nat) : BitVec 512 := BitVec.ofNat 512 (l.foldr (fun v acc => v + acc <<< 64) 0)

/-- Shape images from the doublewords of several. -/
def shapeImages (l : List Nat) : Nat → List (BitVec 512)
  | 0 => []
  | n + 1 => shapeImage (l.take 8) :: shapeImages (l.drop 8) n

/-- The rectangle's standing: refused, waiting for a migration, waiting for Acre, or its physical units (R325, R394). -/
inductive Rect where
  | bad
  | migrating
  | asleep
  | units (l : List Nat)

/-- Checks the logical units of a record (R325). -/
def State.rect (s : State) (p : Nat) (r : LRec) (l : List Nat) : Rect :=
  let res := l.map (s.lumRes p)
  let us := res.filterMap (fun e => match e with | .to u => some u | _ => none)
  if res.contains .unmapped || !us.all r.fits then .bad
  else if res.contains .migrating then .migrating
  else if us.any (fun u => !isCroft u) && !s.acreOn then .asleep
  else .units us

/-- What becomes of a queued record. -/
inductive Take where
  | wait (s : State)
  | refuse (s : State) (cause : Nat)
  | accept (s : State) (first : Nat)

/-- The delay of a launch on a cluster under launch skew (R401). -/
def State.skew (s : State) (u : Nat) : Nat :=
  let c := clusterOf u
  if bits s.slew 33 32 = 2 ∧ c < 16 then 16 * bits (if c < 8 then s.phase0 else s.phase1) (c % 8 * 8 + 7) (c % 8 * 8) else 0

/-- Creates the contexts of an accepted record (R326). -/
def State.createAll (s : State) (p : Nat) (r : LRec) (shapes : List (BitVec 512)) (homes : List Nat) (launch : Nat) : List (Nat × Nat) → State
  | [] => s
  | (i, c) :: l =>
    let h := homes.getD (i % homes.length) 0
    let sk := s.skew (bits (s.lumEntry p h) 8 0)
    (s.create c p h r (r.fresh shapes i r.arg (w64 r.threads)) i launch (if sk = 0 then 0 else s.time + sk)).createAll p r shapes homes launch l

/-- Takes a queued record (R325 to R327). -/
def State.takeLaunch (s : State) (p : Nat) (e : LqEnt) : Take :=
  if bits e.addr 5 0 ≠ 0 then .refuse s 0x05 else
  match s.dispRead p e.asn e.addr 8 with
  | none => .refuse s 0x08
  | some (l, s) =>
    let r := lrecOf l
    if !r.ok then .refuse s 0x07
    else if r.priv == 1 && !e.sup then .refuse s 0x04
    else if 16 < r.x0 + r.w || 32 < r.y0 + r.h then .refuse s 0x07
    else match s.rect p r r.units with
      | .bad => .refuse s 0x07
      | .migrating => .wait s
      | .asleep => .wait s.wakeAcre
      | .units _ =>
        match s.dispRead p e.asn r.shapes (8 * r.nshape) with
        | none => .refuse s 0x08
        | some (sl, s) =>
          let shapes := shapeImages sl r.nshape
          if shapes.any (fun h => bits h 511 416 != 0) then .refuse s 0x07 else
          let nums := s.freeNums r.threads
          if nums.length < r.threads then .refuse s 0x07 else
          let id := s.ids + 1
          let s : State := { s with
            ids := id
            launches := mset s.launches id { part := p, next := r.next, started := e.addr :: e.started, sup := e.sup, asn := e.asn, live := nums, slots := r.slots } }
          .accept (s.createAll p r shapes r.units id ((List.range r.threads).zip nums)) (nums.head?.getD 0)

/-- The retained marks a HALT made end when its successor's contexts stand, or it is refused (R339). -/
def State.endRetain (s : State) (e : LqEnt) : State :=
  match e.retain with
  | some u => (s.modUnit u (fun x => { x with retained := 0 })).idleDown u
  | none => s

/-- LAUNCH_RECORD_TAKE (R325): the head of a partition's queue. -/
def execLaunchRecordTake (s : State) :=
  runEvent (do
    let s ← get
    let p := s.arg.n0
    exists_ (p < 16)
    match (s.part p).launchQ with
    | [] => stall 0
    | e :: rest =>
      match s.takeLaunch p e with
      | .wait s' => set s'
      | .refuse s' n => set ((s'.modPart p (fun x => { x with launchQ := rest, lCause := n, lFail := true })).endRetain e)
      | .accept s' f => set ((s'.modPart p (fun x => { x with launchQ := rest, lFirst := f })).endRetain e)) s

/-- LAUNCH_NEXT_RECORD (R328): a record all of whose contexts have halted. -/
def execLaunchNextRecord (s : State) :=
  runEvent (do
    let s ← get
    match mfind s.launches s.arg.n0 with
    | some l => do
      enabled l.live.isEmpty
      let s : State := { s with launches := mdel s.launches s.arg.n0 }
      set (if l.next = 0 then s
        else if l.started.contains l.next then s.modPart l.part (fun x => { x with lCause := 0x07, lFail := true })
        else s.modPart l.part (fun x => { x with launchQ := { addr := l.next, sup := l.sup, started := l.started, asn := l.asn } :: x.launchQ }))
    | none => stall 0) s

/-- LAUNCH_SKEW_EXPIRY (R401): a context held back by the launch skew becomes placeable. -/
def execLaunchSkewExpiry (s : State) :=
  runEvent (do
    let s ← get
    let d := s.dirE s.arg.n0
    enabled (d.st == 1 && d.freeAt != 0 && d.freeAt ≤ s.time)
    set (s.modDir s.arg.n0 (fun d => { d with freeAt := 0 }))) s

/-! ### SPAWN (R337) -/

def execSpawn (d a b : BitVec 5) (s : State) :=
  runInstr (.spawn d a b) (do
    needS b
    needD d
    let x ← rdS a
    let y ← rdS b
    if bits x 5 0 ≠ 0 then trapAt 0x05 x 7 3 else do
      let l ← readDws x 8
      let r := lrecOf l
      trapIf (!r.ok1) 0x07
      let c ← getC
      trapIf (r.priv == 1 && !c.sup) 0x04
      let e ← getD
      let home := r.y0 * 16 + r.x0
      let s ← get
      match s.rect e.part r [home] with
      | .bad => trapC 0x07
      | .migrating => stall wLum
      | .asleep => do
        set s.wakeAcre
        stall wPower
      | .units _ => do
        let sl ← readDws r.shapes (8 * r.nshape)
        let shapes := shapeImages sl r.nshape
        trapIf (shapes.any (fun h => bits h 511 416 != 0)) 0x07
        relWait
        let s ← get
        match s.freeNums 1 with
        | [] => wrS d (BitVec.allOnes 64)
        | n :: _ => do
          set (s.create n e.part home r (r.fresh shapes 0 y 1) 0 0 0)
          wrS d (w64 (s.ctxId n))) s

/-! ### HALT (R338) -/

/-- The waits of HALT: as DRAIN and a release wait, and for the context's engine commands and wide instructions (R320, R338). -/
def haltWait : M Unit := do
  drainWait
  relWait
  let s ← get
  let x := s.ctx s.cur
  stallUnless (!s.enginesBusy s.cur && x.dq.isEmpty && x.results.isEmpty) wOrder

/-- The context leaves: its word names no next instruction. -/
def runHalt (i : Instr) (body : M Unit) (s : State) : Host.Outcome State Fault Refusal :=
  runAs ((encode i).getD 0) (fun t => t.haltCtx t.cur) body s

def execHalt (s : State) :=
  runHalt .halt (do
    let x ← getC
    trapIf x.task.active 0x18
    haltWait) s

def execHaltS (a b : BitVec 5) (s : State) :=
  runHalt (.haltS a b) (do
    let x ← getC
    trapIf x.task.active 0x18
    needS b
    let r ← rdS a
    let m ← rdS b
    trapIf (bits r 5 0 != 0) 0x05
    trapIf (bits m 63 8 != 0) 0x07
    haltWait
    let e ← getD
    let u ← myUnit
    modU (fun y => { y with retained := y.retained ||| m.setWidth 8 })
    modify (fun s => s.modPart e.part (fun p => { p with launchQ := { addr := r, sup := x.sup, asn := x.asn, retain := some u } :: p.launchQ }))) s

/-! ### Groups (R341, R342) -/

def execJoin (d a : BitVec 5) (s : State) :=
  runInstr (.join d a) (do
    needD d
    let v ← rdS a
    trapIf (bits v 63 16 != 0) 0x07
    modC (fun x => { x with grp := bits v 15 0 })
    let s ← get
    wrS d (w64 (s.members (s.dirE s.cur).part (bits v 15 0)).length)) s

def execLeave (d : BitVec 5) (s : State) :=
  runInstr (.leave d) (do
    needD d
    let x ← getC
    modC (fun x => { x with grp := 0 })
    let s ← get
    wrS d (w64 (s.members (s.dirE s.cur).part x.grp).length)) s

/-- Resets every live member of a group (R342). -/
def State.killGroup (s : State) (p g : Nat) : State := (s.members p g).foldl (fun s c => s.resetCtx c) s

/-- GRPKILL (R342): the write has set BUSY; when the members are gone BUSY clears. -/
def execGrpkill (s : State) :=
  runEvent (do
    let s ← get
    let p := s.arg.n0
    exists_ (p < 16)
    enabled (bit (w64 (s.part p).grpKill) 63 && (s.part p).grpKill % 65536 == s.arg.n1)
    set ((s.killGroup p s.arg.n1).modPart p (fun x => { x with grpKill := s.arg.n1 }))) s

end Sys2Proof.Machine
end

