-- ==== Sys2Proof/Machine/Barrier.lean ====
section
/-! DEFINITION. Barriers: the arrivals of their packets (R345, R346), the instructions (R344), the staggered release (R401), and
WFE (R348). -/

namespace Sys2Proof.Machine

/-! ### Arrivals of barrier packets (R345, R346) -/

/-- The logical unit a signal came from (R345). -/
def Sig.sender (g : Sig) : Nat :=
  let x0 := bits g.desc 42 39
  match g.kind with
  | 0 => g.lunit + 1
  | 1 => g.lunit + 16
  | _ => if x0 < g.lunit % 16 then g.lunit - 1 else g.lunit - 16

/-- A dropped signal breaks the barrier (R346): at the unit that sent it, and by packets across the rectangle. -/
def State.breakFrom (s : State) (src : Nat) (g : Sig) : State :=
  let b := s.bar src g.reg
  let from_ := g.sender
  let s := if b.v && b.part == g.part && b.lunit == from_ && barDesc b.val == g.desc then (s.setBar src g.reg { b with val := putBits b.val 1 0 1 }).wakeUnit src else s
  let all := (List.range (bits g.desc 34 30 + 1)).flatMap (fun j =>
    (List.range (bits g.desc 38 35 + 1)).map (fun i => 16 * (bits g.desc 47 43 + j) + bits g.desc 42 39 + i))
  (all.filter (fun n => n != from_)).foldl (fun s n => s.sendSig src 3 n g.reg { val := g.desc, part := g.part }) s

/-- Whether a barrier is broken at a unit already (R346). -/
def Sig.broken (g : Sig) (b : Bar) : Bool := b.brk && b.part == g.part && b.lunit == g.lunit && barDesc b.val == g.desc

/-- A barrier packet arrives (R346): dropped, held in the proxy, or applied. While the proxy is full it waits in the mesh, or wakes
the unit that is gated. -/
def sigArrive (kind : Nat) : M Unit := do
  let s ← get
  match s.pkts[s.arg.n0]? with
  | some p =>
    match p.body with
    | .sig g => do
      enabled (g.kind == kind)
      let s0 : State := { s with pkts := ldel s.pkts s.arg.n0 }
      match p.way with
      | .waits part l =>
        match s.waySettled s.arg.n0 p part l with
        | some s' => set s'
        | none => stall 0
      | .nowhere => set (if kind = 3 then s0 else s0.breakFrom p.src g)
      | .to => do
        enabled (s.mayArrive s.arg.n0 p && !s.migs.any (fun m => m.src == p.dst && m.honoured))
        let u := p.dst
        let cl := clusterOf u
        let room := (s.cluster cl).proxy.length < proxyCap
        let held := s0.modCluster cl (fun c => { c with proxy := c.proxy ++ [{ g with unit := u }] })
        if (s.unit u).gated then
          if room then set held else set (s.wakeGated u)
        else if g.fits (s.bar u g.reg) then set (s0.applySig u g)
        else if kind = 3 && g.broken (s.bar u g.reg) then set s0
        else if room then set held
        else do
          enabled p.held
          set (s.crossed s.arg.n0 p)
    | _ => stall 0
  | none => stall 0

def execBarrierRowSignal (s : State) := runEvent (sigArrive 0) s
def execBarrierColumnSignal (s : State) := runEvent (sigArrive 1) s
def execBarrierRelease (s : State) := runEvent (sigArrive 2) s
def execBarrierBreak (s : State) := runEvent (sigArrive 3) s

/-- STAGGERED_RELEASE_APPLY (R401). -/
def execStaggeredReleaseApply (s : State) :=
  runEvent (do
    let s ← get
    match s.staggers[s.arg.n0]? with
    | some g => do
      enabled (g.at_ ≤ s.time)
      set ({ s with staggers := ldel s.staggers s.arg.n0 }.wakeUnit g.u)
    | none => stall 0) s

/-! ### The instructions (R344) -/

/-- Cause 0x38 with the register's number (R364). -/
def trapBroken {α : Type} (r : Nat) : M α := throw (.trap { cause := 0x38, addr := w64 r })

/-- A context that was parked when its barrier released stays so while its unit's wake steps are staggered (R401). -/
def State.heldBack (s : State) (c r : Nat) : Bool := s.staggers.any (fun g => g.u == s.unitOf c && g.reg == r && g.ctxs.contains c)

/-- Parks at a barrier register unless a condition holds (R344). -/
def parkAt (r : Nat) (b : Bool) : M Unit :=
  if b then pure () else do
    modD (fun d => { d with barWait := some r })
    parkSync wBarrier

def execBarset (d a : BitVec 5) (n : BitVec 3) (s : State) :=
  runInstr (.barset d a n) (do
    needD d
    let v ← rdS a
    let s ← get
    let u := s.unitOf s.cur
    let e := s.dirE s.cur
    let b := s.bar u n.toNat
    let q : Bar := { val := v, lunit := e.home }
    trapIf (16 ≤ q.x0 + q.wm1 || 32 ≤ q.y0 + q.hm1) 0x07
    trapIf (q.x < q.x0 || q.x0 + q.wm1 < q.x || q.y < q.y0 || q.y0 + q.hm1 < q.y) 0x07
    trapIf (b.narr != 0 || b.row || b.col) 0x07
    let w := (v &&& 0xFFFFFFFFFFF00002) ||| (b.val &&& 0x3FC)
    let q : Bar := { val := w, part := e.part, lunit := e.home }
    modify (fun s => (s.announce u n.toNat { q with val := 0 } q).unproxy u n.toNat proxyCap)
    wrS d b.val) s

/-- An arrival (R344): the phase obtained. -/
def arriveAt (n : Nat) : M Nat := do
  let s ← get
  let u := s.unitOf s.cur
  let b := s.bar u n
  if b.brk then trapBroken n else do
    trapIf (!b.v || b.nloc == 0 || b.grp != (s.ctx s.cur).grp) 0x07
    parkAt n (b.narr != b.nloc && !s.heldBack s.cur n)
    relWait
    modify (fun s => s.announce u n b { b with val := putBits b.val 19 10 (b.narr + 1) })
    pure b.phase

/-- The wait for a phase to pass (R344): the phase found. -/
def waitPhase (n p : Nat) : M Nat := do
  let s ← get
  let b := s.bar (s.unitOf s.cur) n
  if b.brk then trapBroken n else do
    parkAt n (b.phase != p && !s.heldBack s.cur n)
    pure b.phase

def execBararr (d : BitVec 5) (n : BitVec 3) (s : State) :=
  runInstr (.bararr d n) (do
    needD d
    let p ← arriveAt n.toNat
    wrS d (w64 p)) s

def execBarwt (d a : BitVec 5) (n : BitVec 3) (s : State) :=
  runInstr (.barwt d a n) (do
    needD d
    let v ← rdS a
    let p ← waitPhase n.toNat (bits v 7 0)
    wrS d (w64 p)) s

/-- BARSYNC: an arrival recorded in the context is not made again, and ends with the wait or a break. -/
def execBarsync (d : BitVec 5) (n : BitVec 3) (s : State) :=
  runInstr (.barsync d n) (do
    needD d
    let x ← getC
    let p ← (match x.barr with
      | some (r, p) => if r = n.toNat then pure p else arriveAt n.toNat
      | none => arriveAt n.toNat)
    modC (fun x => { x with barr := some (n.toNat, p) })
    let s ← get
    if (s.bar (s.unitOf s.cur) n.toNat).brk then modC (fun x => { x with barr := none }) else pure ()
    let q ← waitPhase n.toNat p
    modC (fun x => { x with barr := none })
    wrS d (w64 q)) s

/-! ### WFE (R348) -/

def execWfe (d a : BitVec 5) (s : State) :=
  runInstr (.wfe d a) (do
    needD d
    let v ← rdS a
    let s ← get
    let e := s.dirE s.cur
    if e.event then do
      modD (fun e => { e with event := false, deadline := 0 })
      wrS d 1
    else if v != 0 && v.toNat ≤ s.time then do
      modD (fun e => { e with deadline := 0 })
      wrS d 0
    else do
      modD (fun e => { e with deadline := v.toNat })
      parkSync wEvent) s

/-- WFE_DEADLINE (R348): the waiting context resumes; for Acre asleep this is a wake (R393, R394). -/
def execWfeDeadline (s : State) :=
  runEvent (do
    let s ← get
    let d := s.dirE s.arg.n0
    enabled (d.st == 1 && d.deadline != 0 && d.deadline ≤ s.time)
    let s := s.modDir s.arg.n0 (fun d => { d with deadline := 0 })
    let s := s.unpark s.arg.n0
    set (if isCroft (s.unitOf s.arg.n0) || s.acreOn then s else s.wakeAcre)) s

end Sys2Proof.Machine
end

