-- ==== Sys2Proof/Machine/Boot.lean ====
section
/-! DEFINITION. Boot, measurement and attestation (R425 to R427). The places of the image's fields and the fused values are
opaque constants of Config (log 16). -/

namespace Sys2Proof.Machine

/-- Bytes as numbers. -/
def nats (l : List Byte) : List Nat := l.map (·.toNat)

/-- A big-endian number of bytes. -/
def beNat (l : List Nat) : Nat := l.foldl (fun a b => a * 256 + b) 0

/-- What refuses an image (R425, R426): 0 nothing, 1 the key's hash, 2 the signature, 3 its version. -/
def imageErr (img : List Byte) : Nat :=
  let key := nats (Config.imageKey img)
  let sig := Config.imageSig img
  let q := (beNat ((key.drop 1).take 48), beNat ((key.drop 49).take 48))
  if sha384 key ≠ Config.keyHash then 1
  else if !(key.length = 97 && key.headD 0 = 4 && ecdsaOk q (beNat (sha384 (nats (Config.imageSigned img)))) sig.1 sig.2) then 2
  else if Config.imageSvn img < Config.svnMin then 3 else 0

/-- A measurement register extended: M becomes the SHA-384 of M and the data (R427). -/
def State.extend (s : State) (n : Nat) (d : List Byte) : State :=
  let m := mget s.meas n 0
  { s with meas := mset s.meas n (BitVec.ofNat 384 (beNat (sha384 (beBytes 48 m.toNat ++ nats d)))) }

/-- The accepted firmware's work from stage 2 on (R425, R426): DRAM training and the links' coming up have free outcomes. -/
def State.bootRun (s : State) : State :=
  let s := (s.extend 1 (Config.measData 1 s.flash))
  let s : State := { s with bootStage := 2 }
  if Config.freeNat s.fresh % 2 = 1 then { s with bootErr := 4, fresh := s.fresh + 1 } else
  let s : State := { s with bootStage := 3, pinRate := [128, 96, 64].getD (Config.freeNat (s.fresh + 1) % 3) 128 }
  if (Config.cmcImages s.flash).any (fun i => imageErr i != 0) then { s with bootErr := 5, fresh := s.fresh + 2 } else
  let s := (s.extend 2 (Config.measData 2 s.flash)).extend 3 (Config.measData 3 s.flash)
  { s with
    bootStage := 5
    linkcfg := putBits (putBits s.linkcfg 19 16 (Config.freeNat (s.fresh + 2) % 16)) 2 0 (Config.freeNat (s.fresh + 3) % 8)
    fresh := s.fresh + 4 }

/-- A device at power-on reset around what is not its own to lose: the memory outside it, the flash and the temperatures. -/
def State.powerOn (s : State) : State :=
  { State.reset with
    mem := s.mem.filter (fun c => outside c.1), fe := s.fe.filter (fun w => isPeer (8 * w)), flash := s.flash, time := s.time, agenda := s.agenda, steps := s.steps
    fresh := s.fresh, ids := s.ids, nextUnit := s.nextUnit, period := s.period, lent := s.lent, arg := s.arg
    units := s.units.map (fun (e : Nat × UnitSt) => (e.1, { temp := e.2.temp })) }

/-- POWER_ON_BOOT (R425, R426). -/
def execPowerOnBoot (s : State) :=
  runEvent (do
    let s ← get
    enabled (!s.power || s.bootStage == 0)
    let s := s.powerOn.extend 0 (Config.measData 0 s.flash)
    let e := imageErr s.flash
    set (if e ≠ 0 then { s with bootStage := 1, bootErr := e } else ({ s with bootStage := 1 } : State).bootRun)) s

/-- The boot flash interface, which recovery alone opens to the host (R426). DESIGN CHOICE: the spec gives it no registers; what the host
writes there is the flash's whole contents (log 78). -/
def State.flashWrite (s : State) (l : List Byte) : State := if s.power && s.bootErr != 0 then { s with flash := l } else s

/-- MEAS_EXTEND (R427): boot extends MEAS0 to MEAS3, software MEAS4 to MEAS7. -/
def execMeasExtend (s : State) :=
  runEvent (do
    let s ← get
    let n := s.arg.n0
    exists_ (n < 8)
    enabled (s.power && s.bootErr == 0 && 4 ≤ n)
    set (s.extend n s.arg.data)) s

/-- GET_MEASUREMENTS (R427): the eight registers and the identity key's signature of them with the request. -/
def execGetMeasurements (s : State) :=
  runEvent (do
    let s ← get
    enabled (s.power && s.bootErr == 0)
    let m := (List.range 8).flatMap (fun n => beBytes 48 (mget s.meas n 0).toNat)
    let sg := ecdsaSign (Config.identityKey (mget s.meas 1 0)) (Config.signNonce s.fresh)
      (beNat (sha384 (nats s.arg.data ++ m)))
    set { s with reply := (m ++ beBytes 48 sg.1 ++ beBytes 48 sg.2).map (BitVec.ofNat 8), fresh := s.fresh + 1 }) s

end Sys2Proof.Machine
end

