-- ==== Sys2Proof/Machine/Branch.lean ====
section
/-! DEFINITION. Branches, jumps and windowed calls (R202 to R206), and the device's spills and fills (R169). -/

namespace Sys2Proof.Machine

/-- A branch target (R66). -/
def sbTarget (pc : Word) (o : BitVec 14) : Word := pc + sx o * 4
/-- A jump target (R66). -/
def sjTarget (pc : Word) (o : BitVec 24) : Word := pc + sx o * 4

/-- A conditional branch (R202). -/
def branch (a b : BitVec 5) (o : BitVec 14) (f : Word → Word → Bool) : M Unit := do
  needS b
  let x ← rdS a
  let y ← rdS b
  let pc ← getPc
  if f x y then setNpc (sbTarget pc o) else pure ()

def execBeq (a b : BitVec 5) (o : BitVec 14) (s : State) := runInstr (.beq a b o) (branch a b o (fun x y => x == y)) s
def execBne (a b : BitVec 5) (o : BitVec 14) (s : State) := runInstr (.bne a b o) (branch a b o (fun x y => x != y)) s
def execBlt (a b : BitVec 5) (o : BitVec 14) (s : State) := runInstr (.blt a b o) (branch a b o (fun x y => x.slt y)) s
def execBge (a b : BitVec 5) (o : BitVec 14) (s : State) := runInstr (.bge a b o) (branch a b o (fun x y => !x.slt y)) s
def execBltu (a b : BitVec 5) (o : BitVec 14) (s : State) := runInstr (.bltu a b o) (branch a b o (fun x y => x.ult y)) s
def execBgeu (a b : BitVec 5) (o : BitVec 14) (s : State) := runInstr (.bgeu a b o) (branch a b o (fun x y => !x.ult y)) s

def execJal (o : BitVec 24) (s : State) :=
  runInstr (.jal o) (do
    needD 7
    let pc ← getPc
    wrS 7 (pc + 4)
    setNpc (sjTarget pc o)) s

def execJalr (d a : BitVec 5) (i : BitVec 14) (s : State) :=
  runInstr (.jalr d a i) (do
    needD d
    let x ← rdS a
    let pc ← getPc
    wrS d (pc + 4)
    setNpc (x + sx i)) s

/-- Opens a window and jumps (R204): waits for outstanding results and for a free window; cause 0x0E where only a spill that
R169 forbids would free one. A task may wait here, as for a register (R349 names no wait of these). -/
def callWindow (t : Word) : M Unit := do
  let x ← getC
  stallUnless (!x.resultsOut) wReg
  trapIf (x.resident == 4 && !x.canSpill 1) 0x0E
  stallUnless (x.resident < 4) wWindow
  let pc ← getPc
  modC (fun x => x.openWin.setS 15 (pc + 4))
  setNpc t

def execCallw (o : BitVec 24) (s : State) :=
  runInstr (.callw o) (do
    let pc ← getPc
    callWindow (sjTarget pc o)) s

def execCallwr (a : BitVec 5) (i : BitVec 14) (s : State) :=
  runInstr (.callwr a i) (do
    let x ← rdS a
    callWindow (x + sx i)) s

/-- Waits for the fill that a window needs; a frame that cannot be delivered is cause 0x42 at the instruction that needs it, as for a
scalar load (R117, R169, log 56). -/
def fillWait {α : Type} : M α := do
  let s ← get
  if s.fillOk s.cur then stall wWindow else trapAt 0x42 (ownWindow (s.ctx s.cur).fillOff) 7 3

def execRetw (s : State) :=
  runInstr .retw (do
    let x ← getC
    stallUnless (!x.resultsOut) wReg
    if x.wins.isEmpty then do
      trapIf (x.depth == 0) 0x0F
      fillWait
    else do
      let t ← rdS 15
      modC (fun x => x.closeWin)
      setNpc t) s

/-- WINDOW_SPILL (R169): a slot's context holds four live windows and the spill is within its limits. -/
def execWindowSpill (s : State) :=
  runEvent (do
    let s ← get
    let c := s.arg.n0
    let x := s.ctx c
    enabled ((match (s.dirE c).place with | .slot _ _ => true | _ => false) && x.resident == 4 && x.canSpill 1)
    set (s.spill c)) s

/-- WINDOW_FILL (R169): fewer than two live windows and DEPTH above 0. -/
def execWindowFill (s : State) :=
  runEvent (do
    let s ← get
    let c := s.arg.n0
    let x := s.ctx c
    enabled ((match (s.dirE c).place with | .slot _ _ => true | _ => false) && x.resident < 2 && x.depth != 0 && s.fillOk c)
    set (s.fill c)) s

end Sys2Proof.Machine
end

