-- ==== Sys2Proof/Machine/Trap.lean ====
section
/-! DEFINITION. TRAP and ERET (R369), traps as steps of the device (R366, R370), the registers of the cluster management
core (R370) and its firmware (R431), watchdogs (R381, R382), checkpoints (R386 to R388) and resumption (R389, R406). -/

namespace Sys2Proof.Machine

/-! ### TRAP and ERET (R369) -/

def execTrap (a n : BitVec 5) (s : State) :=
  runInstr (.trap a n) (do
    let v ← rdS a
    let pc ← getPc
    throw (.trap { cause := 0x60 + n.toNat, addr := v, rpc := some (pc + 4) })) s

/-- Whether work the handler issued is still under way: stores, queued loads, deliveries, remote commands (R369). -/
def State.handlerWork (s : State) (c : Nat) : Bool :=
  let mine := fun (d : Delivery) => d.sender == c && d.dev == s.devNo && !d.orphan && d.inH
  (s.ownStores c).any (·.inH) || (s.ctx c).ldqOut.any (·.inH) ||
    s.pkts.any (fun p => match p.body with | .delivery d => mine d | .ack e _ _ h => e == c && h | _ => false) ||
    s.units.any (fun (e : Nat × UnitSt) => e.2.mbox.any (fun m => mine m.1) || e.2.rcq.any (fun r => mine r.d))

/-- Fills until two windows stand behind the current one (R169, R369). -/
def fillBehind : Nat → M Unit
  | 0 => pure ()
  | n + 1 => do
    let x ← getC
    if 2 ≤ x.wins.length then pure () else do
      trapIf (x.depth == 0) 0x0F
      let s ← get
      if s.fillOk s.cur then do
        modify (fun s => s.fill s.cur)
        fillBehind n
      else fillWait

def execEret (s : State) :=
  runInstr .eret (do
    let x ← getC
    trapIf (!x.inHandler) 0x07
    let s ← get
    stallUnless (!s.handlerWork s.cur) wOrder
    stallUnless (!x.resultsOut) wReg
    let t ← rdS 15
    fillBehind 2
    modC (fun x => x.leaveHandler.1)
    setNpc t) s

/-! ### Taking a waiting trap as a step (R361, R366, R368, R370) -/

/-- The trap that a context takes next, and whether it comes from the handler's work. -/
def State.nextTrap (s : State) (c : Nat) : Option (TrapInfo × Bool) :=
  match s.nextRecord c with
  | some r => some (r.trap, r.inH)
  | none => (s.nextAsync c).map (fun a => (a.trap, false))

/-- A boundary of a context in a slot of a running unit: its next trap is taken if it goes where `toH` says. -/
def boundaryStep (toH : Bool) : M Unit := do
  let s ← get
  let c := s.arg.n0
  let x := s.ctx c
  enabled (match (s.dirE c).place with | .slot u _ => s.powered u && s.live c && !x.held && !x.frozen | _ => false)
  match s.nextTrap c with
  | some (t, h) => do
    enabled (s.toHandler c t h == toH && !s.entryWaits c t h)
    match s.boundaryTrap c with
    | some s' => set s'
    | none => stall 0
  | none => stall 0

def execTrapEntryHandler (s : State) := runEvent (boundaryStep true) s
def execTrapToCmc (s : State) := runEvent (boundaryStep false) s

/-! ### Context commands (R370, R379) -/

/-- Resumes a held context at an address (R370). -/
def State.resumeHeld (s : State) (c : Nat) (pc : Word) : State :=
  match s.modWherever c (fun x => { x with held := false, pc := pc, wait := none }) with
  | (s, true) => s.modDir c (fun d => { d with ready := true })
  | (s, false) => s

/-- A context command of a cluster (R370): any combination the table does not allow changes nothing. -/
def State.ctxCmd (s : State) (cl cmd code id : Nat) : State :=
  let c := id % 65536
  if id / 65536 ≠ s.devNo || !s.live c || clusterOf (s.unitOf c) ≠ cl then s else
  let x := s.ctxWherever c
  match cmd with
  | 1 => if x.held then s.resumeHeld c (x.trec.getD 7 0) else s
  | 2 => if x.held then s.resumeHeld c (s.cluster cl).ctxPc else s
  | 3 => if x.held then s.resetCtx c else s
  | 4 => if s.isFrozen c then s.unfreeze c else s
  | 5 => if !x.held && 0x50 ≤ code && code ≤ 0x5F then s.raise c { cause := code } else s
  | _ => s

/-- A write of CTXCMD (R370): with BUSY it starts a command, which is done at once; commands 0, 6 and 7 make it ignored. A command for
Croft wakes it (R391). -/
def State.ctxCmdWrite (s : State) (cl : Nat) (v : Word) : State :=
  let cmd := bits v 62 60
  if cmd = 0 || 6 ≤ cmd then s else
  let s := (if cl = 16 && bit v 63 then s.wakeCroft else s).modCluster cl (fun x => { x with ctxCmd := v &&& 0x700FE000003FFFFF })
  if bit v 63 then s.ctxCmd cl cmd (bits v 51 45) (bits v 21 0) else s

/-- Firmware writes CTXCMD for a context of this device. -/
def ctxCmdEvent (cmd : Nat) : M Unit := do
  let s ← get
  exists_ (s.arg.n0 < 17)
  set (s.ctxCmdWrite s.arg.n0 (w64 (2 ^ 63 + cmd * 2 ^ 60 + (if cmd = 5 then s.arg.n2 % 128 else 0) * 2 ^ 45 + s.ctxId (s.arg.n1 % 65536))))

def execCtxcmdResume (s : State) := runOpen (ctxCmdEvent 1) s
def execCtxcmdResumeAt (s : State) := runOpen (ctxCmdEvent 2) s
def execCtxcmdReset (s : State) := runOpen (ctxCmdEvent 3) s
def execCtxcmdReleaseFrozen (s : State) := runOpen (ctxCmdEvent 4) s
def execCtxcmdRaise (s : State) := runOpen (ctxCmdEvent 5) s

/-! ### The mailbox registers (R370) -/

/-- Frees the done entries at the head of a mailbox, then lets waiting records in. -/
def ClusterSt.reap (x : ClusterSt) (cl : Nat) : ClusterSt :=
  let n := (x.mbox.takeWhile (·.done)).length
  let (m, w) := mbFill cl x.waiting (x.mbox.drop n) []
  { x with mbox := m, waiting := w, head := (x.head + n) % 64 }

/-- A write of TMBHEAD. -/
def State.tmbHeadWrite (s : State) (cl : Nat) (v : Word) : State :=
  s.modCluster cl (fun x =>
    match x.mbox with
    | [] => x
    | e :: l => if bits v 5 0 = (x.head + 1) % 64 then { x with mbox := { e with done := true } :: l }.reap cl else x)

/-- A write of TMBFREE. -/
def State.tmbFreeWrite (s : State) (cl : Nat) (v : Word) : State :=
  if !bit v 63 then s else
  s.modCluster cl (fun x =>
    let i := (bits v 5 0 + 64 - x.head) % 64
    match x.mbox[i]? with
    | some e => { x with mbox := lset x.mbox i { e with done := true } }.reap cl
    | none => x)

def execTmbheadAdvance (s : State) :=
  runOpen (do
    let s ← get
    exists_ (s.arg.n0 < 17)
    set (s.tmbHeadWrite s.arg.n0 s.arg.v)) s

def execTmbfreeMark (s : State) :=
  runOpen (do
    let s ← get
    exists_ (s.arg.n0 < 17)
    set (s.tmbFreeWrite s.arg.n0 s.arg.v)) s

/-- The physical address of a register of a cluster's management core. -/
def cmcReg (cl r : Nat) : Nat := 0x7F0001000000 + 0x220000 + 0x40 * cl + r

def execErrcntRead (s : State) :=
  runOpen (do
    let s ← get
    exists_ (s.arg.n0 < 17)
    let pa := cmcReg s.arg.n0 0x20
    set { s.regReadAfter pa with reply := toBytes 8 (s.regRead pa).toNat }) s

/-- CMC_GROUP_STOP (R431): the group of ADDR in the trapping context's partition is killed, the context itself resumes if it still lives,
wherever it is now, and the entry is done. A context that has its number since is another one. -/
def execCmcGroupStop (s : State) :=
  runEvent (do
    let s ← get
    let cl := s.arg.n0
    exists_ (cl < 17)
    let x := s.cluster cl
    match x.mbox[(s.arg.n1 + 64 - x.head) % 64]? with
    | some e => do
      let info := e.words.getD 0 0
      let id := bits info 53 32
      let c := id % 65536
      enabled (!e.done && e.unit.isSome && bits info 6 0 == 0x7F && bits (e.words.getD 2 0) 63 16 == 0 && id / 65536 == s.devNo)
      let g := bits (e.words.getD 2 0) 15 0
      let s := (s.killGroup e.part g).modPart e.part (fun p => { p with grpKill := g })
      let s := if (s.dirE c).gens = e.gens && (s.dirE c).part = e.part then s.ctxCmd (clusterOf (s.unitOf c)) 1 0 id else s
      set (s.tmbFreeWrite cl (w64 (2 ^ 63 + s.arg.n1 % 64)))
    | none => stall 0) s

/-! ### Watchdogs (R381, R382) -/

def execHangWatchdog (s : State) :=
  runEvent (do
    let s ← get
    let c := s.arg.n0
    enabled (s.live c && s.inSlot c && s.hangDue c)
    set (s.hangRaise c)) s

/-- WALL_TIME_LIMIT (R382): a saved context whose deadline passes becomes ready, and takes the trap when it is back (R393). -/
def execWallTimeLimit (s : State) :=
  runEvent (do
    let s ← get
    let c := s.arg.n0
    enabled (s.live c)
    if (s.dirE c).place = .saved then do
      let lim := (s.ctxWherever c).csrGet 0x101
      enabled (lim != 0 && lim.toNat ≤ s.time && !(s.dirE c).ready)
      set (s.modDir c (fun d => { d with ready := true }))
    else do
      enabled ((mfind s.ctxs c).isSome && s.wallDue c)
      set (s.wallRaise c)) s

/-! ### Write-back (R376) -/

/-- Writes one block of a resident context's image to its save area, if it differs or cannot be read; the first such write clears VALID,
by a header written anew where that cannot be read (R376). -/
def State.writeBack (s : State) (c blk : Nat) : Option State :=
  let d := s.dirE c
  let x := s.ctx c
  let u := s.unitOf c
  let img := blocksOf 320 0 (x.image d (s.ctxId c) (((s.unit u).sfq.filter (fun r => r.ctx == c)).take 8) false)
  match img[blk]? with
  | none => none
  | some (o, b) =>
    let (h, s) := s.readBlocks u d.part x.asn d.save.toNat 1
    let (old, s) := s.readBlocks u d.part x.asn (d.save.toNat + o) 1
    if old = some b then none else
    let head := if blk = 0 then [] else match h with
      | some h => if imgValid h then [(0, headInvalid h)] else []
      | none => img.take 1
    match s.writeBlocks u d.part x.asn d.save.toNat (head ++ [(o, b)]) with
    | .ok s => some s
    | .error f => some (s.saveFault c f)

def execImageWriteback (s : State) :=
  runEvent (do
    let s ← get
    let c := s.arg.n0
    exists_ (s.arg.n1 < 320)
    enabled (s.live c && s.inSlot c && !s.isFrozen c && !s.ckptBusy c)
    match s.writeBack c s.arg.n1 with
    | some s' => set s'
    | none => stall 0) s

/-! ### Checkpoints (R386 to R388) -/

/-- Takes a checkpoint of the executing context to an area: its image at this boundary goes to the save area, and a copy
command to the area is accepted (R387). -/
def takeCkpt (x : Word) (full : Bool) : M Word := do
  let s ← get
  let c := s.cur
  stallUnless (s.canSave c) wEngine
  stallUnless ((s.unit (s.unitOf c)).entryFor (s.slotOf c)).isSome wEngine
  let d := s.dirE c
  let y := { s.ctx c with wait := none }
  match s.writeImage (s.unitOf c) d.part y.asn d.save (y.image d (s.ctxId c) (((s.unit (s.unitOf c)).sfq.filter (fun r => r.ctx == c)).take 8) false) with
  | .error f => do
    set (s.saveFault c f)
    stall wEngine
  | .ok s' => do
    set s'
    modC (fun y => { y with ckseq := (y.ckseq + 1) % 2 ^ 32 })
    let k ← newCmd
    let inc := !full && x == y.lcka
    let t ← accept { k with
      args := [x, w64 (b2n !inc), d.save], reads := [{ lo := d.save.toNat, len := imgSize }], writes := [{ lo := x.toNat, len := imgSize }] }
    modC (fun y => { y with lcka := x })
    pure t

def execCkpt (d a : BitVec 5) (f : BitVec 1) (s : State) :=
  runInstr (.ckpt d a f) (do
    let c ← getC
    trapIf c.task.active 0x18
    let x ← if a.toNat = 0 then pure (c.csrGet 0x102) else rdS a
    needD d
    trapIf (x == 0) 0x07
    if bits x 5 0 ≠ 0 then trapAt 0x05 x 7 0 else do
      let t ← takeCkpt x (f.toNat == 1)
      wrS d t) s

/-- What stands at a checkpoint's area is no valid image any more, where its header can be written (R387). -/
def State.invalidate (s : State) (u : Nat) (k : Cmd) : State :=
  let x := (k.args.getD 0 0).toNat
  match s.readBlocks u k.part k.asn x 1 with
  | (none, s) => s
  | (some h, s) =>
    if !imgValid h then s else
    match s.writeBlock u k.part k.asn x (headInvalid h) with
    | .ok s => s
    | .error _ => s

/-- The effect of a checkpoint's copy (R387): the blocks that changed since the last completed one, the header last with
VALID = 1. After a fault the area holds no valid image, and of the rest nothing is written (log 33). -/
def runCkpt (s : State) (u : Nat) (k : Cmd) : CmdRes :=
  let x := k.args.getD 0 0
  let c := k.ctx
  match s.readImage u k.part k.asn (k.args.getD 2 0) with
  | (none, s) =>
    let level := (List.range 320).any (fun i => match s.imgLoc u k.part k.asn ((k.args.getD 2 0).toNat + 64 * i) false with | (.error _, _) => true | _ => false)
    .fault (s.invalidate u k) (if level then 0x08 else 0x43) 0 0 0
  | (some b, s) =>
    let img := b.take 11 ++ [BitVec.ofNat 8 (imgAt b 0xB 1 / 2 * 2 + 1)] ++ b.drop 12
    let old := if k.args.getD 1 1 == 0 then (s.dirE c).ckImage else []
    let l := (blocksOf 320 0 img).filter (fun e => e.1 == 0 || (old.drop e.1).take 64 != e.2)
    let s := if 65536 ≤ c then s else s.modDir c (fun d => { d with ckImage := [] })
    match s.writeBlocks u k.part k.asn x.toNat (l.tail ++ l.take 1) with
    | .ok s => .ok (if 65536 ≤ c then s else s.modDir c (fun d => { d with ckImage := img })) 0 0 0
    | .error f => .fault (s.invalidate u k) (atLevel 0x0C f.level) 0 0 0

def execStep (d : BitVec 5) (n : BitVec 14) (s : State) :=
  runInstr (.step d n) (do
    needD d
    let x ← getC
    let v := (bits (x.csrGet 0x20) 31 0 + n.toNat) % 2 ^ 32
    let lim := bits (x.csrGet 0x21) 31 0
    if lim ≠ 0 ∧ lim ≤ v then do
      modC (fun x => x.csrSet 0x20 0)
      modD (fun d => { d with ckDue := true })
    else modC (fun x => x.csrSet 0x20 (w64 v))
    wrS d (w64 v)) s

/-- CHECKPOINT_TIMER (R388): a timer checkpoint falls due; it is taken at the context's next boundary outside a task. -/
def execCheckpointTimer (s : State) :=
  runEvent (do
    let s ← get
    let c := s.arg.n0
    let x := s.ctx c
    let tmr := bits (x.csrGet 0x22) 31 0
    enabled (s.live c && (mfind s.ctxs c).isSome && tmr != 0 && x.ckdue ≤ s.time)
    set ((s.modCtx c (fun x => { x with ckdue := (s.time + tmr * 1000) % 2 ^ 64 })).modDir c (fun d => { d with ckDue := true }))) s

/-- A checkpoint that has fallen due, taken as ckpt s0, s0 at a boundary (R388); with ckpt.addr 0 nothing is taken. -/
def autoCkpt (c : Nat) (s : State) : Host.Outcome State Fault Refusal :=
  let s := { s with cur := c }
  runAs ((encode (.ckpt 0 0 0)).getD 0) (fun t => (t.modDir c (fun d => { d with ckDue := false })).modCtx c (fun x => { x with wait := none })) (do
    let x ← getC
    let a := x.csrGet 0x102
    if a = 0 then pure () else do
      let _ ← takeCkpt a false
      pure ()) s

/-! ### Resumption (R389, R406) -/

/-- A write to RESUMEQ: dropped with OVF while the partition is not enabled or its queue is full. -/
def State.resumeqWrite (s : State) (p : Nat) (v : Word) : State :=
  s.modPart p (fun x =>
    if !x.en || 16 ≤ x.resumeQ.length then { x with rOvf := true } else { x with resumeQ := x.resumeQ ++ [v] })

def execResumeqWrite (s : State) :=
  runOpen (do
    let s ← get
    exists_ (s.arg.n0 < 16)
    set (s.resumeqWrite s.arg.n0 s.arg.v)) s

/-- Takes a queued image (R389, R406): the context becomes live in the writing partition, saved where its image stands. DESIGN CHOICE: a
port binding of the image in a direction that another context of the unit holds by now stands beside that one's; R171 lets no second
binding be made, and says nothing of one that comes back (log 77). -/
def State.takeResume (s : State) (p : Nat) (a : Word) : Take :=
  if bits a 5 0 ≠ 0 then .refuse s 0x05 else
  match s.readImage 0 p 0 a with
  | (none, s) => .refuse s 0x08
  | (some b, s) =>
    let c := imgAt b 4 2
    if imgAt b 4 4 / 65536 = s.devNo && s.retRec.contains c then .refuse s 0x48
    else if !imgOk b || imgAt b 4 4 / 65536 ≠ s.devNo || s.live c then .refuse s 0x07
    else match s.lumRes p (imgAt b 8 2) with
      | .unmapped => .refuse s 0x07
      | .migrating => .wait s
      | .to u =>
        if !isCroft u && !s.acreOn then .wait s.wakeAcre else
        let d : Dir := { st := 1, part := p, prio := imgAt b 0xA 1, home := imgAt b 8 2, gens := BitVec.ofNat 48 (imgAt b 0x18 8), save := a
                         place := .saved, since := s.time, xfail := w64 (imgAt b 0xF8 8)
                         portsKept := (List.range 8).map (fun i => let q := imgPort b i; (q.kind, q.dir, q.ring)) }
        .accept ((s.wakeGated u).modDir c (fun _ => d)) c

def execResumeImageTake (s : State) :=
  runEvent (do
    let s ← get
    let p := s.arg.n0
    exists_ (p < 16)
    match (s.part p).resumeQ with
    | [] => stall 0
    | a :: rest =>
      match s.takeResume p a with
      | .wait s' => set s'
      | .refuse s' n => set (s'.modPart p (fun x => { x with resumeQ := rest, rCause := n, rFail := true }))
      | .accept s' f => set (s'.modPart p (fun x => { x with resumeQ := rest, rFirst := f }))) s

end Sys2Proof.Machine
end

