-- ==== Sys2Proof/Machine/Run.lean ====
section
/-! DEFINITION. Engine commands as they run: the effect of each, its completion (R150), its faults (R159) and internal errors
(R160). An effect is made whole at the step that ends the command (log 7). -/

namespace Sys2Proof.Machine

/-- What a command does, from the word it was issued as. -/
def runCmd (s : State) (u : Nat) (k : Cmd) : CmdRes :=
  if k.isCkpt then runCkpt s u k else
  match matOpOf k.word with
  | some o => runMat s u k o
  | none =>
    match decode k.word with
    | .illegal _ => .ok s 0 0 0
    | .instr i =>
      match gKind i with
      | some (.gsend rs) => runSend s u k rs
      | some kd => runRecord s u k kd
      | none =>
        match i with
        | .cpy .. => runCpy s u k
        | .fill .. => runFill s u k
        | .gath .. => runIndex s u k true
        | .scat .. => runIndex s u k false
        | .coll .. => runColl s u k
        | .tmov .. => runTmov s u k false
        | .tmovTg .. => runTmov s u k true
        | .cgemv .. => runCgemv s u k
        | .snap .. => runSnap s u k
        | .scommit .. => runScommit s u k
        | _ => .ok s 0 0 0

/-- What follows the end of any command: iterations, and what is left of ended contexts that nothing names, go (R293), and the unit has
been active (R400). -/
def State.afterCmd (s : State) (u : Nat) : State :=
  let left := fun (c : Nat) => c < 2 ^ 32 || s.accsBusy c || !(s.ctx c).dq.isEmpty
  let s := ({ s with ctxs := s.ctxs.filter (fun e => left e.1), dir := s.dir.filter (fun e => left e.1) } : State).reapIters
  let s := ((s.recall u).modUnit u (fun x => { x with lastActive := s.time })).wakeUnit u
  if isCroft u then { s with island := { s.island with croftActive := s.time } }
  else { s with island := { s.island with lastActive := s.time } }

/-- A started command of a unit that works. -/
def startedCmd : M Cmd := do
  let s ← get
  exists_ (s.arg.n0 < 260)
  enabled (s.powered s.arg.n0)
  match s.cmdOf s.arg.n0 s.arg.n1 true with
  | some k => do
    enabled (s.reaches s.arg.n0 k && (s.acreRuns || !(isCroft s.arg.n0 && k.onAcre)))
    pure k
  | none => stall 0

/-- Whether a command's fault finds a place for its record; else its status waits in the scheduler (R371). -/
def State.faultRoom (s : State) (k : Cmd) : Bool := 65536 ≤ k.issuer || !s.live k.issuer || s.canPost k.issuer

/-- ENGINE_COMMAND_COMPLETE (R150); a command that must wait within its effect keeps what it has done (R284). -/
def execEngineCommandComplete (s : State) :=
  runEvent (do
    let k ← startedCmd
    let s ← get
    let u := s.arg.n0
    match runCmd s u k with
    | .wait s' => set s'
    | .ok s' m f fl => set ((s'.doneCmd u k m f fl).afterCmd u)
    | .fault .. => stall 0) s

/-- ENGINE_FAULT (R159). -/
def execEngineFault (s : State) :=
  runEvent (do
    let k ← startedCmd
    let s ← get
    let u := s.arg.n0
    match runCmd s u k with
    | .fault s' c m f fl => do
      enabled (s.faultRoom k)
      set (((s'.cancelHead k).failCmd u k c m f fl).afterCmd u)
    | _ => stall 0) s

/-! ### Effects cut short (R159, R257, R277, R302, R405) -/

/-- The state a result leaves. -/
def CmdRes.state (r : CmdRes) (s : State) : State :=
  match r with
  | .wait _ => s
  | .ok s' _ _ _ => s'
  | .fault s' _ _ _ _ => s'

/-- The 64-byte granules in which two memories differ. -/
def diffGranules (a b : List Host.Cell) : List Nat :=
  let d := (a.filter (fun c => memGet b c.1 != c.2)) ++ (b.filter (fun c => memGet a c.1 != c.2))
  d.foldl (fun l c => nins l (c.1 / 64)) []

/-- Memory in which each 64-byte granule is as before or as after, by free choice (R302, R405); tags follow what was written
(R123). -/
def State.mix (s0 s1 : State) : State :=
  let gs := diffGranules s0.mem s1.mem
  let kept := (gs.zipIdx.filter (fun e => Config.freeNat (s0.fresh + e.2) % 2 == 0)).map (·.1)
  let old := fun (a : Nat) => kept.contains (a / 64)
  let mem := (s0.mem.filter (fun c => old c.1)).foldl (fun m c => memSet m c.1 c.2) (s1.mem.filter (fun c => !old c.1))
  let fe := (s0.fe.filter (fun w => old (8 * w))).foldl nins (s1.fe.filter (fun w => !old (8 * w)))
  let s : State := { s1 with mem := mem, fe := fe, fresh := s0.fresh + gs.length }
  (gs.map (· / 16)).eraseDups.foldl (fun s t =>
    let here := gs.filter (fun p => p / 16 == t)
    if here.any kept.contains then s.setTag (t * 1024) (if here.all kept.contains then s0.tagAt (t * 1024) else s0.tagAt (t * 1024) &&& 0xFFDF)
    else s) s

/-- The sequences before a free place, and the one at it with each granule old or new but CLEN, at the home captured for it, old
(R302). -/
def cutCommit (s : State) (u : Nat) (k : Cmd) : State :=
  let i := s.iter (k.iter.getD 0)
  let n := Config.freeNat s.fresh % (k.args.length / 50 + 1)
  let xs := seqsOf 64 k.args
  let upTo := fun (m : Nat) => (commitAll u k i (xs.take m) (k.ops.drop 1) s.bump).2
  let s0 := upTo n
  match xs[n]? with
  | none => s0
  | some x =>
    let s1 := s0.mix (upTo (n + 1))
    let before := nsum ((xs.take n).map (fun y => 2 * y.copies i + 2))
    match opLoc u k ((k.ops.drop 1).getD (before + 2 * x.copies i + 1) { va := x.addr }) 0 accW s1 with
    | .ok l s2 => s2.pokeRaw l 4 (s0.peek l 4)
    | .error _ s2 => s2

/-- What an internal error that ends a command leaves of its effect: a checkpoint's area that is no valid image (R387), an accumulator
after some of its steps (R257), nothing of a GME command (R277), some sequences of a commit (R302), else a free choice of the writes
(R159). -/
def cutCmd (s : State) (u : Nat) (k : Cmd) : State :=
  if k.isCkpt then s.invalidate u k else
  match matOpOf k.word with
  | some o => (matUpTo s.bump u k o (Config.freeNat s.fresh % (matShape k.shape).ksteps)).state s
  | none =>
    match decode k.word with
    | .instr i =>
      if (gKind i).isSome then s
      else match i with
        | .scommit .. => cutCommit s u k
        | _ => (runCmd s u { k with cut := true }).state s
    | .illegal _ => s

/-- Whether a command can be replayed from its record (R160): of the commands accepted later, none over its write regions has started
and none has written its read regions. Those of other units count too; one that has ended has left its mark (`stale`). -/
def State.canReplay (s : State) (k : Cmd) : Bool :=
  !k.stale && !s.allCmds.any (fun e => k.order < e.2.order && e.2.started && (e.2.reads ++ e.2.writes).any (fun r => k.writes.any (·.meets r)))

/-- ENGINE_ERROR (R160): the error is replayed with a record of cause 0x44, or, for a link that failed (v = 1) or a command
past replay, ends the command with cause 0x45. -/
def execEngineError (s : State) :=
  runEvent (do
    let k ← startedCmd
    let s ← get
    let u := s.arg.n0
    if s.arg.v ≠ 1 ∧ s.canReplay k then set (s.logR (clusterOf u) 0x44 0) else do
      enabled (s.faultRoom k)
      set ((((cutCmd s u k).cancelHead k).failCmd u k 0x45 0 0 0).afterCmd u)) s

end Sys2Proof.Machine
end

