-- ==== Sys2Proof/Machine/Migrate.lean ====
section
/-! DEFINITION. Migration requests (R407 to R409), the move of a unit's work (R410 to R412), MIGPT (R413) and CASC (R414). -/

namespace Sys2Proof.Machine

/-! ### Requests (R407 to R409) -/

/-- Every LUM entry with its partition and logical unit. -/
def State.lumAll (s : State) : List (Nat × Nat × BitVec 32) := s.parts.flatMap (fun p => p.2.lum.map (fun e => (p.1, e.1, e.2)))

/-- Whether a valid entry names a physical unit, by a test on its ST. -/
def State.lumNames (s : State) (u : Nat) (f : Nat → Bool) : Bool :=
  s.lumAll.any (fun e => bit e.2.2 31 && bits e.2.2 8 0 == u && f (bits e.2.2 30 29))

/-- The contexts in the slots and the TCC of a unit. -/
def State.inUnit (s : State) (u : Nat) : List Nat := (s.unit u).slots.map (·.2) ++ (s.unit u).tcc

/-- Whether a request from one unit to another is accepted (R407). -/
def State.migOk (s : State) (src dst : Nat) : Bool :=
  src < 260 && dst < 260 && src != dst &&
    !s.migs.any (fun m => m.src == src || m.dst == src || m.dst == dst || m.src == dst) &&
    s.lumNames src (fun st => st == 0) && !s.lumNames dst (fun _ => true) && (s.inUnit dst).isEmpty

/-- The point-bound live contexts of a unit. -/
def State.pointBound (s : State) (u : Nat) : List Nat := (s.homedOn u).filter (fun c => (s.dirE c).bound)

/-- Raises a request (R409): the trap of each point-bound context with a handler, and the wakes (R391, R394). -/
def State.raiseMig (s : State) (src dst kind : Nat) (reg : Bool) : State :=
  let s : State := { s with migs := s.migs ++ [{ src := src, dst := dst, kind := kind, raised := s.time, reg := reg }] }
  let s := if isCroft src || isCroft dst then s.wakeCroft else s
  let s := if isCroft dst then s else s.wakeAcre
  if kind = 3 then s else
  (s.pointBound src).foldl (fun s c =>
    if bit ((s.ctxWherever c).csrGet 0x30) 0 then s.raise c { cause := if kind = 1 then 0x33 else 0x32 } else s) s

/-- A request of MIGREQ is no longer busy (R408). -/
def State.notBusy (s : State) (m : Mig) : State := if m.reg then { s with migReg := putBit s.migReg 63 false } else s

/-- Withdraws a request: arrived contexts go on (R409, R413). -/
def State.withdrawMig (s : State) (m : Mig) : State :=
  let s := ({ s with migs := s.migs.filter (fun x => x != m) } : State).notBusy m
  ((s.homedOn m.src).filter (fun c => (s.dirE c).arrived)).foldl (fun s c => s.unpark c) s

/-- A write of MIGREQ (R408): KIND 3 is ignored; BUSY starts a request, whether or not an earlier one still stands, and from
then on reports that one. -/
def State.migreqWrite (s : State) (v : Word) : State :=
  if bits v 62 61 = 3 then s else
  let r := (v &&& 0x600001FF000001FF) ||| (s.migReg &&& (if bit v 60 then 0x807F000000000000 else 0x907F000000000000))
  if !bit v 63 then { s with migReg := r } else
  let s : State := { s with migs := s.migs.map (fun m => { m with reg := false }) }
  if s.migOk (bits v 8 0) (bits v 40 32) then
    ({ s with migReg := putBits (putBits (putBit r 63 true) 60 60 0) 54 48 0 } : State).raiseMig (bits v 8 0) (bits v 40 32) (bits v 62 61 + 1) true
  else { s with migReg := putBits (putBits (putBit r 63 false) 60 60 1) 54 48 7 }

/-- MIGREQ_RAISE (R408). -/
def execMigreqRaise (s : State) := runOpen (modify (fun s => s.migreqWrite s.arg.v)) s

/-- The request pending for a source. -/
def State.pendingMig (s : State) (src : Nat) : Option Mig := s.migs.find? (fun m => m.src == src && !m.honoured)

/-- Whether both units of a move stand on islands that run, and the IME, which Acre holds (R25, R407). -/
def State.migAwake (s : State) (m : Mig) : Bool := s.acreOn && (!(isCroft m.src || isCroft m.dst) || !s.island.standby)

/-- Changes the ST, and where given the unit, of every valid entry that names a unit (R410 steps 1 and 4). -/
def State.lumMove (s : State) (src st dst : Nat) : State :=
  { s with parts := s.parts.map (fun (p : Nat × PartSt) => (p.1, { p.2 with lum := p.2.lum.map (fun e =>
      if bit e.2 31 && bits e.2 8 0 == src then (e.1, putBits (putBits e.2 30 29 st) 8 0 dst) else e) })) }

/-- MIGRATION_HONOUR (R409, R410 step 1). A move that finds Acre asleep, and so the IME, waits for it and asks for its wake, as any access to an
Acre-only resource does (R25, R394, log 79). -/
def execMigrationHonour (s : State) :=
  runEvent (do
    let s ← get
    match s.pendingMig s.arg.n0 with
    | some m => do
      enabled (m.kind == 3 || (s.pointBound m.src).all (fun c => (s.dirE c).arrived))
      if !s.acreOn then set s.wakeAcre else do
      enabled (s.migAwake m)
      let s : State := { s with migs := s.migs.map (fun x => if x = m then { x with honoured := true } else x) }
      set ((s.lumMove m.src 1 m.src).notBusy m)
    | none => stall 0) s

/-- MIGRATION_TIMEOUT (R409): an island request is withdrawn, a thermal one becomes forced. -/
def execMigrationTimeout (s : State) :=
  runEvent (do
    let s ← get
    match s.pendingMig s.arg.n0 with
    | some m => do
      enabled (m.kind != 3 && m.raised + s.migTmo * 1000 ≤ s.time)
      set (if m.kind = 1 then s.withdrawMig m
        else { s with migs := s.migs.map (fun x => if x = m then { x with kind := 3 } else x) })
    | none => stall 0) s

/-! ### The move (R410 to R412) -/

/-- Where a home of the source's scratchpad comes to stand. -/
def reLoc (src dst a : Nat) : Nat := if isUnitPad a && padUnit a == src then unitLoc dst (a - unitLoc src 0) else a

/-- A region after the move. -/
def Region.move (src dst : Nat) (r : Region) : Region :=
  if 2 ^ 64 ≤ r.lo then { r with lo := 2 ^ 64 + reLoc src dst (r.lo - 2 ^ 64) } else r

/-- A command's homes after the move (R411). -/
def Cmd.move (src dst : Nat) (k : Cmd) : Cmd :=
  { k with
    ops := k.ops.map (fun o => { o with home := o.home.map (reLoc src dst) })
    reads := k.reads.map (·.move src dst)
    writes := k.writes.map (·.move src dst) }

/-- A store's homes after the move. -/
def Store.move (src dst : Nat) (e : Store) : Store :=
  { e with pieces := e.pieces.map (fun p => if e.rs = 0 then p else { p with loc := reLoc src dst p.loc }) }

/-- A queued load's home after the move; what an instruction has fetched so far it fetches anew. -/
def Ctx.moveLdq (src dst : Nat) (x : Ctx) : Ctx :=
  { x with
    got := []
    ports := x.ports.map (fun q => (q.1, { q.2 with ldq := q.2.ldq.map (fun e => { e with loc := reLoc src dst e.loc }) })) }

/-- A packet's unit and home after the move (R411). -/
def Pkt.move (src dst : Nat) (p : Pkt) : Pkt :=
  { p with
    dst := if p.dst = src then dst else p.dst
    body := match p.body with | .access r => .access { r with loc := reLoc src dst r.loc } | b => b }

/-- Everything that names a home in the source's scratchpad names it at the destination, and the scratchpad's data, full/empty
bits, tags and errors stand there (R410 step 3). -/
def State.movePad (s : State) (src dst : Nat) : State :=
  let lo := unitLoc src 0
  let here := fun (a : Nat) => decide (lo ≤ a ∧ a < lo + 2 ^ 20)
  let dest := fun (a : Nat) => reLoc src dst a
  let s := s.wipe (unitLoc dst 0) (unitLoc dst 0 + 2 ^ 20)
  { s with
    mem := (s.mem.filter (fun c => here c.1)).foldl (fun m c => memSet m (dest c.1) c.2) (s.mem.filter (fun c => !here c.1))
    fe := (s.fe.filter (fun w => here (8 * w))).foldl (fun l w => nins l (dest (8 * w) / 8)) (s.fe.filter (fun w => !here (8 * w)))
    tags := (s.tags.filter (fun g => here (g.1 * 1024))).foldl (fun m g => mset m (dest (g.1 * 1024) / 1024) g.2) (s.tags.filter (fun g => !here (g.1 * 1024)))
    memErr := (s.memErr.filter (fun e => here (8 * e.1))).foldl (fun m e => mset m (dest (8 * e.1) / 8) e.2) (s.memErr.filter (fun e => !here (8 * e.1)))
    tagErr := (s.tagErr.filter (fun e => here (e.1 * 1024))).foldl (fun m e => mset m (dest (e.1 * 1024) / 1024) e.2) (s.tagErr.filter (fun e => !here (e.1 * 1024)))
    waits := s.waits.map (fun w => { w with req := { w.req with loc := dest w.req.loc } })
    pkts := s.pkts.map (·.move src dst)
    staggers := s.staggers.map (fun g => if g.u = src then { g with u := dst } else g)
    ctxs := s.ctxs.map (fun e => (e.1, e.2.moveLdq src dst))
    units := s.units.map (fun (e : Nat × UnitSt) => (e.1, { e.2 with cmds := e.2.cmds.map (·.move src dst), sb := e.2.sb.map (·.move src dst) })) }

/-- The unit state that moves, in place of the destination's (R410 step 3). -/
def State.moveUnit (s : State) (src dst : Nat) : State :=
  let a := s.unit src
  let b := s.unit dst
  let mine := fun (g : Sig) => g.unit == src
  let held := ((s.cluster (clusterOf src)).proxy.filter mine).map (fun g => { g with unit := dst })
  let s := s.modCluster (clusterOf src) (fun c => { c with proxy := c.proxy.filter (fun g => !mine g) })
  let s := s.modCluster (clusterOf dst) (fun c => { c with proxy := c.proxy ++ held })
  let s := s.modUnit dst (fun _ => { b with
    tcc := a.slots.map (·.2) ++ a.tcc, segOn := a.segOn, retained := a.retained, sfq := a.sfq, reports := a.reports, bt := a.bt, cmds := a.cmds, seq := a.seq
    done := a.done, rcq := a.rcq, mbox := a.mbox, rxq := a.rxq, rings := a.rings, bars := a.bars, gated := false, lastActive := s.time })
  s.modUnit src (fun _ => {
    rot := a.rot, rotNext := a.rotNext, slotcfg := a.slotcfg, cyc := a.cyc, temp := a.temp, spent := a.spent, lastActive := a.lastActive
    gated := true })

/-- A network port with no neighbour at the destination becomes unbound (R412). -/
def Ctx.unbindAt (x : Ctx) (u : Nat) : Ctx :=
  { x with ports := x.ports.filter (fun p => !((p.2.kind == 2 || p.2.kind == 3) && (neighbour u p.2.dir).isNone)) }

/-- Whether a context holds a port that a unit cannot have. -/
def Ctx.strayPort (x : Ctx) (u : Nat) : Bool :=
  x.ports.any (fun p => (p.2.kind == 2 || p.2.kind == 3) && (neighbour u p.2.dir).isNone)

/-- Completes the MIGPT a context has arrived at (R410 step 5); where its image cannot be written, when it runs it again. -/
def State.finishMigpt (s : State) (c : Nat) : State :=
  let d := s.dirE c
  if !d.arrived then s else
  match s.modWherever c (fun x => { (x.setS d.arrRd 1) with pc := x.pc + 4 }) with
  | (s, true) => s.modDir c (fun d => { d with arrived := false, ready := true })
  | (s, false) => s.modDir c (fun d => { d with arrived := false, migptDone := true })

/-- Whether a context can be carried (R321, R260, R167, R368, R410 step 2). -/
def State.canMove (s : State) (c : Nat) : Bool := s.canSave c

/-- MIGRATION_COMPLETE (R410, R411): the move, whole. A started command goes on at the destination, its effect being made when
it ends (log 7). Traps that wait are taken first (R368). -/
def execMigrationComplete (s : State) :=
  runEvent (do
    let s ← get
    match s.migs.find? (fun m => m.src == s.arg.n0 && m.honoured) with
    | some m => do
      let src := m.src
      let dst := m.dst
      let cs := s.inUnit src
      if !s.acreOn then set s.wakeAcre else do
      enabled (s.migAwake m)
      if cs.any s.trapWaits then set (cs.foldl State.takeWaiting s) else do
      enabled (cs.all s.canMove && (s.unit src).sb.isEmpty)
      let s := cs.foldl (fun s c => ((s.withdraw c).abandonOf c 0 (2 ^ 64) false).modCtx c (fun x => { x with wait := none }.unbindAt dst)) s
      let homed := s.homedOn src
      let s := cs.foldl (fun s c => s.modDir c (fun d => { d with place := .tcc dst, ready := true, since := s.time })) s
      let s := (s.movePad src dst).moveUnit src dst
      let s := s.lumMove src 0 dst
      let s : State := { s with
        migs := s.migs.filter (fun x => x != m)
        dir := s.dir.map (fun e => if e.2.st != 1 && e.2.place == .tcc src then (e.1, { e.2 with place := .tcc dst }) else e) }
      let s := homed.foldl (fun s c =>
        let s := if (s.ctxWherever c).strayPort dst then (s.modWherever c (·.unbindAt dst)).1 else s
        s.finishMigpt c) s
      set (s.wakeUnit dst)
    | none => stall 0) s

/-! ### MIGPT (R413) -/

def execMigpt (d : BitVec 5) (s : State) :=
  runInstr (.migpt d) (do
    needD d
    let s ← get
    let e := s.dirE s.cur
    if e.migptDone then do
      modD (fun e => { e with migptDone := false })
      wrS d 1
    else if s.migPending (s.unitOf s.cur) = 0 then wrS d 0
    else do
      trapIf (s.ctx s.cur).task.active 0x18
      modD (fun e => { e with arrived := true, arrRd := d.toNat })
      parkSync wMigrate) s

/-- The point-bound flag's two forms. -/
def migptFlag (d : BitVec 5) (b : Bool) : M Unit := do
  needD d
  let e ← getD
  modD (fun e => { e with bound := b })
  wrS d (w64 (b2n e.bound))

def execMigptBind (d : BitVec 5) (s : State) := runInstr (.migptBind d) (migptFlag d true) s
def execMigptFree (d : BitVec 5) (s : State) := runInstr (.migptFree d) (migptFlag d false) s

/-! ### CASC (R414) -/

/-- The destination a Croft unit's cascade names. -/
def State.cascTo (s : State) (u : Nat) : Option Nat :=
  let v := mget s.cascDst (u - 256) 0
  if isCroft u && bit v 63 then some (bits v 8 0) else none

def execCasc (d a : BitVec 5) (m : BitVec 1) (s : State) :=
  runInstr (.casc d a m) (do
    needD d
    let v ← rdS a
    if bits v 5 0 ≠ 0 then trapAt 0x05 v 7 3 else do
      let s ← get
      let u := s.unitOf s.cur
      trapIf (m.toNat == 1 && !isCroft u) 0x07
      relWait
      let st := s.island.st
      let p := (s.dirE s.cur).part
      let x := s.ctx s.cur
      let full := 16 ≤ (s.part p).launchQ.length
      if st = 0 then pure () else modify (fun s => s.wakeAcre)
      let q := v != 0 && !full
      modify (fun s => if v = 0 then s
        else if full then s.modPart p (fun y => { y with lOvf := true })
        else s.modPart p (fun y => { y with launchQ := y.launchQ ++ [{ addr := v, sup := x.sup, asn := x.asn }] }))
      let s ← get
      let dest := if m.toNat = 1 then s.cascTo u else none
      match dest with
      | some dst =>
        if s.migOk u dst then do
          set (s.raiseMig u dst 1 false)
          wrS d (w64 (st + b2n q * 256 + 512))
        else wrS d (w64 (st + b2n q * 256))
      | none => wrS d (w64 (st + b2n q * 256))) s

end Sys2Proof.Machine
end

