-- ==== Sys2Proof/Machine/Dram.lean ====
section
/-! DEFINITION. The channels' power states (R39 to R42), the scrubber (R117), host accesses and sharing (R55 to R58), walkers
and invalidations (R52 to R54), the logical unit map's writes (R27, R385) and the capability key (R177). -/

namespace Sys2Proof.Machine

/-! ### Channel power (R39 to R42) -/

/-- DRAM_CHANNEL_EXIT (R39, R40): a channel that an access waits for becomes active. -/
def execDramChannelExit (s : State) :=
  runEvent (do
    let s ← get
    exists_ (s.arg.n0 < 32)
    enabled ((mget s.chans s.arg.n0 {}).st != 0 && (mget s.chans s.arg.n0 {}).want)
    set (s.exitChan s.arg.n0)) s

/-- A channel idle for a time enters a state. -/
def chanEntry (st : Nat) (ns : State → Option Nat) : M Unit := do
  let s ← get
  exists_ (s.arg.n0 < 32)
  let c := mget s.chans s.arg.n0 {}
  match ns s with
  | some t => do
    enabled (c.st < st && c.idle + t ≤ s.time)
    set { s with chans := mset s.chans s.arg.n0 { c with st := st } }
  | none => stall 0

def execChannelPowerDownEntry (s : State) :=
  runEvent (chanEntry 1 (fun s => if bits s.mempwr 15 8 = 0 then none else some (bits s.mempwr 15 8 * 16))) s

/-- CHANNEL_SELF_REFRESH_ENTRY (R39): on idle, or, for a channel that Acre's sleep leaves idle, at the island controller's
request (R393). -/
def execChannelSelfRefreshEntry (s : State) :=
  runEvent (chanEntry 2 (fun s =>
    if s.island.st = 1 ∨ s.island.st = 2 then some 0
    else if bit s.mempwr 0 && bits s.mempwr 23 16 != 0 then some (bits s.mempwr 23 16 * 1000) else none)) s

/-- A write of MEMPWR (R41). -/
def State.mempwrWrite (s : State) (v : Word) : State := { s with mempwr := v &&& 0xFFFFFF01 }

/-! ### The patrol scrubber (R117) -/

/-- PATROL_SCRUB (R117): one word and its granule's tag of a powered scratchpad. -/
def execPatrolScrub (s : State) :=
  runEvent (do
    let s ← get
    let a := s.arg.n0
    enabled (isPad a && (if isAcrePad a then s.acreOn else !s.island.standby) && (!isUnitPad a || bit (s.unit (padUnit a)).segOn (a % 2 ^ 20 / 0x10000)))
    let cl := padCluster a
    let s := match mget s.memErr (errKey a) 0 with
      | 0 => s
      | 1 => ({ s with memErr := mdel s.memErr (errKey a) } : State).logR cl 0x40 (w64 a)
      | _ => s.logR cl 0x42 (w64 a)
    set (s.tagRead a).1) s

/-! ### The host's accesses (R56 to R58, R416) -/

/-- The lines of 64 bytes of a range. -/
def linesOf (a n : Nat) : List Nat := rangeFrom (a / 64) ((a + n + 63) / 64 - a / 64)

/-- A region of 2 MiB that is shared (R56). -/
def State.shared (s : State) (a : Nat) : Bool := s.sharing.contains (a / 0x200000)

/-- Bursts a write covers in part and finds uncorrectable (R34). -/
def State.partBad (s : State) (a n : Nat) : List Nat :=
  (rangeFrom (a / 32) ((a + n + 31) / 32 - a / 32)).filter (fun b => !(a ≤ 32 * b && 32 * b + 32 ≤ a + n) && s.errAt (32 * b) == 2)

/-- The host comes to hold the lines of a range that lie in shared regions (R57). -/
def State.hostTakes (s : State) (a n : Nat) : State :=
  { s with hostLines := ((linesOf a n).filter (fun b => s.shared (64 * b))).foldl nins s.hostLines }

/-- A write of the host in device DRAM: words touched become full, their wait lists are served, and a partial write of an
uncorrectable burst is recorded to Croft's management core; one of a correctable burst corrects it (R33, R34, R58, R214). -/
def State.hostStore (s : State) (a : Nat) (l : List Byte) : State :=
  let s := (partBursts a l.length).foldl (fun s b => s.correct 256 b 32) (s.touchRun a l.length)
  let bad := s.partBad a l.length
  let s := s.pokeBytes a l
  let s := (rangeFrom (a / 8) ((a + l.length + 7) / 8 - a / 8)).foldl (fun s w => s.feChange (8 * w) true) s
  let s := bad.foldl (fun s b => s.logR 16 0x43 (w64 (32 * b))) s
  s.hostTakes a l.length

/-- Whether the host reaches the device: a boot has enabled the PF and the HDM range (R425); in recovery only BOOTST is readable
(R426). -/
def State.pfOpen (s : State) : Bool := s.power && s.bootStage == 5 && s.bootErr == 0

/-- HOST_READ (R57, R416): device DRAM, an uncorrectable burst with the poison indication (R34), or a register through a function's
BAR. DESIGN CHOICE: a read of a private region returns what the device wrote last; the device tracks no copies there, and R57 lets a
host that cached the line read its old value (log 65). -/
def execHostRead (s : State) :=
  runEvent (do
    let s ← get
    let a := s.arg.n0
    let n := s.arg.n1
    if isRegBlock a then do
      enabled (s.power && a % 8 == 0 && n == 8 && (s.pfOpen || (s.bootErr != 0 && a == 0x7F0001270000)))
      set { s.regReadAfter a with reply := toBytes 8 (s.regRead a).toNat, replyBad := false }
    else do
      enabled (s.pfOpen && n != 0 && n ≤ 4096 && (populated (a + n - 1) || (isHostPa a && isHostPa (a + n - 1))))
      let s := if isDram a then ((s.touchRun a n).correct 256 a n).hostTakes a n else s
      set { s with reply := memRead s.mem a n, replyBad := isDram a && s.readErr a n != 0 }) s

/-- A write of a word of the sharing map (R56): a set bit takes effect now, a cleared one when the host's copies are gone. -/
def State.sharingWrite (s : State) (off : Nat) (v : Word) : State :=
  let base := (off - 0x10000) * 8
  (List.range 64).foldl (fun s i =>
    let n := base + i
    if !populated (n * 0x200000) then s
    else if bit v i then { s with sharing := nins s.sharing n, sharingClear := ndel s.sharingClear n }
    else if !s.sharing.contains n then s
    else if s.hostLines.any (fun l => l / 0x8000 == n) then { s with sharingClear := nins s.sharingClear n }
    else { s with sharing := ndel s.sharing n }) s

def execSharingMapWrite (s : State) :=
  runOpen (do
    let s ← get
    enabled (0x10000 ≤ s.arg.n0 && s.arg.n0 < 0x14000 && s.arg.n0 % 8 == 0)
    set (s.sharingWrite s.arg.n0 s.arg.v)) s

/-- SHARING_MAP_CLEAR_DONE (R56): the host's copies have been back-invalidated. -/
def execSharingMapClearDone (s : State) :=
  runEvent (do
    let s ← get
    enabled (!s.sharingClear.isEmpty)
    set { s with
      sharing := s.sharing.filter (fun n => !s.sharingClear.contains n)
      hostLines := s.hostLines.filter (fun l => !s.sharingClear.contains (l / 0x8000))
      sharingClear := [] }) s

/-! ### Walkers (R52) -/

/-- Whether a cluster has a miss that no walker has taken. -/
def State.missFrom (s : State) (cl : Nat) : Option Miss :=
  s.misses.find? (fun m => !m.walking && m.failed.isNone && m.units.any (fun u => clusterOf u == cl))

/-- The Acre cluster the walkers serve next: the first after the one served last that has a pending miss (R52). -/
def State.walkNext (s : State) : Option Nat :=
  ((List.range 16).map (fun i => (s.walkLast + 1 + i) % 16)).find? (fun cl => (s.missFrom cl).isSome)

/-- TLB_MISS_WALK_START (R52): a cluster's oldest pending miss finds a walker, 64 for Acre, which serve its clusters in rotation, and 4
for Croft. -/
def execTlbMissWalkStart (s : State) :=
  runEvent (do
    let s ← get
    let cl := s.arg.n0
    exists_ (cl < 17)
    match s.missFrom cl with
    | some m => do
      let busy := (s.misses.filter (fun x => x.walking && x.croft == m.croft)).length
      enabled (busy < (if m.croft then 4 else 64) && (cl == 16 || s.walkNext == some cl))
      set { s with walkLast := if cl = 16 then s.walkLast else cl, misses := s.misses.map (fun x => if x = m then { x with walking := true } else x) }
    | none => stall 0) s

/-- WALK_COMPLETE (R49, R52): every requester's TLBs are filled, or every requester that still waits learns of the failure. -/
def execWalkComplete (s : State) :=
  runEvent (do
    let s ← get
    match s.misses[s.arg.n0]? with
    | some m => do
      enabled m.walking
      let u := m.units.headD 0
      match s.walk u m.part m.asn (m.vpn * 4096) with
      | (.fail l, s) => set (s.missFailed m.part m.asn m.vpn l)
      | (.leaf l pte pa, s) => do
        let (s, e) := s.install u m.part m.asn (m.vpn * 4096) l pte pa
        set (s.missFilled m.part m.asn m.vpn e)
    | none => stall 0) s

/-! ### Invalidation (R53, R54) -/

/-- Whether a scope removes a TLB entry (R53). -/
def TlbEnt.removed (e : TlbEnt) (p scope asn : Nat) (va : Word) : Bool :=
  let page := e.vpn == va.toNat >>> levelShift e.level
  e.part == p && (match scope with
    | 0 => true
    | 1 => e.asn == asn && !bit e.pte 7
    | 2 => e.asn == asn && !bit e.pte 7 && page
    | 3 => page
    | _ => false)

/-- A write of XLTINV (R53): entries go, the walk caches of the partition are cleared, its walks restart; BUSY stays until the command
is done. -/
def State.xltinvWrite (s : State) (p : Nat) (v : Word) : State :=
  if bit (s.part p).xltinv 63 || 5 ≤ bits v 51 48 then s else
  let s := s.modPart p (fun x => { x with xltinv := v &&& 0x800FFFF000000000 })
  if !bit v 63 then s else
  let keep := fun (e : TlbEnt) => !e.removed p (bits v 51 48) (bits v 47 36) (s.part p).xltva
  { s with
    walkAcre := s.walkAcre.filter (fun e => e.part != p)
    walkCroft := s.walkCroft.filter (fun e => e.part != p)
    units := s.units.map (fun (u : Nat × UnitSt) => (u.1, { u.2 with tlb := u.2.tlb.filter keep }))
    clusters := s.clusters.map (fun (c : Nat × ClusterSt) => (c.1, { c.2 with tlb := c.2.tlb.filter keep }))
    misses := (s.misses.filter (fun m => !(m.part == p && m.failed.isSome))).map (fun m => if m.part = p then { m with walking := false } else m) }

/-- Starts a command of a scope. -/
def xltinv (scope asn : Nat) : M Unit := do
  let s ← get
  exists_ (s.arg.n0 < 16)
  set (s.xltinvWrite s.arg.n0 (w64 (2 ^ 63 + scope * 2 ^ 48 + asn % 4096 * 2 ^ 36)))

def execXltinvPartition (s : State) := runOpen (xltinv 0 0) s
def execXltinvAsn (s : State) := runOpen (xltinv 1 s.arg.n1) s
def execXltinvAsnPage (s : State) := runOpen (xltinv 2 s.arg.n1) s
def execXltinvPageAllAsn (s : State) := runOpen (xltinv 3 0) s
def execXltinvWalkCaches (s : State) := runOpen (xltinv 4 0) s

/-- Whether accesses of a partition that may have used a removed entry are still under way: resolved stores, queued loads, full/empty
accesses in the wait list of a DRAM word, and commits that hold the pages their checks found (R54, R301). -/
def State.oldAccesses (s : State) (p : Nat) : Bool :=
  s.units.any (fun u => u.2.sb.any (fun e => (s.dirE (e.ctx % 2 ^ 32)).part == p && e.rs == 1 && e.pieces.any (fun q => !isWindow q.va))) ||
    s.ctxs.any (fun e => (s.dirE e.1).part == p && e.2.ldqOut.any (fun q => !isWindow q.va)) ||
    s.waits.any (fun w => !w.watch && w.req.ctx < 65536 && (s.dirE w.req.ctx).part == p && !isWindow w.req.va) ||
    s.allCmds.any (fun k => k.2.part == p && k.2.ops.any (fun o => !o.pages.isEmpty))

/-- XLTINV_DONE (R54). -/
def execXltinvDone (s : State) :=
  runEvent (do
    let s ← get
    let p := s.arg.n0
    exists_ (p < 16)
    enabled (bit (s.part p).xltinv 63 && !s.oldAccesses p)
    set (s.modPart p (fun x => { x with xltinv := putBit x.xltinv 63 false }))) s

/-! ### The logical unit map (R27, R385) -/

/-- The contexts of a logical unit that are resident or in a TCC. -/
def State.heldBy (s : State) (p n : Nat) : List Nat :=
  (s.dir.filter (fun e => e.2.st == 1 && e.2.part == p && e.2.home == n && (match e.2.place with | .slot _ _ => true | .tcc _ => true | _ => false))).map (·.1)

/-- A write of a LUM entry (R27); fencing loses the contexts that stand there (R385). -/
def State.lumWrite (s : State) (p n : Nat) (v : Word) : State :=
  let old := s.lumEntry p n
  let new : BitVec 32 := (v.setWidth 32) &&& 0xE00001FF
  let cs := s.heldBy p n
  let wasV := bit old 31
  if bits old 30 29 = 1 then s
  else if wasV && !bit new 31 && !cs.isEmpty then s
  else if wasV && bits old 30 29 == 0 && bits new 8 0 != bits old 8 0 && !cs.isEmpty then s
  else
    let fenced := fun (e : BitVec 32) => 2 ≤ bits e 30 29
    let s := if fenced new && !fenced old then cs.foldl (fun s c => s.loseCtx c) s else s
    let s := s.modPart p (fun x => { x with lum := mset x.lum n new })
    if isCroft (bits old 8 0) || isCroft (bits new 8 0) then s.wakeCroft else s

def execLumWrite (s : State) :=
  runOpen (do
    let s ← get
    exists_ (s.arg.n0 < 16 && s.arg.n1 < 512)
    set (s.lumWrite s.arg.n0 s.arg.n1 s.arg.v)) s

/-! ### The capability key (R177) -/

/-- A write of CAPKEY's low half stages it. -/
def State.keyLow (s : State) (p : Nat) (v : Word) : State := s.modPart p (fun x => { x with keyLow := some v })
/-- A write of CAPKEY's high half commits the key. -/
def State.keyHigh (s : State) (p : Nat) (v : Word) : State :=
  s.modPart p (fun x => { x with key := BitVec.ofNat 128 (v.toNat * 2 ^ 64 + (x.keyLow.map (·.toNat)).getD (x.key.toNat % 2 ^ 64)), keyLow := none })

def execCapkeyStageLow (s : State) :=
  runOpen (do
    let s ← get
    exists_ (s.arg.n0 < 16)
    set (s.keyLow s.arg.n0 s.arg.v)) s

def execCapkeyCommit (s : State) :=
  runOpen (do
    let s ← get
    exists_ (s.arg.n0 < 16)
    set (s.keyHigh s.arg.n0 s.arg.v)) s

end Sys2Proof.Machine
end

