-- ==== Sys2Proof/Machine/Power.lean ====
section
/-! DEFINITION. Acre's states and wakes (R390 to R396), Croft's standby, pulses and lending (R397 to R401), heat (R402 to R406)
and partition swap (R417 to R419, R424). -/

namespace Sys2Proof.Machine

/-! ### Acre on its way down (R392, R393) -/

/-- The physical units of Acre with their state. -/
def State.acreUnits (s : State) : Map UnitSt := s.units.filter (fun e => e.1 < 256)

/-- What keeps Acre from entering off (R393). -/
def State.offBlocked (s : State) : Bool :=
  s.acreUnits.any (fun (e : Nat × UnitSt) =>
    e.2.bars.any (fun b => b.2.v) || !e.2.bt.isEmpty || e.2.rings.any (fun r => !r.2.q.isEmpty) || !e.2.rcq.isEmpty ||
      e.2.rxq.any (fun q => !q.2.isEmpty) || !e.2.mbox.isEmpty)

/-- Whether a migration request names an Acre unit (R392). -/
def State.acreMig (s : State) : Bool := s.migs.any (fun m => !isCroft m.src || !isCroft m.dst)

/-- Starts a change of Acre downwards. -/
def State.goDown (s : State) (dest : Nat) (busy : Bool) : State :=
  { s with island := { s.island with from_ := s.island.st, st := 3, to_ := dest, busy := busy, since := s.time } }

/-- Starts a wake that stands requested, when nothing forbids it (R394, R404, R405). -/
def State.tryWake (s : State) : State :=
  let i := s.island
  if i.request && !i.inh && !i.emergency && (i.st == 1 || i.st == 2) then
    { s with island := { i with from_ := i.st, st := 3, to_ := 0, since := s.time } }
  else s

/-- A write of ISLCTL (R392): one whose CMD is 0 or above 3 is ignored whole, whatever its BUSY (log 64); one with BUSY 0 starts no command
and writes the other fields; a refused command changes BUSY and REF alone. -/
def State.islctlWrite (s : State) (v : Word) : State :=
  let cmd := bits v 62 60
  if cmd = 0 || 4 ≤ cmd then s else
  let refused : State := { s with island := { s.island with busy := false, ref := true } }
  let s : State := { s with island := { s.island with
    cmd := cmd, offIdle := bits v 47 32, retIdle := bits v 31 16, auto := bit v 15, ref := s.island.ref && !bit v 7 } }
  if !bit v 63 then s else
  let done : State := { s with island := { s.island with busy := false, waking := false } }
  if cmd ≠ 1 && s.acreMig then refused else
  match cmd, s.island.st with
  | 1, 0 => done
  | 1, _ => ({ s with island := { s.island with busy := true, waking := true } } : State).wakeAcre
  | 2, 0 => s.goDown 1 true
  | 2, 1 => done
  | 3, 0 => if s.offBlocked then refused else s.goDown 2 true
  | 3, 1 => if s.offBlocked then refused else s.goDown 2 true
  | 3, 2 => done
  | _, _ => refused

/-- A command written to ISLCTL, its other fields as `v` gives them. -/
def islctlEvent (cmd : Nat) : M Unit :=
  modify (fun s => s.islctlWrite (putBits (s.arg.v ||| w64 (2 ^ 63)) 62 60 cmd))

def execIslctlWake (s : State) := runOpen (islctlEvent 1) s
def execIslctlRetention (s : State) := runOpen (islctlEvent 2) s
def execIslctlOff (s : State) := runOpen (islctlEvent 3) s

/-- ACRE_AUTO_RETENTION (R392): idle for RETIDLE, with no wake request pending. -/
def execAcreAutoRetention (s : State) :=
  runEvent (do
    let s ← get
    let i := s.island
    enabled (i.auto && i.st == 0 && !i.request && i.lastActive + i.retIdle * 1000 ≤ s.time && !s.acreMig &&
      !s.acreUnits.any (fun (e : Nat × UnitSt) => e.2.cmds.any (·.started)))
    set (s.goDown 1 false)) s

/-- ACRE_AUTO_OFF (R392, R393): in retention for OFFIDLE. -/
def execAcreAutoOff (s : State) :=
  runEvent (do
    let s ← get
    let i := s.island
    enabled (i.auto && i.st == 1 && i.offIdle != 0 && !i.request && i.since + i.offIdle * 1000000 ≤ s.time && !s.acreMig && !s.offBlocked)
    set (s.goDown 2 false)) s

/-- A command whose engine stands on Acre though it was issued on Croft: CGEMV, SNAP, SCOMMIT (R24, R25). -/
def Cmd.usesAcre (k : Cmd) : Bool :=
  match decode k.word with
  | .instr (.cgemv ..) => true
  | .instr (.snap ..) => true
  | .instr (.scommit ..) => true
  | _ => false

/-- Whether accepted commands or pending stores still keep Acre from sleeping (R393 step 2). -/
def State.acreBusy (s : State) : Bool :=
  s.acreUnits.any (fun (e : Nat × UnitSt) => !e.2.cmds.isEmpty || !e.2.sb.isEmpty) ||
    s.allCmds.any (fun uk => isCroft uk.1 && (uk.2.usesAcre || (uk.2.started && uk.2.onAcre)))

/-- Whether an Acre context is still resident or in a TCC. -/
def State.acreHolds (s : State) : Bool := s.acreUnits.any (fun (e : Nat × UnitSt) => !e.2.slots.isEmpty || !e.2.tcc.isEmpty)

/-- Clears the TLBs and walk caches of Acre (R393). -/
def State.clearTlbs (s : State) : State :=
  { s with
    units := s.units.map (fun (e : Nat × UnitSt) => if e.1 < 256 then (e.1, { e.2 with tlb := [] }) else e)
    clusters := s.clusters.map (fun (e : Nat × ClusterSt) => if e.1 < 16 then (e.1, { e.2 with tlb := [] }) else e)
    walkAcre := []
    misses := s.misses.filter (fun m => m.croft) }

/-- Acre loses its scratchpads and unit state (R390): registers that supervisor software set, sensors and sequence counters
stay; a context that waited at a word there tries again. -/
def State.loseAcre (s : State) : State :=
  let gone := s.waits.filter (fun w => isAcrePad w.req.loc)
  let s := gone.foldl (fun s w => if 65536 ≤ w.req.ctx then s else if w.watch then s.unpark w.req.ctx else s.modCtx w.req.ctx (fun x => { x with wait := none })) s
  let s : State := { s with waits := s.waits.filter (fun w => !isAcrePad w.req.loc), faded := s.faded.filter (fun c => !isAcrePad c.1) }
  let s := (s.wipe (unitLoc 0 0) (unitLoc 256 0)).wipe (clusterLoc 0 0) (2 ^ 53)
  let keep := fun (x : UnitSt) => ({ slotcfg := x.slotcfg, rot := x.rot, rotNext := x.rotNext, temp := x.temp, seq := x.seq, lastActive := x.lastActive } : UnitSt)
  { s with
    units := s.units.map (fun (e : Nat × UnitSt) => if e.1 < 256 then (e.1, keep e.2) else e)
    clusters := s.clusters.map (fun (e : Nat × ClusterSt) => if e.1 < 16 then (e.1, { e.2 with proxy := [] }) else e)
    tagErr := s.tagErr.filter (fun e => !isAcrePad (e.1 * 1024))
    staggers := s.staggers.filter (fun g => isCroft g.u) }

/-- ACRE_ENTRY_DONE (R393 step 4, R404 step 3): retention or off is entered, or off is refused after all. -/
def execAcreEntryDone (s : State) :=
  runEvent (do
    let s ← get
    let i := s.island
    enabled (i.st == 3 && (i.to_ == 1 || i.to_ == 2))
    enabled (!s.acreHolds && (i.emergency || !s.acreBusy))
    if i.to_ = 1 then
      set { s.clearTlbs with island := { i with st := 1, busy := false, since := s.time } }
    else if !i.emergency && s.offBlocked then
      set { s with island := { i with st := i.from_, busy := false, ref := i.ref || i.busy } }
    else
      set ({ s.clearTlbs.loseAcre with island := { i with st := 2, busy := i.busy && i.waking, emergency := false, since := s.time } } : State).tryWake) s

/-! ### Wake (R395, R396, R406) -/

/-- The record of cause 0x48 for a context lost at a trip, at its home unit (R405, R406). -/
def State.lostRecord (s : State) (c u : Nat) : State :=
  s.toMailbox (clusterOf u) { words := [w64 (s.ctxId c * 2 ^ 32 + 7 * 2 ^ 11 + 5 * 2 ^ 8 + 0x48), 0, 0, 0, 0, w64 s.time, 0, 0], unit := some u }

/-- ACRE_WAKE_DONE (R395): Acre is on; contexts lost at a trip are reported, once each (R406), and held packets may go on, in their order
(R19). -/
def execAcreWakeDone (s : State) :=
  runEvent (do
    let s ← get
    let i := s.island
    enabled (i.st == 3 && i.to_ == 0 && !i.inh && !i.emergency)
    let s := s.retTell.foldl (fun s e => if s.retRec.contains e.1 then s.lostRecord e.1 e.2 else s) s
    let s := (List.range 32).foldl (fun s ch => if (mget s.chans ch {}).st = 2 then s.exitChan ch else s) s
    set { s with retTell := [], island := { i with st := 0, busy := false, waking := false, request := false, lastActive := s.time, since := s.time } }) s

/-- UNIT_POWER_GATE (R396): what the retention latches do not keep is lost. -/
def execUnitPowerGate (s : State) :=
  runEvent (do
    let s ← get
    let u := s.arg.n0
    exists_ (u < 260)
    let x := s.unit u
    enabled (s.powered u && (s.homedOn u).isEmpty && x.cmds.isEmpty && x.sb.isEmpty && x.rcq.isEmpty && x.mbox.isEmpty &&
      x.slots.isEmpty && x.tcc.isEmpty && !s.migs.any (fun m => m.src == u || m.dst == u))
    set ((s.idleDown u).modUnit u (fun x => { x with gated := true, tlb := [], done := [] }))) s

def execUnitWake (s : State) :=
  runEvent (do
    let s ← get
    exists_ (s.arg.n0 < 260)
    enabled ((s.unit s.arg.n0).gated && (isCroft s.arg.n0 || s.acreOn))
    set (s.wakeGated s.arg.n0)) s

/-! ### Croft's standby (R390, R391) -/

/-- Whether a context's wall-time bound has passed, wherever it is (R382, R391). -/
def State.wallPast (s : State) (c : Nat) : Bool :=
  let lim := (s.ctxWherever c).csrGet 0x101
  lim != 0 && lim.toNat ≤ s.time

/-- A live context homed on Croft could go on (R391). -/
def State.croftReady (s : State) (c : Nat) : Bool :=
  let d := s.dirE c
  d.st == 1 && isCroft (s.unitOf c) && !d.frozen && (s.part d.part).pst == 0 &&
    ((d.deadline != 0 && d.deadline ≤ s.time) || s.wallPast c ||
      (match d.place with
        | .slot _ _ => (match mfind s.ctxs c with | some x => x.wait.isNone && !x.held && !x.frozen | none => false)
        | .tcc _ => d.ready && !(s.ctx c).held && !(s.ctx c).frozen
        | _ => d.ready))

/-- Whether a queued launch record's rectangle has a unit on Croft (R391). -/
def State.launchOnCroft (s : State) (p : Nat) (e : LqEnt) : Bool :=
  match s.dispRead p e.asn e.addr 8 with
  | some (l, _) => (lrecOf l).units.any (fun n => match s.lumRes p n with | .to u => isCroft u | _ => false)
  | none => false

/-- Whether a queued image's home is on Croft (R391). -/
def State.resumeOnCroft (s : State) (p : Nat) (a : Word) : Bool :=
  match s.readBlocks 0 p 0 a.toNat 1 with
  | (some b, _) => (match s.lumRes p (imgAt b 8 2) with | .to u => isCroft u | _ => false)
  | (none, _) => false

/-- Whether something wakes Croft (R391). -/
def State.croftCalled (s : State) : Bool :=
  s.pkts.any (fun p => isCroft p.dst) || s.migs.any (fun m => isCroft m.src || isCroft m.dst) || s.dir.any (fun e => s.croftReady e.1) ||
    s.parts.any (fun (p : Nat × PartSt) => p.2.launchQ.any (s.launchOnCroft p.1) || p.2.resumeQ.any (s.resumeOnCroft p.1))

/-- CROFT_STANDBY_ENTRY (R390): Croft has issued nothing and run no engine step for STBYIDLE. -/
def execCroftStandbyEntry (s : State) :=
  runEvent (do
    let s ← get
    let i := s.island
    enabled (s.power && !i.standby && i.stbyIdle != 0 && i.croftActive + i.stbyIdle * 1000 ≤ s.time && !s.croftCalled &&
      !s.units.any (fun (e : Nat × UnitSt) => isCroft e.1 && e.2.cmds.any (·.started)))
    set { s with island := { i with standby := true } }) s

def execCroftWake (s : State) :=
  runEvent (do
    let s ← get
    enabled (s.island.standby && s.croftCalled)
    set s.wakeCroft) s

/-- A write of CROFTCTL (R391, R392). -/
def State.croftctlWrite (s : State) (v : Word) : State :=
  ({ s with island := { s.island with div := bits v 17 16, stbyIdle := bits v 15 0 } } : State).wakeCroft

/-! ### Pulses and lending (R397 to R400) -/

/-- A write of PSPAT (R397): a count outside 1 to 16 makes it ignored. -/
def State.pspatWrite (s : State) (c : Nat) (v : Word) : State :=
  let k := bits v 4 0
  if k = 0 || 16 < k then s else s.modCluster c (fun x => { x with kreq := k }.setK)

def execPspatWrite (s : State) :=
  runOpen (do
    let s ← get
    exists_ (s.arg.n0 < 16)
    set (s.pspatWrite s.arg.n0 s.arg.v)) s

/-- A write of LEND (R398). -/
def State.lendWrite (s : State) (c : Nat) (v : Word) : State :=
  s.modCluster c (fun x => { x with allow := bits v 63 48, pmax := bits v 47 32 })

/-- A cluster's standing for a period: 2 gated, 1 idle, 0 active (R399). Active is one with a unit that has issued or run an engine step in
the period before this one, or since. -/
def State.lendState (s : State) (c : Nat) : Nat :=
  if (unitsOf c).all (fun u => (s.unit u).gated) then 2
  else if (unitsOf c).any (fun u =>
    let x := s.unit u
    (x.lastActive != 0 && s.time / 1024 ≤ x.lastActive / 1024 + 1) || x.cmds.any (·.started)) then 0
  else 1

/-- LENDING_PERIOD (R399): a cluster whose recall is under way keeps its one pulse, and so does a lender found active, whose recall starts
(R400). -/
def execLendingPeriod (s : State) :=
  runEvent (do
    let s ← get
    enabled (s.time / 1024 != s.lent)
    let back := (List.range 16).filter (fun c => (s.cluster c).lst == 3 || ((s.cluster c).lends && s.lendState c == 0))
    set { s.lendAround s.lendState back with lent := s.time / 1024 }) s

/-- LENDER_RECALL (R400): a lender with a unit that is active. One that issues or runs an engine step is recalled as it does so. -/
def execLenderRecall (s : State) :=
  runEvent (do
    let s ← get
    let c := s.arg.n0
    exists_ (c < 16)
    enabled ((s.cluster c).lends && s.lendState c == 0)
    set (s.recall (c % 4 * 4 + c / 4 * 64))) s

/-- RECALL_COMPLETE (R400): every borrower takes its new count, and the lender its own. -/
def execRecallComplete (s : State) :=
  runEvent (do
    let s ← get
    let c := s.arg.n0
    exists_ (c < 16)
    enabled ((s.cluster c).lst == 3)
    set (s.lendAround (fun d => if d = c then 0 else (s.cluster d).lst) (s.recalling (some c)))) s

/-! ### Heat (R402 to R405) -/

/-- The thresholds (R402). -/
def State.migT (s : State) : Nat := bits s.therm 7 0
def State.thrT (s : State) : Nat := bits s.therm 15 8
def State.emgT (s : State) : Nat := bits s.therm 23 16

/-- A write of THERM (R402): one that breaks a range is ignored whole. -/
def State.thermWrite (s : State) (v : Word) : State :=
  let e := bits v 23 16
  let t := bits v 15 8
  let m := bits v 7 0
  if 96 ≤ e ∧ e ≤ 108 ∧ 80 ≤ m ∧ m ≤ 100 ∧ m ≤ t ∧ t < e then { s with therm := v &&& 0xFFFFFF } else s

/-- The destination the device chooses for a thermal request (R407). -/
def State.coolest (s : State) (src : Nat) : Option Nat :=
  minBy (fun d => (s.unit d).temp * 512 + d) ((List.range 256).filter (fun d => s.migOk src d))

/-- A context whose save a trip cuts off is lost: its bit is set, and the next wake tells its home unit's cluster (R405, R406). -/
def State.tripLose (s : State) (c : Nat) : State :=
  { s.haltCtx c with retRec := nins s.retRec c, retTell := s.retTell.filter (fun e => e.1 != c) ++ [(c, s.unitOf c)] }

/-- The live Acre contexts no save area holds: in slots and TCCs, and in the shadow store (R405). -/
def State.unsaved (s : State) : List Nat :=
  (s.dir.filter (fun e => e.2.st == 1 && (match e.2.place with
    | .slot u _ => u < 256
    | .tcc u => u < 256
    | .shadow _ u _ => u < 256
    | .reserve cl => cl < 16
    | .saved => false
    | .none => !isCroft (s.unitOf e.1)))).map (·.1)

/-- Withdraws every request with an Acre unit when Acre loses its supply; entries held for a move return to normal (log 21). -/
def State.dropMigs (s : State) : State :=
  (s.migs.filter (fun m => !isCroft m.src || !isCroft m.dst)).foldl (fun s m =>
    let s := if m.honoured then s.lumMove m.src 0 m.src else s
    s.withdrawMig m) s

/-- The trip of an Acre sensor (R405): engine writes under way leave each granule old or new, pending stores of the contexts
lost are not performed, contexts that no save area holds are lost, and Acre is off until it has cooled. -/
def State.trip (s : State) : State :=
  let s := (s.allCmds.filter (fun uk => uk.1 < 256 && uk.2.started)).foldl (fun s uk => s.mix ((runCmd s uk.1 uk.2).state s)) s
  let cs := s.unsaved
  let s : State := { s with units := s.units.map (fun (e : Nat × UnitSt) => if e.1 < 256 then (e.1, { e.2 with sb := [], cmds := [] }) else e) }
  let s := cs.foldl State.tripLose s.dropMigs
  { s.clearTlbs.loseAcre with island := { s.island with st := 2, busy := s.island.busy && s.island.waking, emergency := false, inh := true, since := s.time } }

/-- The whole device goes off (R390, R405, R35): DRAM and every state are lost; the host's memory, that of linked devices, the boot flash,
the sensors and the passage of time are not the device's to lose. -/
def State.deviceOff (s : State) : State :=
  { State.reset with
    mem := s.mem.filter (fun c => outside c.1), fe := s.fe.filter (fun w => isPeer (8 * w)), flash := s.flash, power := false, time := s.time, agenda := s.agenda, steps := s.steps
    fresh := s.fresh, ids := s.ids, nextUnit := s.nextUnit, period := s.period, arg := s.arg
    units := s.units.map (fun (e : Nat × UnitSt) => (e.1, { temp := e.2.temp })) }

/-- A sensor reads a temperature (R402 to R405): what it has reached has its effect, the highest first. A thermal request is raised at a
reading at or above MIGT for which a destination qualifies (R407). -/
def State.sense (s : State) (u t : Nat) : State :=
  let s := s.modUnit u (fun x => { x with temp := min t 255 })
  if isCroft u then (if 110 ≤ t then s.deviceOff else s) else
  if 110 ≤ t then s.trip else
  let s := if s.migT ≤ t then
      (match s.coolest u with | some d => s.raiseMig u d 2 false | none => s)
    else s
  let s := if t + 3 < s.migT then
      (match s.pendingMig u with | some m => if m.kind = 2 then s.withdrawMig m else s | none => s)
    else s
  if s.emgT ≤ t ∧ s.island.st ≠ 2 ∧ s.island.emergency = false then
    { s with island := { s.island with emergency := true, from_ := if s.island.st = 3 then s.island.from_ else s.island.st, st := 3, to_ := 2, since := s.time } }
  else s

/-- A sensor's reading that meets a guard. -/
def sensed (ok : State → Nat → Nat → Bool) : M Unit := do
  let s ← get
  exists_ (s.arg.n0 < 260)
  enabled (s.power && ok s s.arg.n0 s.arg.n1)
  set (s.sense s.arg.n0 s.arg.n1)

def execThermalMigrationCrossing (s : State) := runEvent (sensed (fun s u t => u < 256 && s.migT ≤ t)) s
def execThermalRequestWithdraw (s : State) := runEvent (sensed (fun s u t => t < s.migT || isCroft u)) s
def execEmergencySave (s : State) := runEvent (sensed (fun s u t => u < 256 && s.emgT ≤ t)) s
def execThermalTrip (s : State) := runEvent (sensed (fun _ u t => u < 256 && 110 ≤ t)) s
def execCroftThermalTrip (s : State) := runEvent (sensed (fun _ u t => isCroft u && 110 ≤ t)) s

/-- THROTTLE_STEP (R403): every 16 µs. -/
def execThrottleStep (s : State) :=
  runEvent (do
    let s ← get
    let c := s.arg.n0
    exists_ (c < 16)
    let x := s.cluster c
    enabled (x.lastStep + 16000 ≤ s.time)
    let ts := (unitsOf c).map (fun u => (s.unit u).temp)
    if ts.any (fun t => s.thrT ≤ t) then set (s.modCluster c (fun x => { x with ktherm := max 1 (x.ktherm - 1), lastStep := s.time }.setK))
    else if ts.all (fun t => t + 5 < s.thrT) then set (s.modCluster c (fun x => { x with ktherm := min 16 (x.ktherm + 1), lastStep := s.time }.setK))
    else stall 0) s

/-- INHIBIT_CLEAR (R405). -/
def execInhibitClear (s : State) :=
  runEvent (do
    let s ← get
    enabled (s.island.inh && s.acreUnits.all (fun (e : Nat × UnitSt) => e.2.temp ≤ 90))
    set ({ s with island := { s.island with inh := false } } : State).tryWake) s

/-- A write of a word of the retention record (R406): bits written 1 clear. -/
def State.retWrite (s : State) (off : Nat) (v : Word) : State :=
  { s with retRec := s.retRec.filter (fun c => !(c / 64 == (off - 0x242000) / 8 && bit v (c % 64))) }

def execRetentionRecordClear (s : State) :=
  runOpen (do
    let s ← get
    enabled (0x242000 ≤ s.arg.n0 && s.arg.n0 < 0x244000 && s.arg.n0 % 8 == 0)
    set (s.retWrite s.arg.n0 s.arg.v)) s

def execDeviceOff (s : State) := runEvent (modify State.deviceOff) s

/-! ### Partition swap (R417 to R419) -/

/-- A write of PARTCTL (R417): one whose CMD is not 1 or 2 is ignored whole, whatever its BUSY (log 64); a refused command changes nothing;
else EN is written. -/
def State.partctlWrite (s : State) (p : Nat) (v : Word) : State :=
  let cmd := bits v 62 60
  let fits := (cmd = 1 && (s.part p).pst = 0) || (cmd = 2 && (s.part p).pst = 1)
  if !(cmd = 1 || cmd = 2) || (bit v 63 && !fits) then s else
  let s := s.modPart p (fun x => { x with en := bit v 0, pcmd := if x.pst = 2 then x.pcmd else cmd })
  if bit v 63 then s.modPart p (fun x => { x with pst := 2 }) else s

/-- The contexts of a partition in slots, in ascending unit and slot; and those in TCCs. -/
def State.swapSlots (s : State) (p : Nat) : List (Nat × Nat × Nat) :=
  s.units.flatMap (fun (e : Nat × UnitSt) => (e.2.slots.filter (fun q => (s.dirE q.2).part == p && !s.isFrozen q.2)).map (fun q => (e.1, q.1, q.2)))
def State.swapTccs (s : State) (p : Nat) : List Nat :=
  s.units.flatMap (fun (e : Nat × UnitSt) => e.2.tcc.filter (fun c => (s.dirE c).part == p && !s.isFrozen c))

/-- The swap images in use in a cluster's slice (R418). -/
def State.swapUsed (s : State) (cl : Nat) : Nat :=
  (s.dir.filter (fun e => e.2.st == 1 && (match e.2.place with | .shadow c _ _ => c == cl | _ => false))).length

/-- Swaps one context of a slot out (R418 step 2). -/
def State.swapOne (s : State) (u sl c : Nat) : State :=
  if isCroft u || 120 ≤ s.swapUsed (clusterOf u) then s.saveCtx c
  else
    let s := ((s.withdraw c).abandonOf c 0 (2 ^ 64) false).modCtx c (fun x => { x with wait := none })
    (s.vacate c).modDir c (fun d => { d with place := .shadow (clusterOf u) u sl })

/-- GRPKILL of every group of a partition, its saved members included (R342, R424). -/
def State.killAll (s : State) (p : Nat) : State :=
  (((s.dir.filter (fun e => e.2.st == 1 && e.2.part == p)).map (fun e => s.grpOf e.1)).eraseDups).foldl (fun s g => s.killGroup p g) s

/-- A partition is swapped out: a reset of its VF that waits for this stops its groups (R418, R424). -/
def State.swapped (s : State) (p : Nat) : State :=
  let flr := (s.part p).flr
  let s := s.modPart p (fun x => { x with pst := 1, flr := false })
  if flr then s.killAll p else s

/-- Completes a swap out once every context has waited as a save waits, the traps that wait for it taken (R368, R418). -/
def State.swapOut (s : State) (p : Nat) : Option State :=
  let sl := s.swapSlots p
  let tc := s.swapTccs p
  let all := sl.map (·.2.2) ++ tc
  if all.any s.trapWaits then some (all.foldl State.takeWaiting s) else
  if !all.all s.canSave then none else
  let cls := (sl.map (fun e => clusterOf e.1) ++ tc.map (fun c => clusterOf (s.unitOf c))).eraseDups
  let s := sl.foldl (fun s e => s.swapOne e.1 e.2.1 e.2.2) s
  let s := tc.foldl (fun s c => s.saveCtx c) s
  let s := cls.foldl (fun s cl => s.logR cl 0x34 0) s
  some (s.swapped p)

/-- PARTITION_SWAP_OUT (R418): the write of PARTCTL that starts it, and, when its contexts have waited, its end. -/
def execPartitionSwapOut (s : State) :=
  runOpen (do
    let s ← get
    let p := s.arg.n0
    exists_ (p < 16)
    let s := if (s.part p).pst = 2 then s else s.partctlWrite p s.arg.v
    if (s.part p).pst = 2 ∧ (s.part p).pcmd ≠ 2 then set ((s.swapOut p).getD s) else set s) s

/-- Returns the shadow-store images that can return now, each to the slot it left, on the same physical unit; when all are back, a VF reset
that came meanwhile swaps the partition out again (R418, R424). -/
def State.swapIn (s : State) (p : Nat) : State :=
  let back := s.dir.filterMap (fun e => if e.2.st == 1 && e.2.part == p then (match e.2.place with | .shadow _ u sl => some (e.1, u, sl) | _ => none) else none)
  let s := if back.any (fun e => !isCroft e.2.1) && !s.acreOn then s.wakeAcre else s
  if !s.acreOn && !back.isEmpty then s else
  let s := back.foldl (fun s e =>
    let (c, u, sl) := e
    if (s.inSlotOf u sl).isSome then s
    else match s.checkEntry c with
      | (s, true) => s.enterSlot c u sl
      | (s, false) => s) s
  if s.dir.any (fun e => e.2.st == 1 && e.2.part == p && (match e.2.place with | .shadow _ _ _ => true | _ => false)) then s
  else s.modPart p (fun x => if x.flr then { x with pst := 2, pcmd := 1 } else { x with pst := 0 })

/-- PARTITION_SWAP_IN (R418). -/
def execPartitionSwapIn (s : State) :=
  runOpen (do
    let s ← get
    let p := s.arg.n0
    exists_ (p < 16)
    let s := if (s.part p).pst = 2 then s else s.partctlWrite p s.arg.v
    if (s.part p).pst = 2 ∧ (s.part p).pcmd = 2 then set (s.swapIn p) else set s) s

/-- VF_FLR (R424): a swap out, and, once it is done, GRPKILL of every group of the partition; a swap in under way comes to its end first. -/
def execVfFlr (s : State) :=
  runOpen (do
    let s ← get
    let p := s.arg.n0
    exists_ (p < 16)
    let s := s.modPart p (fun x => if x.pst = 0 then { x with pst := 2, pcmd := 1, flr := true } else { x with flr := true })
    set (if (s.part p).pst = 1 then s.swapped p
      else if (s.part p).pcmd = 2 then s
      else (s.swapOut p).getD s)) s

end Sys2Proof.Machine
end

