-- ==== Sys2Proof/Machine/Tasks.lean ====
section
/-! DEFINITION. Tasks: dependence counters (R352), ready rings (R351, R353), TASKEND and dispatch (R354, R358), the method
lookup (R356, R357), OPCALL (R359) and load balancing (R360). -/

namespace Sys2Proof.Machine

/-! ### DCNT (R352) -/

/-- The remote form of a decrement, for the packet and for a context in its own unit. -/
def execDcnt (d a b : BitVec 5) (s : State) :=
  runInstr (.dcnt d a b) (do
    needS b
    needD d
    let x ← rdS a
    let n ← rdS b
    if x.toNat % 8 ≠ 0 then trapAt 0x05 x 7 3 else do
      trapIf (!isWindow x || !(bits x 47 44 == 1 || bits x 47 44 == 4) || (match windowRoom x with | some r => decide (r < 8) | none => true)) 0x07
      trapIf (n.toNat = 0 || 65535 < n.toNat) 0x07
      relWait
      let loc ← home x accFW 8 true
      let s ← get
      let u := s.unitOf s.cur
      stallUnless (!(s.ownStores s.cur).any (fun e => e.rs != 2 && (e.rs == 0 || e.meets loc 8))) wStore
      if isRemote u loc then do
        let v ← sendReq { ctx := s.cur, loc := loc, op := .dcnt, data := n, rd := d.toNat, va := x, insn := s.insn }
        wrS d v
      else
        match s.dcntHome loc n.toNat (s.dirE s.cur).part with
        | .done s' v => do
          set s'
          wrS d v
        | .cause s' c => do
          set s'
          if c = 0x06 then trapC 0x06 else trapAt c x 7 3
        | .wait s' => do
          set s'
          parkSync wRing) s

/-! ### TASKQ (R353) -/

/-- The entry TASKQ pushes. -/
def taskEntry (b : Word) (m : BitVec 1) : M Word :=
  if bits b 5 0 ≠ 0 then trapC 0x05 else pure (b ||| w64 m.toNat)

def execTaskq (a b : BitVec 5) (m : BitVec 1) (s : State) :=
  runInstr (.taskq a b m) (do
    needS b
    let x ← rdS a
    let y ← rdS b
    let e ← taskEntry y m
    trapIf (bits x 63 3 != 0) 0x06
    let s ← get
    let r := s.ring (s.unitOf s.cur) x.toNat
    trapIf (!r.usable (s.dirE s.cur).part) 0x06
    parkUnless (r.q.length < ringCap) wRing
    relWait
    modify (fun s => s.ringPush (s.unitOf s.cur) x.toNat e)) s

def execTaskqCap (a b : BitVec 5) (m : BitVec 1) (s : State) :=
  runInstr (.taskqCap a b m) (do
    needS b
    let cap ← rdS a
    let y ← rdS b
    let e ← taskEntry y m
    capCheck cap 30
    trapIf (capCls cap != 6) 0x15
    inject cap 0 (.taskq e)) s

def execTaskqOwn (a b : BitVec 5) (s : State) :=
  runInstr (.taskqOwn a b) (do
    needS b
    let x ← rdS a
    let y ← rdS b
    trapIf (bits x 63 3 != 0) 0x06
    trapIf (bits y 63 8 != 0) 0x07
    let s ← get
    let u := s.unitOf s.cur
    let p := (s.dirE s.cur).part
    let r := s.ring u x.toNat
    trapIf (match r.owner with | some o => s.live o && (s.dirE o).part != p | none => false) 0x06
    modify (fun s => (s.setRing u x.toNat { r with owner := some s.cur, part := p, thr := bits y 7 0, frozen := false }).wakeUnit u)) s

/-! ### The method table and the lookup (R356, R357) -/

/-- A method-table entry (R356). -/
structure Meth where
  idx : Nat
  routine : Word
  op : Nat
  nops : Nat
  kind : Nat
  tags : List Nat
  outg : Nat
deriving DecidableEq, Repr

/-- An entry from its doublewords. -/
def methOf (j : Nat) (l : List Nat) : Meth :=
  let f := fun (off n : Nat) => dwAt l off n
  { idx := j, routine := w64 (f 0 8), op := f 8 2, nops := f 0xA 1, kind := f 0xB 1, tags := (List.range 5).map (fun i => f (0xC + 2 * i) 2), outg := f 0x16 2 }

/-- Whether a table tag matches an operand's tag: zero matches any with V = 1 and no other (R356). -/
def tagMatch (want have_ : Nat) : Bool := if want = 0 then have_ / 32 % 2 == 1 else want == have_

/-- The conversions of a table. -/
def convsOf (l : List Meth) : List Meth := l.filter (fun m => m.kind == 1)

/-- A shortest chain of at most `n` conversions from tag `u` to one that `want` matches, the first entry in table order at
each step (R357): chains of one length are tried before longer ones. -/
def chainOf (cs : List Meth) (want : Nat) : Nat → Nat → Option (List Meth)
  | 0, u => if tagMatch want u then some [] else none
  | n + 1, u =>
    match chainOf cs want n u with
    | some l => some l
    | none => cs.findSome? (fun c =>
        if tagMatch (c.tags.getD 0 0) u then (chainOf cs want n (c.tags.getD 1 0)).map (c :: ·) else none)

/-- The chains of every operand of a method, each of at most `n` conversions. -/
def chainsOf (cs : List Meth) (m : Meth) (n : Nat) (tags : List Nat) : Option (List (List Meth)) :=
  tags.zipIdx.mapM (fun g => chainOf cs (m.tags.getD g.2 0) n g.1)

/-- The lookup of R357: the method and its chains, or a cause. -/
def lookup (l : List Meth) (op cvg : Nat) (tags : List Nat) : Except Nat (Meth × List (List Meth)) :=
  let cs := convsOf l
  let ms := l.filter (fun m => m.kind == 0 && m.op == op && m.nops == tags.length)
  match ms.findSome? (fun m => (chainsOf cs m 2 tags).map (fun c => (m, c))) with
  | some (m, c) => if cvg < nsum ((c.flatMap id).map (·.outg)) then .error 0x1B else .ok (m, c)
  | none => .error (if ms.any (fun m => (chainsOf cs m 3 tags).isSome) then 0x1B else 0x19)

/-- Reads the partition's method table. -/
def readMeths (base : Word) (j : Nat) : Nat → M (List Meth)
  | 0 => pure []
  | n + 1 => do
    let l ← readDws (base + w64 (32 * j)) 3
    let r ← readMeths base (j + 1) n
    pure (methOf j l :: r)

/-! ### Dispatch (R350, R358) -/

/-- The tag of a granule a window address names, read whole, over the mesh in another unit's scratchpad (R114, R124, R129). -/
def readTag (a : Word) : M (BitVec 16) := do
  let loc ← tagHome a accR
  granuleWait loc
  let s ← get
  if isRemote (s.unitOf s.cur) loc then do
    let v ← readPart a loc 0
    pure (v.setWidth 16)
  else do
    let (s, t) := s.tagRead loc
    set s
    pure t

/-- What a dispatch has found before it changes anything. -/
structure Disp where
  pkt : Word
  coord : Nat
  op : Nat
  tags : List Nat
  ops : List Word
  meth : Nat
  convs : List Conv
  routine : Word

/-- The conversions of a dispatch in operand order and then step order, with their places in the buffer (R358 step 3). -/
def convList (buf : Word) : List (List Meth) → Nat → List Conv
  | [], _ => []
  | ch :: l, i =>
    let cs := ch.zipIdx.map (fun m =>
      ({ entry := m.1.idx, result := buf + w64 (1024 * nsum ((ch.take m.2).map (·.outg))), outg := m.1.outg, operand := i
         target := m.1.routine, tag := m.1.tags.getD 1 0 } : Conv))
    cs ++ convList (buf + w64 (1024 * nsum (ch.map (·.outg)))) l (i + 1)

/-- Reads and checks a packet, its operands' tags and the table (R358 steps 1 and 2); `opc` is OPCALL's operator. -/
def readPacket (p : Word) (opc : Option Nat) : M Disp := do
  if bits p 5 0 ≠ 0 then trapAt 0x05 p 7 3 else do
    let l ← readDws p 8
    let f := fun (off n : Nat) => dwAt l off n
    let k := f 0xC 1 % 2
    let nops := f 0xD 1
    trapIf (f 0xC 1 / 2 != 0) 0x07
    let target := w64 (f 0 8)
    if k = 0 then do
      trapIf (opc.isSome || bits target 1 0 != 0 || nops != 0 || f 0xE 2 != 0) 0x07
      pure { pkt := p, coord := f 8 4, op := 0, tags := [], ops := [], meth := 0, convs := [], routine := target }
    else do
      let ops := (List.range nops).map (fun i => w64 (f (0x10 + 8 * i) 8))
      let buf := w64 (f 0x38 8)
      trapIf (bits target 63 14 != 0 || nops == 0 || 5 < nops || bits buf 9 0 != 0 || ops.any (fun a => bits a 9 0 != 0 || !isWindow a)) 0x07
      let tags ← ops.mapM (fun a => do
        let t ← readTag a
        trapIf (!bit t 5) 0x1A
        pure t.toNat)
      let s ← get
      let q := s.part (s.dirE s.cur).part
      let table ← readMeths q.methBase 0 q.methCnt
      let op := opc.getD (bits target 13 0)
      match lookup table op (f 0xE 2) tags with
      | .error c => trapC c
      | .ok (m, ch) => pure { pkt := p, coord := f 8 4, op := op, tags := tags, ops := ops, meth := m.idx, convs := convList buf ch 0, routine := m.routine }

/-- Sets s9, s10, … of a context. -/
def Ctx.setArgs (x : Ctx) (l : List Word) : Ctx := l.zipIdx.foldl (fun x e => x.setS (9 + e.2) e.1) x

/-- The start of a conversion or of the routine in an open window (R358): the packet, the arguments, pk1's index and the
task's stage; the pc to go to. -/
def Ctx.startStage (x : Ctx) (t : Task) : Ctx × Word :=
  let (idx, args, target, t) := match t.todo with
    | cv :: rest =>
      (cv.entry, [t.operands.getD cv.operand 0, cv.result, w64 cv.outg], cv.target,
        { t with cur := some cv, todo := rest, inserted := true, chain := rest.map (fun (c : Conv) => c.entry) })
    | [] => (t.meth, t.operands, t.routine, { t with cur := none, inserted := false, chain := [] })
  let x := ((x.setS 15 0).setS 8 t.pkt).setArgs args
  ({ x.csrSet 9 (putBits (x.csrGet 9) 63 48 idx) with task := { t with active := true } }, target)

/-- What CALLW waits for and checks before a window opens (R204). -/
def windowReady : M Unit := do
  let x ← getC
  stallUnless (!x.resultsOut) wReg
  trapIf (x.resident == 4 && !x.canSpill 1) 0x0E
  stallUnless (x.resident < 4) wWindow

/-- Enters the first task of a dispatch (R358). -/
def enterTask (q : Disp) (t : Task) : M Unit := do
  let t := { t with pkt := q.pkt, meth := q.meth, todo := q.convs, operands := q.ops, routine := q.routine }
  let x ← getC
  let tag := fun (i : Nat) => q.tags.getD i 0 % 2 ^ 16
  let x := (((x.openWin.csrSet 8 q.pkt).csrSet 9 (w64 (q.coord + q.op * 2 ^ 32))).csrSet 10
    (w64 (tag 0 + tag 1 * 2 ^ 16 + tag 2 * 2 ^ 32 + tag 3 * 2 ^ 48))).csrSet 11 (w64 (tag 4))
  let (x, target) := x.startStage t
  modC (fun _ => x)
  setNpc target

/-- Marks the traps of a dispatch with the ring and entry that it freezes (R355). -/
def withRing {α : Type} (r : Nat) (e : Word) (body : M α) : M α := fun s =>
  match body s with
  | .error (.trap t) s' => .error (.trap { t with ring := some (r, e) }) s'
  | q => q

/-! ### TASKEND and OPCALL (R354, R359) -/

/-- A conversion's place in a dispatch with the table entry an image names for it. -/
def convAs (table : List Meth) (c : Conv) (idx : Nat) : Conv :=
  match table.find? (fun m => m.idx == idx) with
  | some m => { c with entry := idx, target := m.routine, outg := m.outg, tag := m.tags.getD 1 0 }
  | none => { c with entry := idx }

/-- A task that came from an image with nothing kept beside it, found again from its packet, the tags in pk2 and pk3, the method table,
METH, NINS and CHAIN, and the OPCALL at OPCPC (R349, R358, log 12). -/
def rebuildTask (x : Ctx) : M Task := do
  let t := x.task
  let l ← readDws t.pkt 8
  let n := dwAt l 0xD 1
  let s ← get
  let q := s.part (s.dirE s.cur).part
  let table ← if n = 0 then pure [] else readMeths q.methBase 0 q.methCnt
  let rd ← if t.opcall then do
      let w ← readDws (t.opcPc &&& ~~~7) 1
      pure (match decode (BitVec.ofNat 32 (w.headD 0 >>> (8 * (t.opcPc.toNat % 8)))) with | .instr (.opcall d _ _) => d.toNat | _ => 0)
    else pure 0
  let ops := (List.range n).map (fun i => w64 (dwAt l (0x10 + 8 * i) 8))
  let tags := ((List.range 4).map (fun i => bits (x.csrGet 10) (16 * i + 15) (16 * i)) ++ [bits (x.csrGet 11) 15 0]).take n
  let meth := table.find? (fun m => m.idx == t.meth)
  let all := match meth with
    | some m => convList (w64 (dwAt l 0x38 8)) ((chainsOf (convsOf table) m 2 tags).getD []) 0
    | none => []
  let left := t.chain.length
  let todo := ((all.drop (all.length - left)).zip t.chain).map (fun e => convAs table e.1 e.2)
  let idx := bits (x.csrGet 9) 63 48
  let inserted := n != 0 && idx != t.meth
  let before := all.length - left - b2n inserted
  let cur := if inserted then all[before]?.map (fun c => convAs table c idx) else none
  pure { t with
    lost := false, opcRd := rd, inserted := inserted, cur := cur, todo := todo, routine := (meth.map (·.routine)).getD 0
    operands := (all.take before).foldl (fun o c => lset o c.operand c.result) ops }

/-- The end of a task: the result tags of a conversion, the window, then what comes next. -/
def endTask : M Unit := do
  let x ← getC
  let t ← if x.task.lost then rebuildTask x else pure x.task
  match t.cur with
  | some cv => (List.range cv.outg).forM (fun g => do
      let q ← readTag (cv.result + w64 (1024 * g))
      trapIf (q.toNat != cv.tag) 0x19)
  | none => pure ()
  stallUnless (!x.resultsOut) wReg
  if x.wins.isEmpty then do
    trapIf (x.depth == 0) 0x0F
    fillWait
  else do
    let ops := match t.cur with | some cv => lset t.operands cv.operand cv.result | none => t.operands
    let x := x.closeWin
    match t.cur with
    | some _ => do
      let (y, target) := x.openWin.startStage { t with operands := ops }
      modC (fun _ => y)
      setNpc target
    | none => do
      modC (fun _ => { x with task := {} })
      if t.opcall then do
        modC (fun y => y.setS t.opcRd (w64 t.meth))
        setNpc (t.opcPc + 4)
      else setNpc x.pc

def execTaskend (a : BitVec 5) (s : State) :=
  runInstr (.taskend a) (do
    let x ← getC
    if x.task.active then endTask else do
      let v ← rdS a
      let s ← get
      let u := s.unitOf s.cur
      let r := s.ring u v.toNat
      trapIf (bits v 63 3 != 0 || !r.usable (s.dirE s.cur).part) 0x06
      trapIf r.frozen 0x1C
      let n := v.toNat
      match r.q with
      | [] => parkSync wRing
      | e :: _ =>
        let popped := fun (s : State) => s.ringPop u n
        if e = 0 then modify popped
        else withRing n e (do
          let q ← readPacket (e &&& ~~~1) none
          windowReady
          modify popped
          enterTask q { ring := n, mov := bit e 0 })) s

def execOpcall (d a : BitVec 5) (o : BitVec 14) (s : State) :=
  runInstr (.opcall d a o) (do
    let x ← getC
    trapIf x.task.active 0x07
    needD d
    let p ← rdS a
    let q ← readPacket p (some o.toNat)
    windowReady
    enterTask q { opcall := true, opcPc := x.pc, opcRd := d.toNat }) s

/-! ### Load balancing (R360) -/

/-- A logical unit of a partition that names a physical unit. DESIGN CHOICE: the lowest where several do (log 60). -/
def State.lunitOf (s : State) (p u : Nat) : Nat := ((List.range 512).find? (fun n => s.lumRes p n == .to u)).getD 0

/-- A moved entry: a packet in window 0x1 is named from afar (R360). -/
def movedEntry (lunit : Nat) (e : Word) : Word :=
  if isWindow e && bits e 47 44 == 1 then w64 (0xFFFF400000000000 + lunit * 2 ^ 24 + bits e 18 0) else e

/-- Splits the last `n` movable entries from a ring's entries, which are given last first: those kept and those moved, each
again in order. -/
def takeMovable : List Word → Nat → List Word × List Word
  | [], _ => ([], [])
  | l, 0 => (l.reverse, [])
  | e :: l, n + 1 =>
    if bit e 0 then let (k, m) := takeMovable l n; (k, m ++ [e])
    else let (k, m) := takeMovable l (n + 1); (k ++ [e], m)

/-- Moves entries of one ring towards one neighbour (R360). -/
def State.balance (s : State) (u r dir : Nat) : State :=
  let x := s.ring u r
  match neighbour u dir, mfind x.seen dir with
  | some v, some d' =>
    let y := s.ring v r
    let d := x.q.length
    if isCroft u != isCroft v || x.thr = 0 || x.frozen || y.frozen || y.owner.isNone || y.part != x.part || d ≤ d' + x.thr then s
    else
      let n := min (min ((d - d') / 2) 16) (ringCap - y.q.length)
      let (k, m) := takeMovable x.q.reverse n
      let lu := s.lunitOf x.part u
      (((s.setRing u r { x with q := k }).setRing v r { y with q := y.q ++ m.map (movedEntry lu) }).ringEvent v r |>.wakeUnit v).wakeUnit u
  | _, _ => s

/-- Reports a ring's depth to a neighbour (R360). -/
def State.report (s : State) (u r dir : Nat) : State :=
  let x := s.ring u r
  match neighbour u dir with
  | some v =>
    if isCroft u != isCroft v || x.thr = 0 then s
    else
      let y := s.ring v r
      if y.part = x.part then s.setRing v r { y with seen := mset y.seen (opposite dir) x.q.length } else s
  | none => s

/-- LOAD_BALANCE (R360): every 512 cycles of a unit, its reports and its moves. -/
def execLoadBalance (s : State) :=
  runEvent (do
    let s ← get
    let u := s.arg.n0
    exists_ (u < 260)
    enabled ((s.unit u).balanced + 512 ≤ (s.unit u).cyc && (isCroft u || s.acreOn))
    let pairs := (List.range 8).flatMap (fun r => (List.range 4).map (fun d => (r, d)))
    let s := pairs.foldl (fun s p => s.report u p.1 p.2) s
    let s := pairs.foldl (fun s p => s.balance u p.1 p.2) s
    set (s.modUnit u (fun x => { x with balanced := x.cyc - x.cyc % 512 }))) s

end Sys2Proof.Machine
end

