-- ==== Sys2Proof/Machine/RegWrite.lean ====
section
/-! DEFINITION. Writes of the register blocks (R7, R27, R36, R37 and the rules of each register): the fields a rule makes
writable change, every other write is ignored. -/

namespace Sys2Proof.Machine

/-- A write in a partition's register block (R46, R53, R177, R324, R342, R356, R389). -/
def State.partWrite (s : State) (p off : Nat) (v : Word) : State :=
  match off with
  | 0x400 => s.modPart p (fun x => { x with astBase := v })
  | 0x408 => s.modPart p (fun x => { x with xltva := v &&& ~~~0xFFF })
  | 0x410 => s.xltinvWrite p v
  | 0x600 => s.keyLow p v
  | 0x608 => s.keyHigh p v
  | 0x800 => s.launchqWrite p v
  | 0x808 => s.modPart p (fun x => { x with lOvf := x.lOvf && !bit v 1, lFail := x.lFail && !bit v 0 })
  | 0x810 => s.modPart p (fun x => { x with methBase := v &&& ~~~0x1F })
  | 0x818 => s.modPart p (fun x => { x with methCnt := bits v 15 0 })
  | 0x820 => s.modPart p (fun x => if 2 ^ 63 ≤ x.grpKill then x else { x with grpKill := (v &&& 0x800000000000FFFF).toNat })
  | 0x828 => s.resumeqWrite p v
  | 0x830 => s.modPart p (fun x => { x with rOvf := x.rOvf && !bit v 1, rFail := x.rFail && !bit v 0 })
  | _ => s

/-- A write among the registers of a cluster's management core (R370). -/
def State.cmcWrite (s : State) (cl r : Nat) (v : Word) : State :=
  match r with
  | 0x00 => s.ctxCmdWrite cl v
  | 0x08 => s.modCluster cl (fun x => { x with ctxPc := v })
  | 0x18 => s.tmbHeadWrite cl v
  | 0x28 => s.tmbFreeWrite cl v
  | _ => s

/-- A write of a unit's scheduling registers (R329, R331). -/
def State.schedWrite (s : State) (u r : Nat) (v : Word) : State :=
  if r = 0 then s.rotWrite u v else if r = 8 then s.slotcfgWrite u v else s.callsCroft u

/-- A write of SLEW (R401): mode 3 makes it ignored. -/
def State.slewWrite (s : State) (v : Word) : State := if bits v 33 32 = 3 then s else { s with slew := v &&& 0x300FFFFFF }

/-- A write in the device register block. -/
def State.devWrite (s : State) (off : Nat) (v : Word) : State :=
  if off % 8 ≠ 0 then s
  else if 0x300000 ≤ off ∧ off < 0x310000 then s.lumWrite ((off - 0x300000) / 0x1000) (off % 0x1000 / 8) v
  else if 0x220000 ≤ off ∧ off < 0x220000 + 17 * 0x40 then s.cmcWrite ((off - 0x220000) / 0x40) (off % 0x40) v
  else if 0x200000 ≤ off ∧ off < 0x200000 + 260 * 0x40 then s.schedWrite ((off - 0x200000) / 0x40) (off % 0x40) v
  else if 0x210000 ≤ off ∧ off < 0x210080 then s.modPart ((off - 0x210000) / 8) (fun x => { x with budget := v })
  else if 0x10000 ≤ off ∧ off < 0x14000 then s.sharingWrite off v
  else if 0x240100 ≤ off ∧ off < 0x240180 then s.pspatWrite ((off - 0x240100) / 8) v
  else if 0x240200 ≤ off ∧ off < 0x240280 then s.lendWrite ((off - 0x240200) / 8) v
  else if 0x240600 ≤ off ∧ off < 0x240620 then { s with cascDst := mset s.cascDst ((off - 0x240600) / 8) (v &&& 0x80000000000001FF) }
  else if 0x242000 ≤ off ∧ off < 0x244000 then s.retWrite off v
  else if 0x250000 ≤ off ∧ off < 0x250080 then s.partctlWrite ((off - 0x250000) / 8) v
  else match off with
    | 0x200 => s.mempwrWrite v
    | 0x240000 => s.islctlWrite v
    | 0x240018 => s.croftctlWrite v
    | 0x240300 => s.slewWrite v
    | 0x240308 => { s with phase0 := v }
    | 0x240310 => { s with phase1 := v }
    | 0x240400 => s.thermWrite v
    | 0x240500 => s.migreqWrite v
    | 0x240508 => { s with migTmo := bits v 31 0 }
    | 0x260000 => { s with linkcfg := (v &&& 0xFF00FF07) ||| (s.linkcfg &&& 0xF0000) }
    | 0x260008 => { s with lroute := v &&& 0xFFFFFFFF }
    | _ => s

/-- A 64-bit write of a register block by physical address (R36, R37). -/
def State.regWrite (s : State) (pa : Nat) (v : Word) : State :=
  if pa < 0x7F0001000000 then s.partWrite ((pa - 0x7F0000000000) / 0x100000) (pa % 0x100000) v
  else s.devWrite (pa - 0x7F0001000000) v

/-- REGISTER_WRITE (R7): block 0 to 15 is a partition's, 16 the device's. -/
def execRegisterWrite (s : State) :=
  runOpen (do
    let s ← get
    exists_ (s.arg.n0 < 17)
    enabled s.power
    set (if s.arg.n0 < 16 then s.partWrite s.arg.n0 s.arg.n1 s.arg.v else s.devWrite s.arg.n1 s.arg.v)) s

/-- HOST_WRITE (R58, R416): device DRAM, or a register through a function's BAR; the host's writes to its own memory have
their data effect alone (R59). -/
def execHostWrite (s : State) :=
  runEvent (do
    let s ← get
    let a := s.arg.n0
    let n := s.arg.data.length
    enabled (s.pfOpen && n != 0)
    if isRegBlock a then do
      enabled (a % 8 == 0 && n == 8)
      set (s.regWrite a (w64 (ofBytes s.arg.data)))
    else if isHostPa a && isHostPa (a + n - 1) then set { s with mem := memWrite s.mem a s.arg.data }
    else do
      enabled (populated (a + n - 1))
      set (s.hostStore a s.arg.data)) s

end Sys2Proof.Machine
end

