-- ==== Sys2Proof/Machine/Perform.lean ====
section
/-! DEFINITION. Stores on their way (R209 to R211, R304, R309 to R311), load-data arrivals (R212), wait-list retries (R214), remote
accesses (R114), bridge holds (R19), failing links (R384, R423) and accesses of linked devices (R422). -/

namespace Sys2Proof.Machine

/-! ### Stores -/

/-- A store of a unit's buffer. -/
def theStore : M (Nat × Store) := do
  let s ← get
  exists_ (s.arg.n0 < 260)
  match (s.unit s.arg.n0).sb[s.arg.n1]? with
  | some e => pure (s.arg.n0, e)
  | none => stall 0

/-- Replaces a store of a unit's buffer. -/
def State.putStore (s : State) (u : Nat) (e : Store) : State :=
  s.modUnit u (fun x => { x with sb := x.sb.map (fun f => if f.id = e.id then e else f) })

/-- Removes a store from a unit's buffer; what waited for it may go on. -/
def State.dropStore (s : State) (u : Nat) (e : Store) : State :=
  ((s.dropRequest e.id).modUnit u (fun x => { x with sb := x.sb.filter (fun f => f.id != e.id) })).unpark e.ctx

/-- STORE_RESOLVE (R210, R211): a store whose page's walk is to come stays unresolved (R52). -/
def execStoreResolve (s : State) :=
  runEvent (do
    let (u, e) ← theStore
    enabled (e.rs == 0)
    let s ← get
    let (e', s') := s.resolveStore e false
    set (s'.putStore u e')) s

/-- Writes one piece at its home: data or VSCADD's sum, full/empty and tag effects (R123, R209, R213, R244). What sleeps there wakes,
and the host's copies of the line go (R57, R391, R396). -/
def State.putPiece (s : State) (e : Store) (p : Piece) : State :=
  if isRegBlock p.loc then s.regWrite p.loc (w64 p.data) else
  let s := s.rouse p.loc
  let v := match p.add with
    | some ty => scaddNew ty p.n (s.peek p.loc p.n) p.data
    | none => p.data
  let s := s.pokeBytes p.loc (toBytes p.n v)
  let s := if e.keepTag then s else (rangeFrom (p.loc / 1024) ((p.loc + p.n - 1) / 1024 + 1 - p.loc / 1024)).foldl (fun s g => s.clearV (g * 1024)) s
  if e.setFull then s.feChange p.loc true else s

/-- The bytes a store writes, by aligned 1 KiB: its pieces together decide which bursts and words it writes whole (R34, R117). -/
def Store.covers (e : Store) : Map (BitVec 1024) := coverage (e.pieces.map (fun p => { loc := p.loc, n := p.n, data := 0 }))

/-- The first piece of a store that writes a part of an uncorrectable burst (R34). -/
def State.partPiece (s : State) (e : Store) : Option Piece :=
  let cov := e.covers
  e.pieces.find? (fun p => isDram p.loc && s.errAt p.loc == 2 && !coversAll (mget cov (p.loc / 1024) 0) (p.loc % 1024 / 32 * 32) 32)

/-- Bursts and scratchpad words that a store has written whole hold no error any more (R34, R117). -/
def State.settleStore (s : State) (e : Store) : State :=
  e.covers.foldl (fun s c =>
    let a := c.1 * 1024
    let full := fun (k : Nat) => if isDram a then coversAll c.2 ((8 * k - a) / 32 * 32) 32 else coversAll c.2 (8 * k - a) 8
    let s := if isDram a then s.mend (((List.range 32).filter (fun b => coversAll c.2 (32 * b) 32)).map (a / 32 + ·)) else s
    { s with memErr := s.memErr.filter (fun q => !(a ≤ 8 * q.1 && 8 * q.1 < a + 1024 && full q.1)) }) s

/-- Whether a store may be performed now: resolved, with its data, and nothing that must come before it is pending (R309, R311); a
release orders nothing while its scope holds no other agent (R313). -/
def State.mayPerform (s : State) (u : Nat) (e : Store) : Bool :=
  let e := if e.rel && s.scopeAlone u e.ctx e.sc then { e with rel := false } else e
  e.rs == 1 && e.data && !(s.unit u).sb.any (fun f => f.precedes e) && !s.ldqHolds e

/-- STORE_PERFORM (R305, R309): the store is performed at its home, or fails there. A partial write of an uncorrectable burst is
made, and leaves a record of cause 0x43 behind (R34); what its reads find correctable is corrected (R33); to a sleeping Acre its request is
held at the bridge (R19); a VSCADD's element whose old value cannot be read is not written (R33, R117).
DESIGN CHOICE: a VSCADD adds duplicates in ascending element number (R107, R244 leave the order open, log 62), and a vector store's
elements are performed in one step (R243 promises no atomicity beyond an element, log 63). -/
def execStorePerform (s : State) :=
  runEvent (do
    let (u, e) ← theStore
    let s ← get
    enabled (s.powered u && s.mayPerform u e)
    match e.pieces.find? (fun p => isCroft u && !s.acreOn && isAcrePad p.loc) with
    | some p => set (s.holdRequest u p.loc e.id)
    | none =>
      match e.pieces.find? (fun p => s.cutOff u p.loc) with
      | some p => set ((s.dropRequest e.id).putStore u (e.fail 0x46 7 p.va))
      | none => do
        enabled (e.pieces.all (fun p => s.meshOpen u p.loc e.id))
        let cov := e.covers
        let reads := e.pieces.filter (fun p => p.add.isSome || (isDram p.loc && !coversAll (mget cov (p.loc / 1024) 0) (p.loc % 1024 / 32 * 32) 32))
        let s := reads.foldl (fun s p => ((s.rouse p.loc).touch p.loc).correct u p.loc p.n) s
        let unread := fun (p : Piece) => p.add.isSome && s.readErr p.loc p.n != 0
        let bad := match e.pieces.find? unread with
          | some p => some (s.readErr p.loc p.n, p.va)
          | none => (s.partPiece e).map (fun p => (0x43, p.va))
        let e' := { e with pieces := e.pieces.filter (fun p => !unread p) }
        let s := (e'.pieces.foldl (fun s p => s.putPiece e p) s).settleStore e'
        set (match bad with
          | some (c, va) => (s.dropRequest e.id).putStore u (e.fail c 7 va)
          | none => s.dropStore u e)) s

/-- The record of a failed store (R211, R364): vector and accumulator stores give no data. -/
def Store.record (e : Store) : Rec :=
  { ctx := e.ctx, cause := 0x10, kind := 1, orig := e.cause, size := e.size, level := e.level, pc := e.pc, addr := e.fva, inH := e.inH, no := e.id
    data := if e.size < 4 then w64 ((e.pieces.head?.map (·.data)).getD 0) else 0 }

/-- STORE_FAULT_RECORD (R211): the record enters the queue when it has room; one of a context that was reset is discarded
(R342). -/
def execStoreFaultRecord (s : State) :=
  runEvent (do
    let (u, e) ← theStore
    let s ← get
    enabled (e.rs == 2)
    if 65536 ≤ e.ctx then set (s.dropStore u e) else do
      enabled (s.canPost e.ctx)
      set ((s.dropStore u e).post e.record)) s

/-! ### The load-data queue (R212) -/

/-- Whether a queued load is held: an earlier store of its context is not resolved, has .ar and is not performed, or is a vector store
to its bytes (R245, R303, R311); a FENCE before it waits (R312, R313); or a sibling's store to its word that the context has read is
pending (R304). -/
def State.ldqHeld (s : State) (c : Nat) (e : LdqEnt) : Bool :=
  let u := s.unitOf c
  (s.unit u).sb.any (fun f => f.ctx == c && f.id < e.id &&
      (f.rs == 0 || (f.rs == 1 && ((f.ar && !s.scopeAlone u c f.sc) ||
        (f.meets e.loc 8 && (!f.data || f.size == 4 || f.pieces.any (fun p => p.add.isSome))))))) ||
    (s.dirE c).fenced.any (fun f => f.2 ≤ e.id && !s.scopeAlone u c f.1 && s.pendingBefore c f.2) ||
    s.sibHolds c e.loc 8

/-- The read of a queued load: own pending stores, else the home (R306). A link that has failed on its way gives cause 0x46 (R384). -/
def State.ldqRead (s : State) (c : Nat) (e : LdqEnt) : Option (State × LdqEnt) :=
  let u := s.unitOf c
  if s.ldqHeld c e then none else
  if s.cutOff u e.loc then some (s, { e with arrived := true, mark := 0x46 }) else
  let mine := (s.unit u).sb.filter (fun f => f.ctx == c && f.rs == 1 && f.data && !f.pieces.any (fun p => p.add.isSome) && f.meets e.loc 8)
  let s := ((s.rouse e.loc).touch e.loc).correct u e.loc 8
  let covered := mine.any (fun f => f.pieces.any (fun p => p.loc ≤ e.loc && e.loc + 8 ≤ p.loc + p.n))
  let err := s.readErr e.loc 8
  if err ≠ 0 ∧ covered = false then some (s, { e with arrived := true, mark := err })
  else some (s, { e with arrived := true, val := w64 (ofBytes (overlay e.loc mine (memRead s.mem e.loc 8))) })

/-- Puts an arrived entry in its place. -/
def Port.arrive (q : Port) (e : LdqEnt) : Port := { q with ldq := q.ldq.map (fun f => if f.id = e.id then e else f) }

/-- LDQ_ENTRY_ARRIVAL (R212): the oldest entry of a port not yet arrived; a request to a sleeping Acre is held at the bridge (R19). -/
def execLdqEntryArrival (s : State) :=
  runEvent (do
    let s ← get
    let c := s.arg.n0
    let u := s.unitOf c
    enabled (s.live c && (mfind s.ctxs c).isSome && s.powered u)
    let q := mget (s.ctx c).ports s.arg.n1 {}
    match q.ldq.find? (fun e => !e.arrived) with
    | none => stall 0
    | some e =>
      if isCroft u && !s.acreOn && isAcrePad e.loc then set (s.holdRequest u e.loc e.id) else do
      enabled (s.meshOpen u e.loc e.id && (!isRemote u e.loc || s.pathClear (homeUnit u e.loc) u true))
      match s.ldqRead c e with
      | some (s, e) => set (((s.dropRequest e.id).modCtx c (fun x => { x with ports := mset x.ports s.arg.n1 (q.arrive e) })).unpark c)
      | none => stall 0) s

/-! ### Wait lists and remote accesses (R114, R214, R215) -/

/-- A request as its end sees it: STEF has no result register. -/
def MemReq.ending (r : MemReq) : MemReq :=
  match r.op with
  | .stef => { r with rd := 0 }
  | _ => r

/-- WAIT_ENTRY_RETRY (R214): a refused request comes to its home again. -/
def execWaitEntryRetry (s : State) :=
  runEvent (do
    let s ← get
    match s.waits[s.arg.n0]? with
    | some e => do
      enabled (e.refused && !e.watch && (s.acreOn || !isAcrePad e.req.loc))
      let s0 : State := { s with waits := ldel s.waits s.arg.n0 }
      match s0.atHome (s.reqUnit e.req) e.req with
      | .done s1 v => set (s1.finishReq e.req.ending v)
      | .cause s1 n => set (s1.trapReq e.req (e.req.trap n))
      | .wait s1 => set (s1.joinWait e.req)
    | none => stall 0) s

/-- REMOTE_WINDOW_ACCESS (R114): the access is performed as if made locally, its answer comes back behind the responses before it (R15),
and the request of a store or queued load that no longer stands goes. A decrement that finds the ring full waits at the home
(R352). -/
def execRemoteWindowAccess (s : State) :=
  runEvent (do
    let s ← get
    match s.pkts[s.arg.n0]? with
    | none => stall 0
    | some p =>
      match p.body with
      | .access r => do
        enabled (s.mayArrive s.arg.n0 p)
        let s0 := ({ s with pkts := ldel s.pkts s.arg.n0 } : State).wakeGated p.dst
        let inTask := (s.ctx r.ctx).task.active
        match r.op with
        | .dcnt =>
          match s0.dcntHome r.loc r.data.toNat (s.dirE r.ctx).part with
          | .done s' v => set (s'.finishReq r v)
          | .cause s' n => set (s'.trapReq r (r.trap n))
          | .wait _ => if inTask then set (s0.trapReq r { cause := 0x18 }) else keepAt s.arg.n0 p
        | _ =>
          match s0.atHome p.dst r with
          | .done s' v => set (s'.finishReq r.ending v)
          | .cause s' n => set (s'.trapReq r (r.trap n))
          | .wait s' => set (if inTask then s'.trapReq r { cause := 0x18 } else s'.joinWait r)
      | .answer r v n => do
        enabled (s.mayArrive s.arg.n0 p)
        let s0 : State := { s with pkts := ldel s.pkts s.arg.n0 }
        set (if n = 0 then s0.endReq r v else s0.endTrap r (r.trap n))
      | .request id => do
        enabled (s.mayArrive s.arg.n0 p && !s.requestLive id)
        set { s with pkts := ldel s.pkts s.arg.n0 }
      | _ => stall 0) s

/-- BRIDGE_HOLD (R19): a packet from Croft for a sleeping Acre is held, sixteen to a link, and asks for a wake (R394). Packets of one
source, destination and class are held in their order (R15). -/
def execBridgeHold (s : State) :=
  runEvent (do
    let s ← get
    match s.pkts[s.arg.n0]? with
    | some p => do
      let onWay := fun (q : Pkt) => q.toAcre && !q.held && !q.arrived && q.way == .to
      enabled (onWay p && !s.acreOn && !s.bridgeFull p.src p.dst)
      enabled (!(s.pkts.take s.arg.n0).any (fun q => onWay q && q.src == p.src && q.dst == p.dst && q.body.isResponse == p.body.isResponse))
      set ({ s with ids := s.ids + 1, pkts := lset s.pkts s.arg.n0 { p with held := true, heldAt := s.ids + 1 } } : State).wakeAcre
    | none => stall 0) s

/-! ### Failing links (R384, R423) -/

/-- Ends the blocking accesses a failed link cuts off: each context issues its instruction again, which then takes cause
0x46. -/
def State.cutAccesses (s : State) : State :=
  let gone := (s.pkts.filterMap (fun p => match p.body with | .access r => if s.pathBad p.src p.dst then some r.ctx else none | _ => none)) ++
    (s.waits.filter (fun w => w.req.ctx < 65536 && !w.watch && s.cutOff (s.unitOf w.req.ctx) w.req.loc)).map (·.req.ctx)
  gone.foldl (fun s c => (s.withdraw c).modCtx c (fun x => { x with wait := none })) s

/-- Whether two units are joined by a mesh or bridge link. -/
def linked (a b : Nat) : Bool := a < 260 && b < 260 && (List.range 4).any (fun d => neighbour a d == some b)

/-- MESH_LINK_FAILURE (R384). -/
def execMeshLinkFailure (s : State) :=
  runEvent (do
    let s ← get
    let a := s.arg.n0
    let b := s.arg.n1
    let l := (min a b, max a b)
    exists_ (linked a b)
    enabled (!s.badLinks.contains l)
    let s : State := { s with badLinks := s.badLinks ++ [l] }
    let s := s.logR (clusterOf a) 0x46 0
    let s := if clusterOf b = clusterOf a then s else s.logR (clusterOf b) 0x46 0
    set s.cutAccesses) s

/-- LINK_PORT_FAILURE (R423): the port's PUP bit clears, the record goes to Croft's management core, and accesses on their way fail
(R384). -/
def execLinkPortFailure (s : State) :=
  runEvent (do
    let s ← get
    let n := s.arg.n0
    exists_ (n < 4)
    enabled (bit s.linkcfg (16 + n))
    set (({ s with linkcfg := putBit s.linkcfg (16 + n) false } : State).logR 16 0x46 0).cutAccesses) s

/-! ### Linked devices (R422) -/

/-- The number under which a linked device's requests stand in wait lists. -/
def peerCtx (d : Nat) : Nat := (d + 1) * 65536

/-- The operation of an aperture access at its home. -/
def apertureReq (d pa n : Nat) (op : ApertureOp) (v w : Word) : Option MemReq :=
  let r : MemReq := { ctx := peerCtx d, loc := pa, op := .load n false, data := v, cmp := w }
  match op with
  | .read => some r
  | .ldfe => some { r with op := .ldfe }
  | .ldff => some { r with op := .ldff }
  | .stef => some { r with op := .stef }
  | .amo a => some { r with op := .amo a n }
  | .write => none
  | .stff => none

/-- A linked device, or a device beyond it, changes bytes of its own DRAM, and where told a word's full/empty bit (R422, log 15). -/
def State.peerStore (s : State) (a : Nat) (l : List Byte) (fe : Option Bool) : State :=
  if l.isEmpty || !isPeer a || !isPeer (a + l.length - 1) then s else
  let s := s.pokeRun a l
  match fe with
  | some b => s.feChange a b
  | none => s

/-- APERTURE_ACCESS (R422): an admitted device's access is performed as on device DRAM, its answer sent back, and with it whether it
met an uncorrectable burst (R33, R34); a false condition waits in the word's list. -/
def execApertureAccess (s : State) :=
  runEvent (do
    let s ← get
    let d := s.arg.n0
    let pa := s.arg.n1
    let n := s.arg.n2
    exists_ (d < 8 && d != s.devNo)
    enabled (s.power && bit s.linkcfg (8 + d) && (n == 1 || n == 2 || n == 4 || n == 8) && pa % n == 0 && populated (pa + n - 1))
    match apertureReq d pa n s.arg.op s.arg.v s.arg.w with
    | some r =>
      match s.atHome 256 r with
      | .done s' v => set { s' with reply := toBytes n v.toNat, replyBad := false }
      | .cause s' n => set (s'.trapReq r { cause := n })
      | .wait s' => set (s'.joinWait r)
    | none => do
      let bad := s.poisoned pa
      let s := ((s.touch pa).correct 256 pa n).pokeBytes pa (toBytes n s.arg.v.toNat)
      let s := if s.arg.op = .stff then s.feChange pa true else s
      set { s with reply := [], replyBad := bad }) s

end Sys2Proof.Machine
end

