-- ==== Sys2Proof/Machine/VecMem.lean ====
section
/-! DEFINITION. Vector and mask memory instructions (R242 to R246) and the memory forms of ALD and AST (R262). -/

namespace Sys2Proof.Machine

/-- Resolution of one element address (R243): alignment has been checked; a register block is cause 0x05. -/
def vhome (va : Word) (k : Acc) (n : Nat) : M Nat := do
  let loc ← home va k n false
  if isRegBlock loc then trapAt 0x05 va 7 (Nat.log2 n) else pure loc

/-- Resolution of a list of element addresses, in order (R243). -/
def vhomes (k : Acc) (n : Nat) : List Word → M (List (Word × Nat))
  | [] => pure []
  | va :: l => do
    let loc ← vhome va k n
    let r ← vhomes k n l
    pure ((va, loc) :: r)

/-- A base, sum or stride must be a multiple of the element size (R242). DESIGN CHOICE: the record of a misaligned stride gives the
stride register's value as its ADDR, no address having been formed (log 71). -/
def vAligned (v : Word) (n : Nat) : M Unit := if v.toNat % n = 0 then pure () else trapAt 0x05 v 7 (Nat.log2 n)

/-- The elements of a group that a mask makes active (R223). -/
def Ctx.activeElts (x : Ctx) (k n : Nat) : List Nat := (List.range n).filter (fun e => activeE (x.k k) e)

/-- Reads resolved elements of `n` bytes in order (R243, R306). DESIGN CHOICE: all that are near in one step, those of other
units' scratchpads one after another over the mesh before it (R114, R243, log 63). `plain` lets a sibling's pending store be read
(R306). -/
def vreads (n : Nat) (plain : Bool) : List (Word × Nat) → M (List Nat)
  | [] => pure []
  | (va, loc) :: l => do
    let bs ← readLocal va loc n plain
    let r ← vreads n plain l
    pure (ofBytes bs :: r)

/-- Writes the elements a load read, each under its number, into a group; the registers become full (R224). -/
def Ctx.loadGroup (x : Ctx) (d w n : Nat) (vals : List (Nat × Nat)) : Ctx :=
  x.putGroup d w ((List.range n).map (fun e => mget vals e (x.elt d w e)))

/-- A load of the elements of a group from given addresses (R243). -/
def vload (d : BitVec 5) (k : BitVec 3) (g : BitVec 2) (t : BitVec 3) (addr : Nat → Word) : M Unit := do
  let w := tyWidth t
  let n := groupOf g * lanes w
  maskCheck k.toNat
  let x ← getC
  let es := x.activeElts k.toNat n
  let locs ← vhomes accR (w / 8) (es.map addr)
  let vals ← vreads (w / 8) true locs
  modC (fun x => x.loadGroup d.toNat w n (es.zip vals))

/-- Enters a vector store (R243): its pieces, each with the number of its element until the data are taken at the head. -/
def vstore (sc : List Word) (ps : List (Nat × Word × Nat)) (w : Nat) (keep : Bool) (add : Option Nat) (bad : BitVec 256) : M Unit := do
  let x ← getC
  stallUnless (x.nextWide.isSome || x.dq.length < 4) wDispatch
  let n ← enterStore
    { id := 0, ctx := 0, pc := 0, size := 4, keepTag := keep, rs := 1, data := false
      pieces := ps.map (fun p => { va := p.2.1, loc := p.2.2, n := w / 8, data := p.1, add := add }) }
  let s ← get
  modC (fun x => match x.nextWide with
    | some (e, i) => { x with dq := x.dq.set i { e with store := some n, bad := bad } }
    | none => { x with dq := x.dq ++ [{ word := s.insn, pc := x.pc, scalars := sc, store := some n, fmt := x.fmt, bad := bad }] })

/-- Waits at issue for the mask and the registers that resolution needs, which are checked at this read (R243, R383). -/
def needWide (k : Nat) (regs : List Nat) : M Unit := do
  let x ← getC
  stallUnless (!x.dqWrites k regs && regs.all (fun v => bit x.vFull v)) wDispatch
  maskCheck k
  regs.forM (regCheck 2)

/-- A store of the active elements of a group to given addresses. -/
def vstoreTo (sc : List Word) (k : BitVec 3) (g : BitVec 2) (x : BitVec 1) (t : BitVec 3) (addr : Nat → Word) : M Unit := do
  needWide k.toNat []
  let w := tyWidth t
  let c ← getC
  let es := c.activeElts k.toNat (groupOf g * lanes w)
  let locs ← vhomes accW (w / 8) (es.map addr)
  vstore sc (es.zip locs) w (x.toNat == 1) none 0

/-- The bytes of an element. -/
def eltBytes (t : BitVec 3) : Nat := tyWidth t / 8

def execVld (d a b : BitVec 5) (k : BitVec 3) (g : BitVec 2) (t : BitVec 3) (s : State) :=
  runInstr (.vld d a b k g t) (atHead [a, b] (fun _ => true) (fun l => do
    vAligned (op0 l + op1 l) (eltBytes t)
    vload d k g t (fun e => op0 l + op1 l + w64 (e * eltBytes t)))) s

def execVst (d a b : BitVec 5) (k : BitVec 3) (g : BitVec 2) (x : BitVec 1) (t : BitVec 3) (s : State) :=
  runInstr (.vst d a b k g x t) (do
    let l ← wideScalars [a, b]
    vAligned (op0 l + op1 l) (eltBytes t)
    vstoreTo l k g x t (fun e => op0 l + op1 l + w64 (e * eltBytes t))) s

def execVlds (d a b : BitVec 5) (k : BitVec 3) (g : BitVec 2) (t : BitVec 3) (s : State) :=
  runInstr (.vlds d a b k g t) (atHead [a, b] (fun _ => true) (fun l => do
    vAligned (op0 l) (eltBytes t)
    vAligned (op1 l) (eltBytes t)
    vload d k g t (fun e => op0 l + w64 e * op1 l))) s

def execVsts (d a b : BitVec 5) (k : BitVec 3) (g : BitVec 2) (x : BitVec 1) (t : BitVec 3) (s : State) :=
  runInstr (.vsts d a b k g x t) (do
    let l ← wideScalars [a, b]
    vAligned (op0 l) (eltBytes t)
    vAligned (op1 l) (eltBytes t)
    vstoreTo l k g x t (fun e => op0 l + w64 e * op1 l)) s

/-- Index element `e`, and whether it is bad for a table word (R244). -/
def Ctx.badIndex (x : Ctx) (base w : Nat) (tab : Word) (e : Nat) : Bool :=
  let i := x.elt base w e
  bits tab 31 0 ≤ i || i == 2 ^ w - 1

/-- The mask of bad elements among the active ones. -/
def Ctx.badMask (x : Ctx) (base w : Nat) (tab : Word) (es : List Nat) : BitVec 256 :=
  es.foldl (fun m e => if x.badIndex base w tab e then putBit m (e % 256) true else m) 0

/-- IFM: a bad index of an active element is cause 0x12 (R244). -/
def indexFault (tab : Word) (bad : BitVec 256) : M Unit := trapIf (bit tab 63 && bad != 0) 0x12

/-- VGATH (R244). DESIGN CHOICE: a misaligned base is found before a bad index with IFM = 1; the rule gives no order (log 72). -/
def execVgath (d a b : BitVec 5) (k : BitVec 3) (g : BitVec 2) (t : BitVec 3) (s : State) :=
  runInstr (.vgath d a b k g t) (atHead [a, b] (fun _ => true) (fun l => do
    let base := op0 l
    let tab := op1 l
    let w := tyWidth t
    let n := groupOf g * lanes w
    let ix := d.toNat + groupOf g
    needWide 0 (rangeFrom ix (groupOf g))
    vAligned base (w / 8)
    maskCheck k.toNat
    let x ← getC
    let es := x.activeElts k.toNat n
    let bad := x.badMask ix w tab es
    indexFault tab bad
    let good := es.filter (fun e => !x.badIndex ix w tab e)
    let locs ← vhomes accR (w / 8) (good.map (fun e => base + w64 (x.elt ix w e * (w / 8))))
    let vals ← vreads (w / 8) true locs
    modC (fun x => (x.loadGroup d.toNat w n (good.zip vals ++ es.map (fun e => (e, 0)))).setK k.toNat bad))) s

/-- VSCAT and VSCADD (R244). DESIGN CHOICE: a misaligned base is found before a bad index with IFM = 1; the rule gives no order
(log 72). -/
def scatter (d a b : BitVec 5) (k : BitVec 3) (g : BitVec 2) (xk : BitVec 1) (t : BitVec 3) (acc : Acc) (add : Option Nat) : M Unit := do
  let l ← wideScalars [a, b]
  let base := op0 l
  let tab := op1 l
  let w := tyWidth t
  let ix := d.toNat + groupOf g
  needWide k.toNat (rangeFrom ix (groupOf g))
  vAligned base (w / 8)
  let x ← getC
  let es := x.activeElts k.toNat (groupOf g * lanes w)
  let bad := x.badMask ix w tab es
  indexFault tab bad
  let good := es.filter (fun e => !x.badIndex ix w tab e)
  let locs ← vhomes acc (w / 8) (good.map (fun e => base + w64 (x.elt ix w e * (w / 8))))
  vstore l (good.zip locs) w (xk.toNat == 1) add bad

def execVscat (d a b : BitVec 5) (k : BitVec 3) (g : BitVec 2) (x : BitVec 1) (t : BitVec 3) (s : State) :=
  runInstr (.vscat d a b k g x t) (scatter d a b k g x t accW none) s
def execVscadd (d a b : BitVec 5) (k : BitVec 3) (g : BitVec 2) (x : BitVec 1) (t : BitVec 3) (s : State) :=
  runInstr (.vscadd d a b k g x t) (scatter d a b k g x t accFW (some t.toNat)) s

/-- The four words of a mask image. -/
def maskWords (va : Word) : List Word := (List.range 4).map (fun i => va + w64 (8 * i))

def execKld (d : BitVec 3) (a b : BitVec 5) (s : State) :=
  runInstr (.kld d a b) (atHead [a, b] (fun _ => true) (fun l => do
    vAligned (op0 l + op1 l) 8
    let locs ← vhomes accR 8 (maskWords (op0 l + op1 l))
    let vals ← vreads 8 true locs
    modC (fun c => c.setK d.toNat (BitVec.ofNat 256 (vals.foldr (fun v acc => v + acc <<< 64) 0))))) s

def execKst (d : BitVec 3) (a b : BitVec 5) (x : BitVec 1) (s : State) :=
  runInstr (.kst d a b x) (do
    let l ← wideScalars [a, b]
    vAligned (op0 l + op1 l) 8
    let locs ← vhomes accW 8 (maskWords (op0 l + op1 l))
    vstore l ((List.range 4).zip locs) 64 (x.toNat == 1) none 0) s

/-! ### Accumulator loads and stores (R262) -/

/-- The stride of ALD and AST: 16 elements where the stride register is s0. -/
def accStride (r : BitVec 5) (v : Word) (t : BitVec 3) : Word := if r.toNat = 0 then w64 (16 * eltBytes t) else v

/-- The 256 element addresses of ALD and AST. -/
def accAddrs (base stride : Word) (t : BitVec 3) : List Word :=
  (List.range 256).map (fun e => base + w64 (e / 16) * stride + w64 (e % 16 * eltBytes t))

def execAld (d : BitVec 3) (e a : BitVec 5) (t : BitVec 3) (s : State) :=
  runInstr (.ald d e a t) (atHead [a, e] (fun s => !s.accBusy s.cur d.toNat) (fun l => do
    let base := op0 l
    let stride := accStride e (op1 l) t
    vAligned base (eltBytes t)
    vAligned stride (eltBytes t)
    let s ← get
    stallUnless (!s.accBusy s.cur d.toNat) wEngine
    let locs ← vhomes accR (eltBytes t) (accAddrs base stride t)
    let vals ← vreads (eltBytes t) true locs
    modC (fun x => x.putAcc d.toNat (vals.map (aldElt t.toNat)) (!tyF t.toNat)))) s

def execAldV (d : BitVec 3) (v : BitVec 5) (t : BitVec 3) (s : State) := runInstr (.aldV d v t) (enqueue []) s

def execAst (e : BitVec 5) (c : BitVec 3) (a : BitVec 5) (x k : BitVec 1) (t : BitVec 3) (s : State) :=
  runInstr (.ast e c a x k t) (do
    let l ← wideScalars [a, e]
    let base := op0 l
    let stride := accStride e (op1 l) t
    vAligned base (eltBytes t)
    vAligned stride (eltBytes t)
    let locs ← vhomes accW (eltBytes t) (accAddrs base stride t)
    vstore l ((List.range 256).zip locs) (tyWidth t) (k.toNat == 1) none 0) s

def execAstV (v : BitVec 5) (c : BitVec 3) (x : BitVec 1) (t : BitVec 3) (s : State) := runInstr (.astV v c x t) (enqueue []) s

/-! ### Codebooks (R263) -/

/-- CBLD (R263): its reads are of no kind that a sibling's pending store may answer (R306 item 3). -/
def execCbld (n : BitVec 2) (a : BitVec 5) (s : State) :=
  runInstr (.cbld n a) (atHead [a] (fun _ => true) (fun l => do
    let base := op0 l
    if bits base 4 0 ≠ 0 then trapAt 0x05 base 7 1 else do
      let locs ← vhomes accR 2 ((List.range 16).map (fun c => base + w64 (2 * c)))
      let vals ← vreads 2 false locs
      modC (fun x => { x with cb := mset x.cb n.toNat (BitVec.ofNat 256 (vals.foldr (fun v acc => v + acc <<< 16) 0)) }))) s

end Sys2Proof.Machine
end

