-- ==== Sys2Proof/Machine/Vector.lean ====
section
/-! DEFINITION. Issue of the vector and mask instructions (R166, R167, R229 to R241, R247): each enters its slot's dispatch
queue with the scalars it names; `wideEffect` says what it does at the head. -/

namespace Sys2Proof.Machine


def execVadd (d a b : BitVec 5) (k : BitVec 3) (g : BitVec 2) (sh : BitVec 1) (t : BitVec 3) (s : State) :=
  runInstr (.vadd d a b k g sh t) (enqB b sh) s

def execVsub (d a b : BitVec 5) (k : BitVec 3) (g : BitVec 2) (sh : BitVec 1) (t : BitVec 3) (s : State) :=
  runInstr (.vsub d a b k g sh t) (enqB b sh) s

def execVmul (d a b : BitVec 5) (k : BitVec 3) (g : BitVec 2) (sh : BitVec 1) (t : BitVec 3) (s : State) :=
  runInstr (.vmul d a b k g sh t) (enqB b sh) s

def execVfma (d a b : BitVec 5) (k : BitVec 3) (g : BitVec 2) (sh : BitVec 1) (t : BitVec 3) (s : State) :=
  runInstr (.vfma d a b k g sh t) (enqB b sh) s

def execVfms (d a b : BitVec 5) (k : BitVec 3) (g : BitVec 2) (sh : BitVec 1) (t : BitVec 3) (s : State) :=
  runInstr (.vfms d a b k g sh t) (enqB b sh) s

def execVmin (d a b : BitVec 5) (k : BitVec 3) (g : BitVec 2) (sh : BitVec 1) (t : BitVec 3) (s : State) :=
  runInstr (.vmin d a b k g sh t) (enqB b sh) s

def execVmax (d a b : BitVec 5) (k : BitVec 3) (g : BitVec 2) (sh : BitVec 1) (t : BitVec 3) (s : State) :=
  runInstr (.vmax d a b k g sh t) (enqB b sh) s

def execVdiv (d a b : BitVec 5) (k : BitVec 3) (g : BitVec 2) (sh : BitVec 1) (t : BitVec 3) (s : State) :=
  runInstr (.vdiv d a b k g sh t) (enqB b sh) s

def execVand (d a b : BitVec 5) (k : BitVec 3) (g : BitVec 2) (sh : BitVec 1) (t : BitVec 3) (s : State) :=
  runInstr (.vand d a b k g sh t) (enqB b sh) s

def execVor (d a b : BitVec 5) (k : BitVec 3) (g : BitVec 2) (sh : BitVec 1) (t : BitVec 3) (s : State) :=
  runInstr (.vor d a b k g sh t) (enqB b sh) s

def execVxor (d a b : BitVec 5) (k : BitVec 3) (g : BitVec 2) (sh : BitVec 1) (t : BitVec 3) (s : State) :=
  runInstr (.vxor d a b k g sh t) (enqB b sh) s

def execVshl (d a b : BitVec 5) (k : BitVec 3) (g : BitVec 2) (sh : BitVec 1) (t : BitVec 3) (s : State) :=
  runInstr (.vshl d a b k g sh t) (enqB b sh) s

def execVshr (d a b : BitVec 5) (k : BitVec 3) (g : BitVec 2) (sh : BitVec 1) (t : BitVec 3) (s : State) :=
  runInstr (.vshr d a b k g sh t) (enqB b sh) s

def execVsra (d a b : BitVec 5) (k : BitVec 3) (g : BitVec 2) (sh : BitVec 1) (t : BitVec 3) (s : State) :=
  runInstr (.vsra d a b k g sh t) (enqB b sh) s

def execVsel (d a b : BitVec 5) (k : BitVec 3) (g : BitVec 2) (sh : BitVec 1) (t : BitVec 3) (s : State) :=
  runInstr (.vsel d a b k g sh t) (enqB b sh) s

def execVperm (d a b : BitVec 5) (k : BitVec 3) (g : BitVec 2) (sh : BitVec 1) (t : BitVec 3) (s : State) :=
  runInstr (.vperm d a b k g sh t) (enqB b sh) s

def execVcmpeq (m : BitVec 3) (a b : BitVec 5) (k : BitVec 3) (g : BitVec 2) (sh : BitVec 1) (t : BitVec 3) (s : State) :=
  runInstr (.vcmpeq m a b k g sh t) (enqB b sh) s

def execVcmplt (m : BitVec 3) (a b : BitVec 5) (k : BitVec 3) (g : BitVec 2) (sh : BitVec 1) (t : BitVec 3) (s : State) :=
  runInstr (.vcmplt m a b k g sh t) (enqB b sh) s

def execVcmple (m : BitVec 3) (a b : BitVec 5) (k : BitVec 3) (g : BitVec 2) (sh : BitVec 1) (t : BitVec 3) (s : State) :=
  runInstr (.vcmple m a b k g sh t) (enqB b sh) s

def execVabs (d a : BitVec 5) (k : BitVec 3) (g : BitVec 2) (t : BitVec 3) (s : State) :=
  runInstr (.vabs d a k g t) (enqueue []) s

def execVneg (d a : BitVec 5) (k : BitVec 3) (g : BitVec 2) (t : BitVec 3) (s : State) :=
  runInstr (.vneg d a k g t) (enqueue []) s

def execVsqrt (d a : BitVec 5) (k : BitVec 3) (g : BitVec 2) (t : BitVec 3) (s : State) :=
  runInstr (.vsqrt d a k g t) (enqueue []) s

def execVrsqrt (d a : BitVec 5) (k : BitVec 3) (g : BitVec 2) (t : BitVec 3) (s : State) :=
  runInstr (.vrsqrt d a k g t) (enqueue []) s

def execVrcp (d a : BitVec 5) (k : BitVec 3) (g : BitVec 2) (t : BitVec 3) (s : State) :=
  runInstr (.vrcp d a k g t) (enqueue []) s

def execVexp2 (d a : BitVec 5) (k : BitVec 3) (g : BitVec 2) (t : BitVec 3) (s : State) :=
  runInstr (.vexp2 d a k g t) (enqueue []) s

def execVlog2 (d a : BitVec 5) (k : BitVec 3) (g : BitVec 2) (t : BitVec 3) (s : State) :=
  runInstr (.vlog2 d a k g t) (enqueue []) s

def execVtanh (d a : BitVec 5) (k : BitVec 3) (g : BitVec 2) (t : BitVec 3) (s : State) :=
  runInstr (.vtanh d a k g t) (enqueue []) s

def execVmv (d a : BitVec 5) (k : BitVec 3) (g : BitVec 2) (t : BitVec 3) (s : State) :=
  runInstr (.vmv d a k g t) (enqueue []) s

def execVredsum (d a : BitVec 5) (k : BitVec 3) (g : BitVec 2) (t : BitVec 3) (s : State) :=
  runInstr (.vredsum d a k g t) (enqResult d) s

def execVredmax (d a : BitVec 5) (k : BitVec 3) (g : BitVec 2) (t : BitVec 3) (s : State) :=
  runInstr (.vredmax d a k g t) (enqResult d) s

def execVredmin (d a : BitVec 5) (k : BitVec 3) (g : BitVec 2) (t : BitVec 3) (s : State) :=
  runInstr (.vredmin d a k g t) (enqResult d) s

def execVargmax (d a : BitVec 5) (k : BitVec 3) (g : BitVec 2) (t : BitVec 3) (s : State) :=
  runInstr (.vargmax d a k g t) (enqResult d) s

def execVslideu (d a : BitVec 5) (k : BitVec 3) (g : BitVec 2) (t : BitVec 3) (i : BitVec 6) (s : State) :=
  runInstr (.vslideu d a k g t i) (enqueue []) s

def execVslided (d a : BitVec 5) (k : BitVec 3) (g : BitVec 2) (t : BitVec 3) (i : BitVec 6) (s : State) :=
  runInstr (.vslided d a k g t i) (enqueue []) s

def execVbcast (d a : BitVec 5) (k : BitVec 3) (g : BitVec 2) (t : BitVec 3) (i : BitVec 6) (s : State) :=
  runInstr (.vbcast d a k g t i) (enqueue []) s

def execVcvt (d a : BitVec 5) (u k : BitVec 3) (g : BitVec 2) (t : BitVec 3) (s : State) :=
  runInstr (.vcvt d a u k g t) (enqueue []) s

def execViota (d : BitVec 5) (a k : BitVec 3) (g : BitVec 2) (t : BitVec 3) (s : State) :=
  runInstr (.viota d a k g t) (enqueue []) s

/-- Issue with one scalar source. -/
def enqS (b : BitVec 5) : M Unit := do
  let v ← rdS b
  enqueue [v]

def execVmvScalar (d b : BitVec 5) (k : BitVec 3) (g : BitVec 2) (t : BitVec 3) (s : State) :=
  runInstr (.vmvScalar d b k g t) (enqS b) s

def execVtopk (d a b : BitVec 5) (k : BitVec 3) (g : BitVec 2) (t : BitVec 3) (s : State) :=
  runInstr (.vtopk d a b k g t) (enqS b) s

def execVmfa (d : BitVec 5) (a k t : BitVec 3) (s : State) := runInstr (.vmfa d a k t) (enqueue []) s

def execVmta (d : BitVec 3) (a : BitVec 5) (k t : BitVec 3) (s : State) := runInstr (.vmta d a k t) (enqueue []) s

def execVext (d a : BitVec 5) (k t : BitVec 3) (i : BitVec 6) (s : State) := runInstr (.vext d a k t i) (enqueue []) s

def execKand (d a b : BitVec 3) (s : State) := runInstr (.kand d a b) (enqueue []) s
def execKor (d a b : BitVec 3) (s : State) := runInstr (.kor d a b) (enqueue []) s
def execKnot (d a : BitVec 3) (s : State) := runInstr (.knot d a) (enqueue []) s
def execKpop (d : BitVec 5) (a : BitVec 3) (s : State) := runInstr (.kpop d a) (enqResult d) s
def execKfirst (d : BitVec 5) (a : BitVec 3) (s : State) := runInstr (.kfirst d a) (enqResult d) s

end Sys2Proof.Machine
end

