-- ==== Sys2Proof/Machine/Dispatch.lean ====
section
/-! DEFINITION. The dispatch of an instruction or device step to its meaning, one arm per constructor. -/

namespace Sys2Proof.Machine

/-- The meaning of an instruction for the executing context, or of a device step with the operands in the state. -/
def exec (i : Instr) (s : State) : Host.Outcome State Fault Refusal :=
  match i with
  | .add d a b p q => Sys2Proof.Machine.execAdd d a b p q s
  | .sub d a b p q => Sys2Proof.Machine.execSub d a b p q s
  | .and d a b p q => Sys2Proof.Machine.execAnd d a b p q s
  | .or d a b p q => Sys2Proof.Machine.execOr d a b p q s
  | .xor d a b p q => Sys2Proof.Machine.execXor d a b p q s
  | .andn d a b p q => Sys2Proof.Machine.execAndn d a b p q s
  | .sll d a b p q => Sys2Proof.Machine.execSll d a b p q s
  | .srl d a b p q => Sys2Proof.Machine.execSrl d a b p q s
  | .sra d a b p q => Sys2Proof.Machine.execSra d a b p q s
  | .mul d a b p q => Sys2Proof.Machine.execMul d a b p q s
  | .mulh d a b p q => Sys2Proof.Machine.execMulh d a b p q s
  | .mulhu d a b p q => Sys2Proof.Machine.execMulhu d a b p q s
  | .div d a b p q => Sys2Proof.Machine.execDiv d a b p q s
  | .divu d a b p q => Sys2Proof.Machine.execDivu d a b p q s
  | .rem d a b p q => Sys2Proof.Machine.execRem d a b p q s
  | .remu d a b p q => Sys2Proof.Machine.execRemu d a b p q s
  | .slt d a b p q => Sys2Proof.Machine.execSlt d a b p q s
  | .sltu d a b p q => Sys2Proof.Machine.execSltu d a b p q s
  | .min d a b p q => Sys2Proof.Machine.execMin d a b p q s
  | .max d a b p q => Sys2Proof.Machine.execMax d a b p q s
  | .minu d a b p q => Sys2Proof.Machine.execMinu d a b p q s
  | .maxu d a b p q => Sys2Proof.Machine.execMaxu d a b p q s
  | .clz d a p q => Sys2Proof.Machine.execClz d a p q s
  | .ctz d a p q => Sys2Proof.Machine.execCtz d a p q s
  | .popc d a p q => Sys2Proof.Machine.execPopc d a p q s
  | .addi d a im => Sys2Proof.Machine.execAddi d a im s
  | .andi d a im => Sys2Proof.Machine.execAndi d a im s
  | .ori d a im => Sys2Proof.Machine.execOri d a im s
  | .xori d a im => Sys2Proof.Machine.execXori d a im s
  | .slli d a im => Sys2Proof.Machine.execSlli d a im s
  | .srli d a im => Sys2Proof.Machine.execSrli d a im s
  | .srai d a im => Sys2Proof.Machine.execSrai d a im s
  | .slti d a im => Sys2Proof.Machine.execSlti d a im s
  | .sltiu d a im => Sys2Proof.Machine.execSltiu d a im s
  | .lui d im => Sys2Proof.Machine.execLui d im s
  | .auipc d im => Sys2Proof.Machine.execAuipc d im s
  | .lea d a b z sh => Sys2Proof.Machine.execLea d a b z sh s
  | .fadd d a b p q => Sys2Proof.Machine.execFadd d a b p q s
  | .fsub d a b p q => Sys2Proof.Machine.execFsub d a b p q s
  | .fmul d a b p q => Sys2Proof.Machine.execFmul d a b p q s
  | .fdiv d a b p q => Sys2Proof.Machine.execFdiv d a b p q s
  | .fsqrt d a p q => Sys2Proof.Machine.execFsqrt d a p q s
  | .fmin d a b p q => Sys2Proof.Machine.execFmin d a b p q s
  | .fmax d a b p q => Sys2Proof.Machine.execFmax d a b p q s
  | .feq d a b p q => Sys2Proof.Machine.execFeq d a b p q s
  | .flt d a b p q => Sys2Proof.Machine.execFlt d a b p q s
  | .fle d a b p q => Sys2Proof.Machine.execFle d a b p q s
  | .fcvtif d a p q => Sys2Proof.Machine.execFcvtif d a p q s
  | .fcvtfi d a p q => Sys2Proof.Machine.execFcvtfi d a p q s
  | .fclass d a p q => Sys2Proof.Machine.execFclass d a p q s
  | .rand d => Sys2Proof.Machine.execRand d s
  | .randF32 d => Sys2Proof.Machine.execRandF32 d s
  | .randBnd d b => Sys2Proof.Machine.execRandBnd d b s
  | .beq a b o => Sys2Proof.Machine.execBeq a b o s
  | .bne a b o => Sys2Proof.Machine.execBne a b o s
  | .blt a b o => Sys2Proof.Machine.execBlt a b o s
  | .bge a b o => Sys2Proof.Machine.execBge a b o s
  | .bltu a b o => Sys2Proof.Machine.execBltu a b o s
  | .bgeu a b o => Sys2Proof.Machine.execBgeu a b o s
  | .jal o => Sys2Proof.Machine.execJal o s
  | .jalr d a im => Sys2Proof.Machine.execJalr d a im s
  | .callw o => Sys2Proof.Machine.execCallw o s
  | .callwr a im => Sys2Proof.Machine.execCallwr a im s
  | .retw => Sys2Proof.Machine.execRetw s
  | .ld8 d a c e o => Sys2Proof.Machine.execLd8 d a c e o s
  | .ld8u d a c e o => Sys2Proof.Machine.execLd8u d a c e o s
  | .ld16 d a c e o => Sys2Proof.Machine.execLd16 d a c e o s
  | .ld16u d a c e o => Sys2Proof.Machine.execLd16u d a c e o s
  | .ld32 d a c e o => Sys2Proof.Machine.execLd32 d a c e o s
  | .ld32u d a c e o => Sys2Proof.Machine.execLd32u d a c e o s
  | .ld64 d a c e o => Sys2Proof.Machine.execLd64 d a c e o s
  | .st8 d a c e o => Sys2Proof.Machine.execSt8 d a c e o s
  | .st16 d a c e o => Sys2Proof.Machine.execSt16 d a c e o s
  | .st32 d a c e o => Sys2Proof.Machine.execSt32 d a c e o s
  | .st64 d a c e o => Sys2Proof.Machine.execSt64 d a c e o s
  | .ldq p a o => Sys2Proof.Machine.execLdq p a o s
  | .ldfe d a c e o => Sys2Proof.Machine.execLdfe d a c e o s
  | .ldff d a c e o => Sys2Proof.Machine.execLdff d a c e o s
  | .stef d a c e o => Sys2Proof.Machine.execStef d a c e o s
  | .stff d a c e o => Sys2Proof.Machine.execStff d a c e o s
  | .amoadd d a b c e w => Sys2Proof.Machine.execAmoadd d a b c e w s
  | .amoand d a b c e w => Sys2Proof.Machine.execAmoand d a b c e w s
  | .amoor d a b c e w => Sys2Proof.Machine.execAmoor d a b c e w s
  | .amoxor d a b c e w => Sys2Proof.Machine.execAmoxor d a b c e w s
  | .amomin d a b c e w => Sys2Proof.Machine.execAmomin d a b c e w s
  | .amomax d a b c e w => Sys2Proof.Machine.execAmomax d a b c e w s
  | .amominu d a b c e w => Sys2Proof.Machine.execAmominu d a b c e w s
  | .amomaxu d a b c e w => Sys2Proof.Machine.execAmomaxu d a b c e w s
  | .amoswap d a b c e w => Sys2Proof.Machine.execAmoswap d a b c e w s
  | .amocas d a b c e w => Sys2Proof.Machine.execAmocas d a b c e w s
  | .amofadd32 d a b c e => Sys2Proof.Machine.execAmofadd32 d a b c e s
  | .amobfadd2 d a b c e => Sys2Proof.Machine.execAmobfadd2 d a b c e s
  | .fence g x c => Sys2Proof.Machine.execFence g x c s
  | .drain => Sys2Proof.Machine.execDrain s
  | .csrr d n => Sys2Proof.Machine.execCsrr d n s
  | .csrw a n => Sys2Proof.Machine.execCsrw a n s
  | .qbindUn p => Sys2Proof.Machine.execQbindUn p s
  | .qbindLd p => Sys2Proof.Machine.execQbindLd p s
  | .qbindTx p e => Sys2Proof.Machine.execQbindTx p e s
  | .qbindRx p e => Sys2Proof.Machine.execQbindRx p e s
  | .qbindRr p a => Sys2Proof.Machine.execQbindRr p a s
  | .qstat d p => Sys2Proof.Machine.execQstat d p s
  | .vadd d a b k g sh t => Sys2Proof.Machine.execVadd d a b k g sh t s
  | .vsub d a b k g sh t => Sys2Proof.Machine.execVsub d a b k g sh t s
  | .vmul d a b k g sh t => Sys2Proof.Machine.execVmul d a b k g sh t s
  | .vfma d a b k g sh t => Sys2Proof.Machine.execVfma d a b k g sh t s
  | .vfms d a b k g sh t => Sys2Proof.Machine.execVfms d a b k g sh t s
  | .vmin d a b k g sh t => Sys2Proof.Machine.execVmin d a b k g sh t s
  | .vmax d a b k g sh t => Sys2Proof.Machine.execVmax d a b k g sh t s
  | .vdiv d a b k g sh t => Sys2Proof.Machine.execVdiv d a b k g sh t s
  | .vabs d a k g t => Sys2Proof.Machine.execVabs d a k g t s
  | .vneg d a k g t => Sys2Proof.Machine.execVneg d a k g t s
  | .vsqrt d a k g t => Sys2Proof.Machine.execVsqrt d a k g t s
  | .vrsqrt d a k g t => Sys2Proof.Machine.execVrsqrt d a k g t s
  | .vrcp d a k g t => Sys2Proof.Machine.execVrcp d a k g t s
  | .vexp2 d a k g t => Sys2Proof.Machine.execVexp2 d a k g t s
  | .vlog2 d a k g t => Sys2Proof.Machine.execVlog2 d a k g t s
  | .vtanh d a k g t => Sys2Proof.Machine.execVtanh d a k g t s
  | .vand d a b k g sh t => Sys2Proof.Machine.execVand d a b k g sh t s
  | .vor d a b k g sh t => Sys2Proof.Machine.execVor d a b k g sh t s
  | .vxor d a b k g sh t => Sys2Proof.Machine.execVxor d a b k g sh t s
  | .vshl d a b k g sh t => Sys2Proof.Machine.execVshl d a b k g sh t s
  | .vshr d a b k g sh t => Sys2Proof.Machine.execVshr d a b k g sh t s
  | .vsra d a b k g sh t => Sys2Proof.Machine.execVsra d a b k g sh t s
  | .vcmpeq m a b k g sh t => Sys2Proof.Machine.execVcmpeq m a b k g sh t s
  | .vcmplt m a b k g sh t => Sys2Proof.Machine.execVcmplt m a b k g sh t s
  | .vcmple m a b k g sh t => Sys2Proof.Machine.execVcmple m a b k g sh t s
  | .vcvt d a u k g t => Sys2Proof.Machine.execVcvt d a u k g t s
  | .vsel d a b k g sh t => Sys2Proof.Machine.execVsel d a b k g sh t s
  | .vredsum d a k g t => Sys2Proof.Machine.execVredsum d a k g t s
  | .vredmax d a k g t => Sys2Proof.Machine.execVredmax d a k g t s
  | .vredmin d a k g t => Sys2Proof.Machine.execVredmin d a k g t s
  | .vargmax d a k g t => Sys2Proof.Machine.execVargmax d a k g t s
  | .vperm d a b k g sh t => Sys2Proof.Machine.execVperm d a b k g sh t s
  | .vslideu d a k g t im => Sys2Proof.Machine.execVslideu d a k g t im s
  | .vslided d a k g t im => Sys2Proof.Machine.execVslided d a k g t im s
  | .vbcast d a k g t im => Sys2Proof.Machine.execVbcast d a k g t im s
  | .viota d a k g t => Sys2Proof.Machine.execViota d a k g t s
  | .vmv d a k g t => Sys2Proof.Machine.execVmv d a k g t s
  | .vmvScalar d b k g t => Sys2Proof.Machine.execVmvScalar d b k g t s
  | .vtopk d a b k g t => Sys2Proof.Machine.execVtopk d a b k g t s
  | .vmfa d a k t => Sys2Proof.Machine.execVmfa d a k t s
  | .vmta d a k t => Sys2Proof.Machine.execVmta d a k t s
  | .vext d a k t im => Sys2Proof.Machine.execVext d a k t im s
  | .vld d a b k g t => Sys2Proof.Machine.execVld d a b k g t s
  | .vst d a b k g x t => Sys2Proof.Machine.execVst d a b k g x t s
  | .vlds d a b k g t => Sys2Proof.Machine.execVlds d a b k g t s
  | .vsts d a b k g x t => Sys2Proof.Machine.execVsts d a b k g x t s
  | .vgath d a b k g t => Sys2Proof.Machine.execVgath d a b k g t s
  | .vscat d a b k g x t => Sys2Proof.Machine.execVscat d a b k g x t s
  | .vscadd d a b k g x t => Sys2Proof.Machine.execVscadd d a b k g x t s
  | .kand d a b => Sys2Proof.Machine.execKand d a b s
  | .kor d a b => Sys2Proof.Machine.execKor d a b s
  | .knot d a => Sys2Proof.Machine.execKnot d a s
  | .kpop d a => Sys2Proof.Machine.execKpop d a s
  | .kfirst d a => Sys2Proof.Machine.execKfirst d a s
  | .kld d a b => Sys2Proof.Machine.execKld d a b s
  | .kst d a b x => Sys2Proof.Machine.execKst d a b x s
  | .hld a h => Sys2Proof.Machine.execHld a h s
  | .hset a h n => Sys2Proof.Machine.execHset a h n s
  | .hsetD a h n => Sys2Proof.Machine.execHsetD a h n s
  | .hget d h n => Sys2Proof.Machine.execHget d h n s
  | .hgetD d h n => Sys2Proof.Machine.execHgetD d h n s
  | .halloc d a => Sys2Proof.Machine.execHalloc d a s
  | .hallocN d a b => Sys2Proof.Machine.execHallocN d a b s
  | .hfree a => Sys2Proof.Machine.execHfree a s
  | .hwait d a b => Sys2Proof.Machine.execHwait d a b s
  | .hspace d a b => Sys2Proof.Machine.execHspace d a b s
  | .hadvP a b => Sys2Proof.Machine.execHadvP a b s
  | .hadvC a b => Sys2Proof.Machine.execHadvC a b s
  | .hstat d a => Sys2Proof.Machine.execHstat d a s
  | .hstatLo d a => Sys2Proof.Machine.execHstatLo d a s
  | .hstatHi d a => Sys2Proof.Machine.execHstatHi d a s
  | .tmov d a b h => Sys2Proof.Machine.execTmov d a b h s
  | .tmovTg d a b h => Sys2Proof.Machine.execTmovTg d a b h s
  | .ttag d a b => Sys2Proof.Machine.execTtag d a b s
  | .ttagCas d a b => Sys2Proof.Machine.execTtagCas d a b s
  | .tget d a => Sys2Proof.Machine.execTget d a s
  | .cpy d a b h => Sys2Proof.Machine.execCpy d a b h s
  | .gath d a b h => Sys2Proof.Machine.execGath d a b h s
  | .scat d a b h => Sys2Proof.Machine.execScat d a b h s
  | .fill d a b h => Sys2Proof.Machine.execFill d a b h s
  | .coll d a b h => Sys2Proof.Machine.execColl d a b h s
  | .xwait d a => Sys2Proof.Machine.execXwait d a s
  | .xwaitAll d => Sys2Proof.Machine.execXwaitAll d s
  | .xstat d a => Sys2Proof.Machine.execXstat d a s
  | .mma d a b h w v u => Sys2Proof.Machine.execMma d a b h w v u s
  | .mmaz d a b h w v u => Sys2Proof.Machine.execMmaz d a b h w v u s
  | .mmas d a b h w v u => Sys2Proof.Machine.execMmas d a b h w v u s
  | .azeroF32 d => Sys2Proof.Machine.execAzeroF32 d s
  | .azeroI32 d => Sys2Proof.Machine.execAzeroI32 d s
  | .ald d e a t => Sys2Proof.Machine.execAld d e a t s
  | .aldV d v t => Sys2Proof.Machine.execAldV d v t s
  | .ast e c a x k t => Sys2Proof.Machine.execAst e c a x k t s
  | .astV v c x t => Sys2Proof.Machine.execAstV v c x t s
  | .cbld n a => Sys2Proof.Machine.execCbld n a s
  | .mcmd a b h => Sys2Proof.Machine.execMcmd a b h s
  | .cgemv d a b h => Sys2Proof.Machine.execCgemv d a b h s
  | .gld d a y t => Sys2Proof.Machine.execGld d a y t s
  | .gst d a y => Sys2Proof.Machine.execGst d a y s
  | .gacc d a b h y => Sys2Proof.Machine.execGacc d a b h y s
  | .gsub d a b h y => Sys2Proof.Machine.execGsub d a b h y s
  | .gschur d a h y => Sys2Proof.Machine.execGschur d a h y s
  | .gdamp d a b y => Sys2Proof.Machine.execGdamp d a b y s
  | .gsolve d a y => Sys2Proof.Machine.execGsolve d a y s
  | .gresid d a b y => Sys2Proof.Machine.execGresid d a b y s
  | .gsend d a b y r => Sys2Proof.Machine.execGsend d a b y r s
  | .snap d a b => Sys2Proof.Machine.execSnap d a b s
  | .snapOpen d a => Sys2Proof.Machine.execSnapOpen d a s
  | .snapJoin a => Sys2Proof.Machine.execSnapJoin a s
  | .snapFin a => Sys2Proof.Machine.execSnapFin a s
  | .scommit d a b => Sys2Proof.Machine.execScommit d a b s
  | .sabort a => Sys2Proof.Machine.execSabort a s
  | .spawn d a b => Sys2Proof.Machine.execSpawn d a b s
  | .halt => Sys2Proof.Machine.execHalt s
  | .haltS a b => Sys2Proof.Machine.execHaltS a b s
  | .yield => Sys2Proof.Machine.execYield s
  | .join d a => Sys2Proof.Machine.execJoin d a s
  | .leave d => Sys2Proof.Machine.execLeave d s
  | .barset d a n => Sys2Proof.Machine.execBarset d a n s
  | .bararr d n => Sys2Proof.Machine.execBararr d n s
  | .barwt d a n => Sys2Proof.Machine.execBarwt d a n s
  | .barsync d n => Sys2Proof.Machine.execBarsync d n s
  | .waitm d a => Sys2Proof.Machine.execWaitm d a s
  | .send d a c => Sys2Proof.Machine.execSend d a c s
  | .sendw d a c => Sys2Proof.Machine.execSendw d a c s
  | .capmk d a => Sys2Proof.Machine.execCapmk d a s
  | .capmkDv d a b => Sys2Proof.Machine.execCapmkDv d a b s
  | .caprv d a => Sys2Proof.Machine.execCaprv d a s
  | .fwd a => Sys2Proof.Machine.execFwd a s
  | .expect d c => Sys2Proof.Machine.execExpect d c s
  | .dcnt d a b => Sys2Proof.Machine.execDcnt d a b s
  | .taskq a b m => Sys2Proof.Machine.execTaskq a b m s
  | .taskqCap a b m => Sys2Proof.Machine.execTaskqCap a b m s
  | .taskqOwn a b => Sys2Proof.Machine.execTaskqOwn a b s
  | .taskend a => Sys2Proof.Machine.execTaskend a s
  | .opcall d a o => Sys2Proof.Machine.execOpcall d a o s
  | .wfe d a => Sys2Proof.Machine.execWfe d a s
  | .trap a n => Sys2Proof.Machine.execTrap a n s
  | .eret => Sys2Proof.Machine.execEret s
  | .ckpt d a f => Sys2Proof.Machine.execCkpt d a f s
  | .step d n => Sys2Proof.Machine.execStep d n s
  | .migpt d => Sys2Proof.Machine.execMigpt d s
  | .migptBind d => Sys2Proof.Machine.execMigptBind d s
  | .migptFree d => Sys2Proof.Machine.execMigptFree d s
  | .casc d a m => Sys2Proof.Machine.execCasc d a m s
  | .wideInstructionAtHead => Sys2Proof.Machine.execWideInstructionAtHead s
  | .scalarResultReturn => Sys2Proof.Machine.execScalarResultReturn s
  | .windowSpill => Sys2Proof.Machine.execWindowSpill s
  | .windowFill => Sys2Proof.Machine.execWindowFill s
  | .storeResolve => Sys2Proof.Machine.execStoreResolve s
  | .storePerform => Sys2Proof.Machine.execStorePerform s
  | .storeFaultRecord => Sys2Proof.Machine.execStoreFaultRecord s
  | .ldqEntryArrival => Sys2Proof.Machine.execLdqEntryArrival s
  | .waitEntryRetry => Sys2Proof.Machine.execWaitEntryRetry s
  | .remoteWindowAccess => Sys2Proof.Machine.execRemoteWindowAccess s
  | .bridgeHold => Sys2Proof.Machine.execBridgeHold s
  | .tlbMissWalkStart => Sys2Proof.Machine.execTlbMissWalkStart s
  | .walkComplete => Sys2Proof.Machine.execWalkComplete s
  | .patrolScrub => Sys2Proof.Machine.execPatrolScrub s
  | .engineCommandStart => Sys2Proof.Machine.execEngineCommandStart s
  | .engineCommandComplete => Sys2Proof.Machine.execEngineCommandComplete s
  | .engineFault => Sys2Proof.Machine.execEngineFault s
  | .engineError => Sys2Proof.Machine.execEngineError s
  | .slotBecomesFull => Sys2Proof.Machine.execSlotBecomesFull s
  | .slotBecomesFree => Sys2Proof.Machine.execSlotBecomesFree s
  | .deliveryArrival => Sys2Proof.Machine.execDeliveryArrival s
  | .deliveryAck => Sys2Proof.Machine.execDeliveryAck s
  | .remoteCommandAccept => Sys2Proof.Machine.execRemoteCommandAccept s
  | .hostWrite => Sys2Proof.Machine.execHostWrite s
  | .hostRead => Sys2Proof.Machine.execHostRead s
  | .dramChannelExit => Sys2Proof.Machine.execDramChannelExit s
  | .channelPowerDownEntry => Sys2Proof.Machine.execChannelPowerDownEntry s
  | .channelSelfRefreshEntry => Sys2Proof.Machine.execChannelSelfRefreshEntry s
  | .lumWrite => Sys2Proof.Machine.execLumWrite s
  | .xltinvPartition => Sys2Proof.Machine.execXltinvPartition s
  | .xltinvAsn => Sys2Proof.Machine.execXltinvAsn s
  | .xltinvAsnPage => Sys2Proof.Machine.execXltinvAsnPage s
  | .xltinvPageAllAsn => Sys2Proof.Machine.execXltinvPageAllAsn s
  | .xltinvWalkCaches => Sys2Proof.Machine.execXltinvWalkCaches s
  | .xltinvDone => Sys2Proof.Machine.execXltinvDone s
  | .sharingMapWrite => Sys2Proof.Machine.execSharingMapWrite s
  | .sharingMapClearDone => Sys2Proof.Machine.execSharingMapClearDone s
  | .capkeyStageLow => Sys2Proof.Machine.execCapkeyStageLow s
  | .capkeyCommit => Sys2Proof.Machine.execCapkeyCommit s
  | .fpFlagsSync => Sys2Proof.Machine.execFpFlagsSync s
  | .ovrInfoClear => Sys2Proof.Machine.execOvrInfoClear s
  | .launchqWrite => Sys2Proof.Machine.execLaunchqWrite s
  | .launchRecordTake => Sys2Proof.Machine.execLaunchRecordTake s
  | .launchNextRecord => Sys2Proof.Machine.execLaunchNextRecord s
  | .slotcfgWrite => Sys2Proof.Machine.execSlotcfgWrite s
  | .rotWrite => Sys2Proof.Machine.execRotWrite s
  | .contextPlace => Sys2Proof.Machine.execContextPlace s
  | .contextPreempt => Sys2Proof.Machine.execContextPreempt s
  | .parkedEvict => Sys2Proof.Machine.execParkedEvict s
  | .timeSliceExpiry => Sys2Proof.Machine.execTimeSliceExpiry s
  | .budgetPeriod => Sys2Proof.Machine.execBudgetPeriod s
  | .grpkill => Sys2Proof.Machine.execGrpkill s
  | .barrierRowSignal => Sys2Proof.Machine.execBarrierRowSignal s
  | .barrierColumnSignal => Sys2Proof.Machine.execBarrierColumnSignal s
  | .barrierRelease => Sys2Proof.Machine.execBarrierRelease s
  | .barrierBreak => Sys2Proof.Machine.execBarrierBreak s
  | .staggeredReleaseApply => Sys2Proof.Machine.execStaggeredReleaseApply s
  | .wfeDeadline => Sys2Proof.Machine.execWfeDeadline s
  | .loadBalance => Sys2Proof.Machine.execLoadBalance s
  | .memberFinished => Sys2Proof.Machine.execMemberFinished s
  | .trapEntryHandler => Sys2Proof.Machine.execTrapEntryHandler s
  | .trapToCmc => Sys2Proof.Machine.execTrapToCmc s
  | .ctxcmdResume => Sys2Proof.Machine.execCtxcmdResume s
  | .ctxcmdResumeAt => Sys2Proof.Machine.execCtxcmdResumeAt s
  | .ctxcmdReset => Sys2Proof.Machine.execCtxcmdReset s
  | .ctxcmdReleaseFrozen => Sys2Proof.Machine.execCtxcmdReleaseFrozen s
  | .ctxcmdRaise => Sys2Proof.Machine.execCtxcmdRaise s
  | .tmbheadAdvance => Sys2Proof.Machine.execTmbheadAdvance s
  | .tmbfreeMark => Sys2Proof.Machine.execTmbfreeMark s
  | .errcntRead => Sys2Proof.Machine.execErrcntRead s
  | .cmcGroupStop => Sys2Proof.Machine.execCmcGroupStop s
  | .hangWatchdog => Sys2Proof.Machine.execHangWatchdog s
  | .wallTimeLimit => Sys2Proof.Machine.execWallTimeLimit s
  | .imageWriteback => Sys2Proof.Machine.execImageWriteback s
  | .contextSave => Sys2Proof.Machine.execContextSave s
  | .contextRestore => Sys2Proof.Machine.execContextRestore s
  | .checkpointTimer => Sys2Proof.Machine.execCheckpointTimer s
  | .resumeqWrite => Sys2Proof.Machine.execResumeqWrite s
  | .resumeImageTake => Sys2Proof.Machine.execResumeImageTake s
  | .meshLinkFailure => Sys2Proof.Machine.execMeshLinkFailure s
  | .islctlWake => Sys2Proof.Machine.execIslctlWake s
  | .islctlRetention => Sys2Proof.Machine.execIslctlRetention s
  | .islctlOff => Sys2Proof.Machine.execIslctlOff s
  | .acreAutoRetention => Sys2Proof.Machine.execAcreAutoRetention s
  | .acreAutoOff => Sys2Proof.Machine.execAcreAutoOff s
  | .acreEntryDone => Sys2Proof.Machine.execAcreEntryDone s
  | .acreWakeDone => Sys2Proof.Machine.execAcreWakeDone s
  | .croftStandbyEntry => Sys2Proof.Machine.execCroftStandbyEntry s
  | .croftWake => Sys2Proof.Machine.execCroftWake s
  | .unitPowerGate => Sys2Proof.Machine.execUnitPowerGate s
  | .unitWake => Sys2Proof.Machine.execUnitWake s
  | .pspatWrite => Sys2Proof.Machine.execPspatWrite s
  | .lendingPeriod => Sys2Proof.Machine.execLendingPeriod s
  | .lenderRecall => Sys2Proof.Machine.execLenderRecall s
  | .recallComplete => Sys2Proof.Machine.execRecallComplete s
  | .launchSkewExpiry => Sys2Proof.Machine.execLaunchSkewExpiry s
  | .thermalMigrationCrossing => Sys2Proof.Machine.execThermalMigrationCrossing s
  | .thermalRequestWithdraw => Sys2Proof.Machine.execThermalRequestWithdraw s
  | .throttleStep => Sys2Proof.Machine.execThrottleStep s
  | .emergencySave => Sys2Proof.Machine.execEmergencySave s
  | .thermalTrip => Sys2Proof.Machine.execThermalTrip s
  | .croftThermalTrip => Sys2Proof.Machine.execCroftThermalTrip s
  | .inhibitClear => Sys2Proof.Machine.execInhibitClear s
  | .retentionRecordClear => Sys2Proof.Machine.execRetentionRecordClear s
  | .migreqRaise => Sys2Proof.Machine.execMigreqRaise s
  | .migrationHonour => Sys2Proof.Machine.execMigrationHonour s
  | .migrationTimeout => Sys2Proof.Machine.execMigrationTimeout s
  | .migrationComplete => Sys2Proof.Machine.execMigrationComplete s
  | .partitionSwapOut => Sys2Proof.Machine.execPartitionSwapOut s
  | .partitionSwapIn => Sys2Proof.Machine.execPartitionSwapIn s
  | .linkPortFailure => Sys2Proof.Machine.execLinkPortFailure s
  | .vfFlr => Sys2Proof.Machine.execVfFlr s
  | .powerOnBoot => Sys2Proof.Machine.execPowerOnBoot s
  | .measExtend => Sys2Proof.Machine.execMeasExtend s
  | .getMeasurements => Sys2Proof.Machine.execGetMeasurements s
  | .registerWrite => Sys2Proof.Machine.execRegisterWrite s
  | .receiveQueueArrival => Sys2Proof.Machine.execReceiveQueueArrival s
  | .apertureAccess => Sys2Proof.Machine.execApertureAccess s
  | .deviceOff => Sys2Proof.Machine.execDeviceOff s

end Sys2Proof.Machine
end

