-- ==== Sys2Proof/Machine/Issue.lean ====
section
/-! DEFINITION. An issue turn of a unit's scalar pipeline: which context acts, and one instruction of it (R21, R332); and the
turn the device takes when the agenda names none. -/

namespace Sys2Proof.Machine

/-- Fetches, decodes and executes one instruction of context `c` (R72, R74). -/
def issueCtx (c : Nat) (s : State) : Host.Outcome State Fault Refusal :=
  match fetchWord { s with cur := c } with
  | .ok w s' =>
    match decode w with
    | .instr i => exec i s'
    | .illegal e => .next (s'.issuedTrap { cause := e.cause } w)
  | .error (.trap t) s' => .next (s'.preciseTrap t 0)
  | .error (.park why _ ext) s' => .next (s'.parkCtx why ext)
  | .error .bad _ => .fault .noSuchAgent

/-- Whether a context waits in a packet or a wait list: it executes nothing until that is served or withdrawn (R76, R214). -/
def State.waitsOutside (s : State) (c : Nat) : Bool := (s.ctx c).wait.any (·.external)

/-- What happens at the boundary of a context before it issues, if anything does: a trap is taken (R368), a context that no
longer belongs in its slot leaves it (R329), a checkpoint that has fallen due is taken (R388), or it waits outside. -/
def State.beforeIssue (s : State) (u sl c : Nat) : Option (Host.Outcome State Fault Refusal) :=
  match s.boundaryTrap c with
  | some t => some (.next t)
  | none =>
    if s.waitsOutside c then some (.next s)
    else if !s.belongs u sl c then some (.next (if s.mayLeave c then (s.moveOut c u).getD s else s))
    else if (s.dirE c).ckDue && !(s.ctx c).task.active then some (autoCkpt c s)
    else none

/-- A context as it stood when a wide instruction of its queue was issued: its pc and its fmt.cfg (R95, R226). -/
def Ctx.asIssued (x : Ctx) (pc fmt : Word) : Ctx :=
  let x := { x with pc := pc }
  if x.fmt = fmt then x else x.csrSet 0x10 fmt

/-- The entries of a context's queue still to be issued. -/
def Ctx.toIssue (x : Ctx) : Nat := (x.dq.filter (·.unissued)).length

/-- A context executes the oldest entry of its dispatch queue that is still to be issued, at place `k`, with its pc as at its issue,
before any later instruction (R224, R226, R243, log 13), having counted as issued when it entered (R210). When it has run, or still waits, the context stands where it stood; when it
traps, the trap is the entry's, and what stood behind it in the queue is executed again after it. -/
def reissue (c : Nat) (e : DqEnt) (k : Nat) (s : State) : Host.Outcome State Fault Refusal :=
  let x := s.ctx c
  let again := fun (t : State) => t.modUnit (t.unitOf c) (fun u =>
    { u with sb := u.sb.map (fun f => if f.ctx == c && f.rs == 0 && f.id < s.ids then { f with age := f.age - 1 } else f) })
  match decode e.word with
  | .illegal _ => .next (s.dropQueue c k)
  | .instr i =>
    match exec i (({ s with cur := c } : State).setCtx c (x.asIssued e.pc e.fmt)) with
    | .next t =>
      let y := t.ctx c
      if y.toIssue < x.toIssue then
        .next (again (t.setCtx c (y.asIssued x.pc x.fmt)))
      else if y.wait.isSome && y.pc == e.pc then .next (t.setCtx c (y.asIssued x.pc x.fmt))
      else
        let t := again (t.dropQueue c k)
        .next (t.setCtx c ((t.ctx c).asIssued y.pc x.fmt))
    | r => r

/-- One candidate's attempt: what waits at its boundary, else the oldest wide instruction still to be issued, else an instruction. -/
def tryCtx (u sl c : Nat) (s : State) : Host.Outcome State Fault Refusal :=
  let s := s.raiseDue c
  match s.beforeIssue u sl c with
  | some r => r
  | none =>
    match (s.ctx c).nextWide with
    | some (e, k) => reissue c e k s
    | none => issueCtx c s

/-- Whether an attempt from `s` to `t` leaves the turn to the next candidate: the context parked, but not by an access that has issued
and gone outside, or it has left a slot it did not belong in (R329, R332, R335). -/
def State.passed (s t : State) (u sl c : Nat) : Bool :=
  match (t.ctx c).wait with
  | some w => !w.external || s.waitsOutside c
  | none => !s.belongs u sl c && t.inSlotOf u sl != some c

/-- The slots in order; a context whose instruction parks leaves the turn to the next candidate (R332). -/
def trySlots (u : Nat) : List Nat → State → Host.Outcome State Fault Refusal
  | [], s => .next s
  | sl :: t, s =>
    match s.inSlotOf u sl with
    | none => trySlots u t s
    | some c =>
      if s.canTry u c then
        match tryCtx u sl c s with
        | .next s' => if s.passed s' u sl c then trySlots u t s' else .next (s'.charge u c)
        | r => r
      else trySlots u t s

/-- One issue turn of a unit's scalar pipeline (R21, R332); reports that waited for the unit's record queue go first (R371). -/
def issueTurn (u : Nat) (s : State) : Host.Outcome State Fault Refusal :=
  if s.unitRuns u then
    let s := ((s.tick u).reload).flushReports u
    trySlots u (slotOrder (bits (s.unit u).rot (4 * ((s.unit u).cyc % 16) + 3) (4 * ((s.unit u).cyc % 16)))) s
  else .next s

/-! ### The turn taken when the agenda is empty (log 1) -/

/-- A device step to try. -/
abbrev Cand := Instr × Arg

/-- A step with two number operands. -/
def cand (i : Instr) (a b : Nat) (c : Nat := 0) : Cand := (i, { n0 := a, n1 := b, n2 := c })

/-- What a packet in the mesh waits for. -/
def pktCands (n : Nat) (p : Pkt) : List Cand :=
  match p.body with
  | .access _ => [cand .remoteWindowAccess n 0, cand .bridgeHold n 0]
  | .delivery _ => [cand .deliveryArrival n 0, cand .bridgeHold n 0]
  | .ack _ _ _ _ => [cand .bridgeHold n 0, cand .deliveryAck n 0]
  | .push _ _ => [cand .receiveQueueArrival n 0, cand .bridgeHold n 0]
  | .request _ => [cand .remoteWindowAccess n 0]
  | .answer _ _ _ => [cand .remoteWindowAccess n 0, cand .bridgeHold n 0]
  | .sig g => cand .bridgeHold n 0 :: [[cand .barrierRowSignal n 0], [cand .barrierColumnSignal n 0], [cand .barrierRelease n 0]].getD g.kind [cand .barrierBreak n 0]

/-- What a unit's own machinery may do: stores, commands, buffer slots, remote commands, its slots and rings. -/
def unitCands (s : State) (u : Nat) (x : UnitSt) : List Cand :=
  x.sb.zipIdx.map (fun e => cand ([Instr.storeResolve, .storePerform].getD e.1.rs .storeFaultRecord) u e.2) ++
  x.cmds.flatMap (fun k => if k.started then [cand .engineCommandComplete u k.seq, cand .engineFault u k.seq] else [cand .engineCommandStart u k.seq]) ++
  x.bt.flatMap (fun b => b.2.adv.map (fun a => cand (if a.full then .slotBecomesFull else .slotBecomesFree) u b.1 a.slot)) ++
  (if x.rcq.isEmpty then [] else [cand .remoteCommandAccept u 0]) ++
  (match (List.range 8).find? (fun sl => (s.nextFor u sl).isSome) with
    | some sl => [cand .contextPlace u sl]
    | none => []) ++
  (List.range 8).flatMap (fun sl =>
    match s.inSlotOf u sl with
    | none => []
    | some c =>
      if (s.waiters u (s.dirE c).part).isEmpty then [] else [cand .contextPreempt u sl, cand .parkedEvict u sl, cand .timeSliceExpiry u sl]) ++
  (if x.rings.isEmpty then [] else [cand .loadBalance u 0]) ++
  (if x.gated && s.pkts.any (fun p => p.dst == u) then [cand .unitWake u 0] else [])

/-- What a context's own machinery may do: its dispatch queue, results, queued loads, timers, and its save or restore. -/
def ctxCands (s : State) (c : Nat) (d : Dir) : List Cand :=
  if 2 ^ 32 ≤ c then [cand .wideInstructionAtHead c 0] else if d.st ≠ 1 then [] else
  let x := s.ctx c
  (if x.dq.isEmpty then [] else [cand .wideInstructionAtHead c 0]) ++
  (if x.results.isEmpty then [] else [cand .scalarResultReturn c 0]) ++
  (x.ports.filter (fun e => e.2.ldq.any (fun l => !l.arrived))).map (fun e => cand .ldqEntryArrival c e.1) ++
  (if x.wait.any (fun w => w.why == wWindow) then [cand .windowSpill c 0, cand .windowFill c 0] else []) ++
  (if d.deadline = 0 then [] else [cand .wfeDeadline c 0]) ++
  (if bits (x.csrGet 0x22) 31 0 = 0 then [] else [cand .checkpointTimer c 0]) ++
  (if d.freeAt = 0 then [] else [cand .launchSkewExpiry c 0]) ++
  (if s.saveCalled c || d.releasing then [cand .contextSave c 0] else []) ++
  (if d.place = .saved then [cand .contextRestore c 0, cand .wallTimeLimit c 0] else [])

/-- What a partition's machinery may do. -/
def partCands (p : Nat) (x : PartSt) : List Cand :=
  (if x.launchQ.isEmpty then [] else [cand .launchRecordTake p 0]) ++
  (if x.resumeQ.isEmpty then [] else [cand .resumeImageTake p 0]) ++
  (if bit x.xltinv 63 then [cand .xltinvDone p 0] else []) ++
  (if bit (w64 x.grpKill) 63 then [cand .grpkill p (x.grpKill % 65536)] else [])

/-- What the islands and the power, thermal and migration machinery may do. -/
def islandCands (s : State) : List Cand :=
  (if s.island.st = 3 then [cand (if s.island.to_ = 0 then .acreWakeDone else .acreEntryDone) 0 0] else []) ++
  (if s.island.auto then [cand .acreAutoRetention 0 0, cand .acreAutoOff 0 0] else []) ++
  (if s.island.standby then [cand .croftWake 0 0] else [cand .croftStandbyEntry 0 0]) ++
  (if s.island.inh then [cand .inhibitClear 0 0] else []) ++
  s.clusters.flatMap (fun e => (e.2.mbox.zipIdx.filter (fun m => !m.1.done && bits (m.1.words.getD 0 0) 6 0 == 0x7F)).map
    (fun m => cand .cmcGroupStop e.1 ((e.2.head + m.2) % 64))) ++
  s.migs.flatMap (fun m => if m.honoured then [cand .migrationComplete m.src 0] else [cand .migrationHonour m.src 0, cand .migrationTimeout m.src 0]) ++
  s.clusters.flatMap (fun e =>
    if 16 ≤ e.1 then [] else
    (if e.2.lst = 3 then [cand .recallComplete e.1 0] else []) ++ [cand .throttleStep e.1 0]) ++
  (if s.time / 1024 = s.lent then [] else [cand .lendingPeriod 0 0]) ++
  (if s.time / 1024 = s.period then [] else [cand .budgetPeriod 0 0])

/-- The device steps that something in the state waits for. -/
def State.cands (s : State) : List Cand :=
  s.pkts.zipIdx.flatMap (fun e => pktCands e.2 e.1) ++
  s.units.flatMap (fun e => unitCands s e.1 e.2) ++
  s.dir.flatMap (fun e => ctxCands s e.1 e.2) ++
  s.parts.flatMap (fun e => partCands e.1 e.2) ++
  (s.waits.zipIdx.filter (fun e => e.1.refused)).map (fun e => cand .waitEntryRetry e.2 0) ++
  s.misses.zipIdx.flatMap (fun e => if e.1.walking then [cand .walkComplete e.2 0] else (e.1.units.map (fun u => cand .tlbMissWalkStart (clusterOf u) 0))) ++
  s.staggers.zipIdx.map (fun e => cand .staggeredReleaseApply e.2 0) ++
  s.launches.map (fun e => cand .launchNextRecord e.1 0) ++
  s.ssu.flatMap (fun e => e.2.members.map (fun m => cand .memberFinished e.1 m.ctx)) ++
  (if s.sharingClear.isEmpty then [] else [cand .sharingMapClearDone 0 0]) ++
  (s.chans.filter (fun e => e.2.st != 0 && e.2.want)).map (fun e => cand .dramChannelExit e.1 0) ++
  islandCands s

/-- The next unit from `u` on, in rotation, that has a context in a slot; `u` itself when none has. -/
def State.nextBusy (s : State) (u : Nat) : Nat :=
  let busy := (s.units.filter (fun e => e.1 < 260 && !e.2.slots.isEmpty)).map (·.1)
  match minBy (fun v => (v + 260 - u) % 260) busy with
  | some v => v
  | none => u

/-- The turn the device takes when the agenda names none (log 1): at even steps a unit with a context issues, in rotation; at
odd steps one of the steps that something waits for is tried, in rotation. -/
def State.defaultTurn (s : State) : Turn :=
  let l := if s.steps % 2 = 1 then s.cands else []
  match l[s.steps / 2 % l.length]? with
  | some (i, a) => { dt := 1, act := .event i a }
  | none => { dt := 1, act := .issue (s.nextBusy s.nextUnit) }

/-- The rotation after a turn. -/
def State.turned (s : State) (t : Turn) : State :=
  match t.act with
  | .issue u => { s with nextUnit := (u + 1) % 260 }
  | _ => s

/-- The management core sets a context's event bit: the context may go on (R348, log 48). -/
def State.cmcEvent (s : State) (c : Nat) : State := if s.live c then (s.signal c).unpark c else s

end Sys2Proof.Machine
end

