-- ==== Sys2Proof/Machine/Step.lean ====
section
/-! DEFINITION. One step of the device: the agenda's next turn, or the default turn when the agenda is empty. -/

namespace Sys2Proof.Machine

/-- Runs one turn. -/
def runTurn (t : Turn) (s : State) : Host.Outcome State Fault Refusal :=
  let s := { s with time := s.time + t.dt, steps := s.steps + 1 }
  match t.act with
  | .issue u => if u < 260 then issueTurn u s else .fault .noSuchAgent
  | .event i a => exec i { s with arg := a }
  | .setEvent c => .next (s.cmcEvent c)
  | .linkDelivery d => .next (s.linkIn d)
  | .peerStore a l fe => .next (s.peerStore a l fe)
  | .flashWrite l => .next (s.flashWrite l)

/-- One step: the agenda's head, or the default turn when the agenda is empty (log 1). -/
def step (s : State) : Host.Outcome State Fault Refusal :=
  match s.agenda with
  | t :: rest => runTurn t { s with agenda := rest }
  | [] => runTurn s.defaultTurn (s.turned s.defaultTurn)

/-- The virtual page withFetchWord maps, and where it lies. -/
def fetchVa : Word := 0x10000

/-- `s` with an instruction's bytes where the very next step fetches: Croft unit 256 slot 0 holds context 0 ready at an
executable page that its first-level TLB maps, and the agenda gives that unit the next turn (log 14). -/
def State.withFetchWord (s : State) (nbits w : Nat) : State :=
  let e : TlbEnt := { part := 0, asn := 0, level := 4, vpn := 16, pte := 0x1007B, ptePa := 0 }
  let x := { s.ctx 0 with pc := fetchVa, wait := none, held := false, frozen := false, asn := 0, dq := [] }
  let s := (s.setCtx 0 x).modDir 0 (fun d => { d with st := 1, part := 0, home := 0, place := .slot 256 0, async := [], ckDue := false })
  let s := s.modPart 0 (fun p => { p with lum := mset p.lum 0 0x80000100, pst := 0 })
  let s := s.modUnit 256 (fun u => { u with
    slots := [(0, 0)], gated := false, sb := [], sfq := [], reports := [], spent := [], rot := 0, rotNext := none
    tlb := e :: u.tlb })
  { s with
    mem := memWrite s.mem 0x10000 (toBytes (max 4 (nbits / 8)) w)
    memErr := [], chans := [], agenda := [{ dt := 1, act := .issue 256 }], power := true, migs := []
    island := { s.island with standby := false } }

end Sys2Proof.Machine
end

