-- ==== Sys2Proof/WellFormed.lean ====
section
/-! DEFINITION. Which instructions are well formed: those that some legal word encodes. The checks are those of R72 that
look at the word alone; a device step has no word and is always well formed. -/

namespace Sys2Proof

/-- No sub-field value is unassigned, no group misaligned, no reserved bit set, no two groups overlap partly (R72). -/
def Instr.wellFormed (i : Instr) : Bool := !unassignedIn i && !reservedIn i && !overlapIn i

/-- The proposition that `i` passes every decode check of R72. -/
abbrev Instr.WellFormed (i : Instr) : Prop := i.wellFormed = true

end Sys2Proof
end

