-- ==== Sys2Proof/Certificates/Slice0/Obligations.lean ====
section
/-! DEFINITION. The statements for the provers. First the words they are written in: when an operand can be read, written,
popped or pushed, and what that does to the state, each written from the rule it cites; then the statements. -/

namespace Sys2Proof.Claim

open Sys2Proof.Machine

/-! ### Operands of the executing context -/

/-- The state an instruction's effect starts from: the next pc is PC + 4 (R75), its word stands for a trap's record. -/
def begun (s : State) (i : Instr) : State := { s with npc := (s.ctx s.cur).pc + 4, insn := (encode i).getD 0 }

/-- s register `i` can be read now: it is full, no result is outstanding to it, no soft error stands in it (R163, R167, R383). -/
abbrev canRead (s : State) (i : BitVec 5) : Prop :=
  i.toNat = 0 ∨ (bit (s.ctx s.cur).sFull i.toNat = true ∧ bit (s.ctx s.cur).outst i.toNat = false ∧
    mget s.regErr (regKey s.cur 0 i.toNat) 0 = 0)

/-- The value of s register `i`; s0 is zero (R163). -/
def regVal (s : State) (i : BitVec 5) : Word := if i.toNat = 0 then 0 else mget (s.ctx s.cur).sreg i.toNat 0

/-- s register `d` can be named as a destination now: no result is outstanding to it (R167). -/
abbrev canName (s : State) (d : BitVec 5) : Prop := d.toNat = 0 ∨ bit (s.ctx s.cur).outst d.toNat = false

/-- Writing s register `d`: it takes the value and is full; a write to s0 is discarded (R163, R165). -/
def written (s : State) (d : BitVec 5) (v : Word) : State :=
  s.modCtx s.cur (fun x =>
    if d.toNat = 0 then x else { x with sreg := mset x.sreg d.toNat v, sFull := putBit x.sFull d.toNat true })

/-- A pop of queue port `n` (R170, R212, R351): the value and the state after it, where it completes. What waits for a place in
the queue tries again (R333). -/
def popped (s : State) (n : Nat) : Option (Word × State) :=
  let c := s.cur
  let u := s.unitOf c
  let p := mget (s.ctx c).ports n {}
  match p.kind with
  | 1 =>
    match p.ldq with
    | e :: t => if e.arrived ∧ e.mark = 0 then some (e.val, s.modCtx c (fun x => { x with ports := mset x.ports n { p with ldq := t } })) else none
    | [] => none
  | 3 =>
    match mget (s.unit u).rxq p.dir [] with
    | v :: t =>
      let s := s.modUnit u (fun y => { y with rxq := mset y.rxq p.dir t })
      some (v, match neighbour u p.dir with | some w => s.wakeUnit w | none => s)
    | [] => none
  | 4 =>
    let r := s.ring u p.ring
    match r.q with
    | v :: t => if r.usable (s.dirE c).part = true ∧ r.frozen = false then some (v, (s.setRing u p.ring { r with q := t }).wakeUnit u) else none
    | [] => none
  | _ => none

/-- The ra source in its space (R67, R163): an s register is read, an m register is read and empties, so that the next value
held for it enters (R186), a q port is popped. The value and the state after it, where it completes. -/
abbrev taken (s : State) (a : BitVec 5) (q : BitVec 2) (v : Word) (t : State) : Prop :=
  if q.toNat = 0 then canRead s a ∧ v = regVal s a ∧ t = s
  else if q.toNat = 1 then
    bit (s.ctx s.cur).mFull a.toNat = true ∧ mget s.regErr (regKey s.cur 1 a.toNat) 0 = 0 ∧ v = mget (s.ctx s.cur).mreg a.toNat 0 ∧
      t = (s.modCtx s.cur (fun x => { x with mFull := putBit x.mFull a.toNat false })).applyHeld s.cur 1 a.toNat
  else popped s a.toNat = some (v, t)

/-- The conditions of a push through queue port `n` (R19, R170, R320, R351): a place in the neighbour's receive queue or the ring, a
bridge that is not full, and no access before it that a release waits for (R311). -/
abbrev canPush (s : State) (n : Nat) : Prop :=
  let u := s.unitOf s.cur
  let p := mget (s.ctx s.cur).ports n {}
  s.relOk s.cur = true ∧
    ((p.kind = 2 ∧ (neighbour u p.dir).any (fun v => s.rxUsed v (opposite p.dir) < 16 && !s.bridgeFull u v) = true) ∨
     (p.kind = 4 ∧ (s.ring u p.ring).usable (s.dirE s.cur).part = true ∧ (s.ring u p.ring).q.length < 256))

/-- A push through queue port `n`: a packet to the neighbour, or an entry at the end of the ring, which wakes its users. -/
def pushed (s : State) (n : Nat) (v : Word) : State :=
  let u := s.unitOf s.cur
  let p := mget (s.ctx s.cur).ports n {}
  if p.kind = 2 then
    match neighbour u p.dir with
    | some w => { s with pkts := s.pkts ++ [{ src := u, dst := w, body := .push (opposite p.dir) v }] }
    | none => s
  else s.ringPush u p.ring v

/-- The rd destination in its space can take a value (R192). -/
abbrev canPut (s : State) (d : BitVec 5) (p : BitVec 2) : Prop := if p.toNat = 0 then canName s d else canPush s d.toNat

/-- The rd destination in its space takes a value. -/
def put (s : State) (d : BitVec 5) (p : BitVec 2) (v : Word) : State := if p.toNat = 0 then written s d v else pushed s d.toNat v

/-- An SR instruction of two sources (R192): where every source is available and the destination can take a value, it reads the
sources, writes `f` of them and completes. -/
def Sr2 (mk : BitVec 5 → BitVec 5 → BitVec 5 → BitVec 2 → BitVec 2 → Instr) (f : Word → Word → Word) : Prop :=
  ∀ (s t : State) (d a b : BitVec 5) (p q : BitVec 2) (x : Word),
    taken (begun s (mk d a b p q)) a q x t → canRead s b → canPut s d p →
    exec (mk d a b p q) s = .next ((put t d p (f x (regVal s b))).retire false)

/-- The same with one source. -/
def Sr1 (mk : BitVec 5 → BitVec 5 → BitVec 2 → BitVec 2 → Instr) (f : Word → Word) : Prop :=
  ∀ (s t : State) (d a : BitVec 5) (p q : BitVec 2) (x : Word),
    taken (begun s (mk d a p q)) a q x t → canPut s d p →
    exec (mk d a p q) s = .next ((put t d p (f x)).retire false)

/-- Accrues sticky flags into fpflags (R94). -/
def accrued (s : State) (n : Nat) : State :=
  s.modCtx s.cur (fun x => if n = 0 then x else x.csrSet 0x11 (x.csrGet 0x11 ||| BitVec.ofNat 64 n))

/-- An SR instruction of two sources under fmt.cfg, whose flags accrue before the destination is written (R94, R199). -/
def SrF2 (mk : BitVec 5 → BitVec 5 → BitVec 5 → BitVec 2 → BitVec 2 → Instr) (f : Word → Word → Word → Word × Nat) : Prop :=
  ∀ (s t : State) (d a b : BitVec 5) (p q : BitVec 2) (x : Word),
    taken (begun s (mk d a b p q)) a q x t → canRead s b → canPut s d p →
    exec (mk d a b p q) s =
      .next ((put (accrued t (f (t.ctx t.cur).fmt x (regVal s b)).2) d p (f (t.ctx t.cur).fmt x (regVal s b)).1).retire false)

/-- The same with one source. -/
def SrF1 (mk : BitVec 5 → BitVec 5 → BitVec 2 → BitVec 2 → Instr) (f : Word → Word → Word × Nat) : Prop :=
  ∀ (s t : State) (d a : BitVec 5) (p q : BitVec 2) (x : Word),
    taken (begun s (mk d a p q)) a q x t → canPut s d p →
    exec (mk d a p q) s = .next ((put (accrued t (f (t.ctx t.cur).fmt x).2) d p (f (t.ctx t.cur).fmt x).1).retire false)

/-- An SI instruction of an s source and an immediate (R196). -/
def Si {n : Nat} (mk : BitVec 5 → BitVec 5 → BitVec n → Instr) (f : Word → BitVec n → Word) : Prop :=
  ∀ (s : State) (d a : BitVec 5) (i : BitVec n), canRead s a → canName s d →
    exec (mk d a i) s = .next ((written (begun s (mk d a i)) d (f (regVal s a) i)).retire false)

/-- The signed quotient truncated towards zero, with the cases of R195. -/
def quotient (x y : Word) : Word :=
  if y = 0 then 0xFFFFFFFFFFFFFFFF
  else if x = 0x8000000000000000 ∧ y = 0xFFFFFFFFFFFFFFFF then 0x8000000000000000
  else BitVec.ofInt 64 (x.toInt.tdiv y.toInt)

/-- The signed remainder, of the dividend's sign, with the cases of R195. -/
def remainder (x y : Word) : Word :=
  if y = 0 then x
  else if x = 0x8000000000000000 ∧ y = 0xFFFFFFFFFFFFFFFF then 0
  else BitVec.ofInt 64 (x.toInt.tmod y.toInt)

/-- How many of the numbers below `n` have a property. -/
def countBits (n : Nat) (f : Nat → Bool) : Nat := ((List.range n).filter f).length

/-- A conditional branch (R202): it completes with NextPC the target where its condition holds, else PC + 4. -/
def Branch (mk : BitVec 5 → BitVec 5 → BitVec 14 → Instr) (f : Word → Word → Prop) : Prop :=
  ∀ (s : State) (a b : BitVec 5) (o : BitVec 14), canRead s a → canRead s b →
    (f (regVal s a) (regVal s b) →
      exec (mk a b o) s = .next ({ begun s (mk a b o) with npc := (s.ctx s.cur).pc + BitVec.ofInt 64 (o.toInt * 4) }.retire false)) ∧
    (¬f (regVal s a) (regVal s b) → exec (mk a b o) s = .next ((begun s (mk a b o)).retire false))

end Sys2Proof.Claim


namespace Sys2Proof.Claim

open Sys2Proof.Machine

/-! ### The generator -/

/-- The draw of R201 for a key and a counter. -/
def drawn (key ctr : Word) : Nat :=
  let z := (key.toNat + (ctr.toNat + 1) * 0x9E3779B97F4A7C15) % 2 ^ 64
  let z := (z ^^^ (z / 2 ^ 30)) * 0xBF58476D1CE4E5B9 % 2 ^ 64
  let z := (z ^^^ (z / 2 ^ 27)) * 0x94D049BB133111EB % 2 ^ 64
  z ^^^ (z / 2 ^ 31)

/-- The draw the executing context takes next: its key is rng.key, its counter rng.ctr. -/
def nextDrawn (s : State) : Nat := drawn ((s.ctx s.cur).csrGet 0x18) ((s.ctx s.cur).csrGet 0x19)

/-- A draw advances rng.ctr by one. -/
def counted (s : State) : State := s.modCtx s.cur (fun x => x.csrSet 0x19 (x.csrGet 0x19 + 1))

/-! ### Register windows -/

/-- What R204 makes of a context that opens a window with return address `r`. -/
def Opened (x y : Ctx) (r : Word) : Prop :=
  y = { x with sreg := y.sreg, sFull := y.sFull, wins := y.wins } ∧
  y.wins.tail = x.wins ∧ y.wins.length = x.wins.length + 1 ∧
  (∀ i, i < 8 → y.s i = x.s i ∧ bit y.sFull i = bit x.sFull i) ∧
  (∀ i, 8 ≤ i → i < 15 → y.s i = x.s (i + 16) ∧ bit y.sFull i = bit x.sFull (i + 16)) ∧
  (y.s 15 = r ∧ bit y.sFull 15 = true) ∧
  (∀ i, 16 ≤ i → i < 32 → y.s i = 0 ∧ bit y.sFull i = true)

/-- What R205 makes of a context that returns to the window behind it. -/
def Closed (x y : Ctx) : Prop :=
  ∃ w ws, x.wins = w :: ws ∧
    y = { x with sreg := y.sreg, sFull := y.sFull, wins := ws } ∧
    (∀ i, i < 8 → y.s i = x.s i ∧ bit y.sFull i = bit x.sFull i) ∧
    (∀ i, 8 ≤ i → i < 24 → y.s i = mget w.regs i 0 ∧ bit y.sFull i = bit w.full (i - 8)) ∧
    (∀ i, 24 ≤ i → i < 32 → y.s i = x.s (i - 16) ∧ bit y.sFull i = bit x.sFull (i - 16))

/-- No scalar result is outstanding to s8 to s31 (R204, R205). -/
abbrev noResults (s : State) : Prop := ∀ i, i < 32 → 8 ≤ i → bit (s.ctx s.cur).outst i = false

/-- The trap of the executing instruction with a cause alone, from the state its effect starts in (R75, R361). -/
def trapped (s : State) (i : Instr) (cause : Nat) : State := (begun s i).issuedTrap { cause := cause } ((encode i).getD 0)

/-- The unsigned number that `n` bytes from a home stand for, lowest byte first (R2). -/
def leVal (m : List Host.Cell) (a : Nat) : Nat → Nat
  | 0 => 0
  | n + 1 => (memGet m a).toNat + 256 * leVal m (a + 1) n

/-- Every byte outside `[a, a + n)` reads in `m'` as it read in `m`. -/
def onlyAt (m m' : List Host.Cell) (a n : Nat) : Prop := ∀ b, b < a ∨ a + n ≤ b → memGet m' b = memGet m b

/-- A number of `n` bytes read as two's complement. -/
def signedVal (n v : Nat) : Word := BitVec.ofInt 64 (if 2 ^ (8 * n - 1) ≤ v then (v : Int) - 2 ^ (8 * n) else v)

/-- The address of a scalar access (R207): the base register plus the offset in units of the size. -/
def scalarVa (s : State) (a : BitVec 5) (o : BitVec 10) (n : Nat) : Word := BitVec.ofInt 64 ((regVal s a).toNat + o.toInt * n)

/-- An address resolves to a home for the executing context, with the state after translation (R43, R48). -/
abbrev resolves (s : State) (va : Word) (k : Acc) (loc : Nat) (t : State) : Prop :=
  s.resolve (s.whoIs s.cur) va k false = (.ok loc, t)

/-- No soft error stands in the words that `n` bytes at a home lie in (R33, R117). -/
abbrev sound (s : State) (loc n : Nat) : Prop := ∀ i, i < n + 16 → s.errAt (loc / 8 * 8 + i) = 0

/-- A home answers its unit at once: it is near, its channel is active, its unit and its island are awake, no failed link lies on
the way (R39, R114, R384, R391, R396). -/
abbrev near (s : State) (loc : Nat) : Prop :=
  isRegBlock loc = false ∧ isRemote (s.unitOf s.cur) loc = false ∧ s.cutOff (s.unitOf s.cur) loc = false ∧
    (isDram loc = true → (mget s.chans (loc / 256 % 32) {}).st = 0) ∧
    (isCroftPad loc = true → s.island.standby = false) ∧ (isUnitPad loc = true → (s.unit (padUnit loc)).gated = false)

/-- No FENCE of the executing context still orders an access behind it: what came before one that had to wait for nothing has been
performed (R312, R313). -/
abbrev pastFences (s : State) : Prop := ∀ f ∈ (s.dirE s.cur).fenced, s.pendingBefore s.cur f.2 = false

/-- The executing context's stores have their homes, hold no later access back and do not meet the `n` bytes at a home; no pending
store of a sibling is to the words they lie in (R303, R304, R306, R311). -/
abbrev noStoreMeets (s : State) (loc n : Nat) : Prop :=
  pastFences s ∧ ∀ e ∈ (s.unit (s.unitOf s.cur)).sb,
    (e.ctx = s.cur → e.rs ≠ 0 ∧ e.ar = false ∧ e.meets loc n = false) ∧
    (e.ctx ≠ s.cur → e.rs = 1 → e.meets (loc / 8 * 8) ((loc % 8 + n + 7) / 8 * 8) = false)

/-- A load of `n` bytes (R207, R208, R306): where its operands are there and its home answers, it writes the bytes at the home,
lowest first, extended as the mnemonic says. -/
def Loads (mk : BitVec 5 → BitVec 5 → BitVec 2 → BitVec 2 → BitVec 10 → Instr) (n : Nat) (sg : Bool) : Prop :=
  ∀ (s t : State) (d a : BitVec 5) (c e : BitVec 2) (o : BitVec 10) (loc : Nat),
    canRead s a → canName s d → (scalarVa s a o n).toNat % n = 0 → (e = 3 → s.relOk s.cur = true) →
    resolves (begun s (mk d a c e o)) (scalarVa s a o n) accR loc t → near t loc → noStoreMeets t loc n → sound t loc n →
    exec (mk d a c e o) s =
      .next ((written (t.touchRun loc n) d (if sg then signedVal n (leVal t.mem loc n) else BitVec.ofNat 64 (leVal t.mem loc n))).retire false)

/-- The order a store carries: a release comes after its context's stores in the buffer and the sibling stores it has read (R311).
Behind a FENCE that waited for nothing, in a scope without another agent, while what came before that FENCE is pending, a store is
ordered as that FENCE orders it (R312, R313). -/
def ordered (s : State) (e : Store) : Store :=
  let before := ((s.unit (s.unitOf s.cur)).sb.filter (fun f => f.ctx == s.cur)).map (·.id) ++ (s.dirE s.cur).sibRead
  match (s.dirE s.cur).fenced with
  | some (sc, no) =>
    if s.pendingBefore s.cur no = true then
      (if e.rel = true then { e with aft := before, sc := max e.sc sc } else { e with aft := before.filter (· < no), rel := true, sc := sc })
    else { e with aft := before }
  | none => { e with aft := before }

/-- A store enters the unit's buffer under the next number, for its context and pc (R209, R210). -/
def entered (s : State) (e : Store) : State :=
  { s with ids := s.ids + 1 }.modUnit (s.unitOf s.cur) (fun y => { y with sb := y.sb ++
    [{ e with id := s.ids, ctx := s.cur, pc := (s.ctx s.cur).pc, inH := (s.ctx s.cur).inHandler }] })

/-- A place for the executing context's next store: 64 entries a unit, 16 a context (R210). -/
abbrev storeRoom (s : State) : Prop :=
  (s.unit (s.unitOf s.cur)).sb.length < 64 ∧ ((s.unit (s.unitOf s.cur)).sb.filter (fun f => f.ctx == s.cur)).length < 16

/-- A store of `n` bytes (R209, R213): it enters the buffer, its home known at once for a window address and left to be found
otherwise; memory stays as it is until the store is performed. -/
def Stores (mk : BitVec 5 → BitVec 5 → BitVec 2 → BitVec 2 → BitVec 10 → Instr) (n size : Nat) (full : Bool) : Prop :=
  ∀ (s t : State) (d a : BitVec 5) (c e : BitVec 2) (o : BitVec 10) (loc rs : Nat),
    canRead s a → canRead s d → (scalarVa s a o n).toNat % n = 0 →
    (if isWindow (scalarVa s a o n) = true then rs = 1 ∧ resolves (begun s (mk d a c e o)) (scalarVa s a o n) accW loc t
      else rs = 0 ∧ loc = 0 ∧ t = begun s (mk d a c e o)) →
    storeRoom t →
    let e' : Store := { id := 0, ctx := 0, pc := 0, size := size, setFull := full, rel := e == 2 || e == 3, ar := e == 3, sc := c.toNat, rs := rs
                        pieces := [{ va := scalarVa s a o n, loc := loc, n := n, data := (regVal s d).toNat % 2 ^ (8 * n) }] }
    exec (mk d a c e o) s = .next ((entered t (ordered t e')).retire false)

/-- A full/empty or atomic access of the executing context meets nothing that holds it back: none of its own stores is
unresolved, orders later accesses, or meets the aligned word of the home, and none of a sibling's that it has read does (R304,
R315). -/
abbrev wordFree (s : State) (loc : Nat) : Prop :=
  pastFences s ∧ ∀ e ∈ (s.unit (s.unitOf s.cur)).sb, e.rs = 2 ∨
    (if e.ctx = s.cur then e.rs ≠ 0 ∧ e.ar = false ∧ e.meets (loc / 8 * 8) 8 = false
      else e.id ∈ (s.dirE s.cur).sibRead → e.meets (loc / 8 * 8) 8 = false)

/-- What a full/empty access does while its word's bit is not what it asks for (R213, R214, R215): a task traps with cause 0x18; any other
context joins the word's wait list with its access, keeping its pc, and the word stays as it is. -/
def WaitsHere (s t : State) (i : Instr) (loc : Nat) (op : MemOp) (data : Word) (rd : Nat) : Prop :=
  if (s.ctx s.cur).task.active = true then exec i s = .next ((t.touch loc).issuedTrap { cause := 0x18 } ((encode i).getD 0))
  else ∃ u w, exec i s = .next u ∧ u.waits = t.waits ++ [w] ∧ w.req.loc = loc ∧ w.req.ctx = s.cur ∧ w.req.op = op ∧ w.req.data = data ∧
    w.req.rd = rd ∧ (u.ctx s.cur).pc = (s.ctx s.cur).pc ∧ u.mem = t.mem ∧ u.fe = t.fe

/-- Nothing waits on the word of a home (R214). -/
abbrev noWaiter (s : State) (loc : Nat) : Prop := ∀ w ∈ s.waits, w.req.loc / 8 ≠ loc / 8

/-- The result of an AMO on `n` bytes (R216, R217): rd takes the old value, a 32-bit one sign-extended, and the bytes at the
home take the new value; every other byte stays, and the granule's tag loses V. -/
def AmoDone (s t u : State) (d : BitVec 5) (loc n : Nat) (new : Nat) : Prop :=
  let old := leVal t.mem loc n
  (u.ctx s.cur).s d.toNat = (if d.toNat = 0 then 0 else if n = 4 then signedVal 4 old else BitVec.ofNat 64 old) ∧
  leVal u.mem loc n = new % 2 ^ (8 * n) ∧ onlyAt t.mem u.mem loc n ∧
  (u.ctx s.cur).pc = (s.ctx s.cur).pc + 4 ∧
  (∀ i, i ≠ d.toNat → (u.ctx s.cur).s i = (s.ctx s.cur).s i) ∧ (∀ c, c ≠ s.cur → u.ctx c = s.ctx c)

/-- An AMO (R216, R217) with the function its new value is of the old value, rb and rd. -/
def Amo (mk : BitVec 5 → BitVec 5 → BitVec 5 → BitVec 2 → BitVec 2 → Instr) (n : Nat) (cas : Bool) (f : Nat → Nat → Nat → Nat) : Prop :=
  ∀ (s t : State) (d a b : BitVec 5) (c e : BitVec 2) (loc : Nat),
    canRead s a → canRead s b → canName s d → (cas = true → canRead s d) → (regVal s a).toNat % n = 0 →
    (e = 2 ∨ e = 3 → s.relOk s.cur = true) →
    resolves (begun s (mk d a b c e)) (regVal s a) accFW loc t → near t loc → wordFree t loc → sound t loc 8 → Memory.wf t.mem = true →
    ∃ u, exec (mk d a b c e) s = .next u ∧
      AmoDone s t u d loc n (f (leVal t.mem loc n) ((regVal s b).toNat % 2 ^ (8 * n)) ((regVal s d).toNat % 2 ^ (8 * n)))

/-! ### Binary32 (R86, R87) -/

/-- The sign of a pattern. -/
def neg32 (x : Nat) : Bool := x / 2 ^ 31 % 2 == 1
/-- A finite value: the exponent field is not all ones. -/
abbrev isFin32 (x : Nat) : Prop := x / 2 ^ 23 % 256 ≠ 255
/-- An infinity. -/
abbrev isInf32 (x : Nat) : Prop := x / 2 ^ 23 % 256 = 255 ∧ x % 2 ^ 23 = 0
/-- A NaN. -/
abbrev isNan32 (x : Nat) : Prop := x / 2 ^ 23 % 256 = 255 ∧ x % 2 ^ 23 ≠ 0
/-- The infinity of a sign. -/
def inf32 (neg : Bool) : Word := if neg then 0xFF800000 else 0x7F800000
/-- The zero of a sign. -/
def zero32 (neg : Bool) : Word := if neg then 0x80000000 else 0

/-- The magnitude of a finite value in units of 2^-149, the smallest subnormal: a whole number. -/
def mag32 (x : Nat) : Nat :=
  if x / 2 ^ 23 % 256 = 0 then x % 2 ^ 23 else (2 ^ 23 + x % 2 ^ 23) * 2 ^ (x / 2 ^ 23 % 256 - 1)
/-- A finite value in those units. -/
def units32 (x : Nat) : Int := if neg32 x then -(mag32 x : Int) else mag32 x
/-- The values that are not NaN in their order: an infinity lies beyond every finite value. -/
def order32 (x : Nat) : Int := if isInf32 x then (if neg32 x then -2 ^ 300 else 2 ^ 300) else units32 x
/-- The same order with -0 below +0 (R199). -/
def rank32 (x : Nat) : Int := 2 * order32 x + (if neg32 x then 0 else 1)

/-- The class of a pattern, as a bit number (R200). -/
def class32 (x : Nat) : Nat :=
  if isNan32 x then 8
  else if isInf32 x then (if neg32 x then 0 else 7)
  else if mag32 x = 0 then (if neg32 x then 3 else 4)
  else if mag32 x < 2 ^ 23 then (if neg32 x then 2 else 5)
  else (if neg32 x then 1 else 6)

/-- `k` is n/d rounded to an integer under RM (R93, R96): to nearest with ties to even, towards zero, up, down. -/
def NearestInt (rm : Nat) (n : Int) (d : Nat) (k : Int) : Prop :=
  match rm with
  | 0 => 2 * (k * d - n).natAbs ≤ d ∧ (2 * (k * d - n).natAbs = d → k % 2 = 0)
  | 1 => k.natAbs * d ≤ n.natAbs ∧ n.natAbs < (k.natAbs + 1) * d ∧ 0 ≤ k * n
  | 2 => n ≤ k * d ∧ (k - 1) * d < n
  | _ => k * d ≤ n ∧ n < (k + 1) * d

/-- A pattern is the value of the binary32 grid that RM picks for n/d units, below the overflow range (R96): the nearest, of two equally
near the one whose last fraction bit is 0; or the nearest towards zero, upwards or downwards. -/
def Picks32 (rm : Nat) (n : Int) (d : Nat) (r : Nat) : Prop :=
  match rm with
  | 0 => ∀ q, q < 2 ^ 32 → isFin32 q → (units32 r * d - n).natAbs ≤ (units32 q * d - n).natAbs ∧
      ((units32 r * d - n).natAbs = (units32 q * d - n).natAbs → units32 q = units32 r ∨ r % 2 = 0)
  | 1 => (mag32 r * d ≤ n.natAbs) ∧ ∀ q, q < 2 ^ 32 → isFin32 q → mag32 q * d ≤ n.natAbs → mag32 q ≤ mag32 r
  | 2 => n ≤ units32 r * d ∧ ∀ q, q < 2 ^ 32 → isFin32 q → n ≤ units32 q * d → units32 r ≤ units32 q
  | _ => units32 r * d ≤ n ∧ ∀ q, q < 2 ^ 32 → isFin32 q → units32 q * d ≤ n → units32 q ≤ units32 r

/-- Whether n/d units, rounded with the exponent unbounded, exceed the largest finite value (2^24 - 1) × 2^253 (R96). -/
abbrev tooBig32 (rm : Nat) (n : Int) (d : Nat) : Prop :=
  if rm = 0 then (2 ^ 25 - 1) * 2 ^ 252 * d ≤ n.natAbs
  else if rm = 1 ∨ (rm = 2 ∧ n < 0) ∨ (rm = 3 ∧ 0 < n) then 2 ^ 277 * d ≤ n.natAbs
  else (2 ^ 24 - 1) * 2 ^ 253 * d < n.natAbs

/-- A result and its flags are the nonzero exact value of n/d units rounded once under fmt.cfg (R93, R94, R96, R97). -/
def Rounded32 (fmt : Word) (n : Int) (d : Nat) (r : Word × Nat) : Prop :=
  let rm := fmt.toNat % 4
  if tooBig32 rm n d then
    r = (BitVec.ofNat 64 ((if fmt.toNat / 4 % 2 = 1 ∨ rm = 1 ∨ (rm = 2 ∧ n < 0) ∨ (rm = 3 ∧ 0 < n) then 0x7F7FFFFF else 0x7F800000) +
      (if n < 0 then 2 ^ 31 else 0)), 5)
  else
    r.1.toNat < 2 ^ 32 ∧ isFin32 r.1.toNat ∧ neg32 r.1.toNat = decide (n < 0) ∧ Picks32 rm n d r.1.toNat ∧
    r.2 = if units32 r.1.toNat * d = n then 0 else if mag32 r.1.toNat < 2 ^ 23 then 3 else 1

/-- A result and its flags are the square root of a positive value rounded once, N being the square of the exact result in units (R100). -/
def Root32 (fmt : Word) (N : Int) (r : Word × Nat) : Prop :=
  let u := units32 r.1.toNat
  r.1.toNat < 2 ^ 31 ∧ isFin32 r.1.toNat ∧ r.2 = (if u * u = N then 0 else 1) ∧
  match fmt.toNat % 4 with
  | 0 => ∀ q, q < 2 ^ 31 → isFin32 q → (u < units32 q → 4 * N ≤ (u + units32 q) ^ 2) ∧ (units32 q < u → (u + units32 q) ^ 2 ≤ 4 * N)
  | 2 => N ≤ u * u ∧ ∀ q, q < 2 ^ 31 → isFin32 q → N ≤ units32 q * units32 q → u ≤ units32 q
  | _ => u * u ≤ N ∧ ∀ q, q < 2 ^ 31 → isFin32 q → units32 q * units32 q ≤ N → units32 q ≤ u

/-- A number of `n` bytes as a signed one. -/
def sgn (n v : Nat) : Int := if 2 ^ (8 * n - 1) ≤ v then (v : Int) - 2 ^ (8 * n) else v

end Sys2Proof.Claim

namespace Sys2Proof.Claim

open Sys2Proof.Machine

/-! ### Control registers -/

/-- The RW bits of each control register (R93, R94, R168, R174, R365, R380). -/
def rwBits (n : Nat) : Word :=
  if n = 0x10 then 0x00000000FFFF008F else if n = 0x11 then 0x3F
  else if n = 0x18 ∨ n = 0x19 ∨ n = 0x101 then 0xFFFFFFFFFFFFFFFF
  else if n = 0x20 ∨ n = 0x21 ∨ n = 0x22 ∨ n = 0x40 ∨ n = 0x41 ∨ n = 0x100 then 0xFFFFFFFF
  else if n = 0x28 then 0x7FFF8 else if n = 0x29 then 0xFFFF0000
  else if n = 0x30 then 0xFFFFFFFFFFFFFFFD else if n = 0x102 then 0xFFFFFFFFFFFFFFC0 else 0

/-! ### The dispatch queue -/

/-- A wide instruction waits at the tail of its context's dispatch queue with the scalars read at issue (R21, R166, R226). -/
def queued (s : State) (i : Instr) (l : List Word) : State :=
  (begun s i).modCtx s.cur (fun x => { x with dq := x.dq ++ [{ word := (encode i).getD 0, pc := x.pc, scalars := l, fmt := x.fmt }] })

/-- A wide instruction without a scalar operand (R21): where the queue has room it enters it and completes. -/
def WideQueues (i : Instr) : Prop :=
  ∀ s : State, (s.ctx s.cur).dq.length < 4 → exec i s = .next ((queued s i []).retire false)

/-- A wide instruction whose vb operand is a vector group, or an s register broadcast (R166). -/
def WideQueuesB (mk : BitVec 5 → BitVec 5 → BitVec 5 → BitVec 3 → BitVec 2 → BitVec 1 → BitVec 3 → Instr) : Prop :=
  ∀ (s : State) (d a b : BitVec 5) (k : BitVec 3) (g : BitVec 2) (t : BitVec 3), (s.ctx s.cur).dq.length < 4 →
    exec (mk d a b k g 0 t) s = .next ((queued s (mk d a b k g 0 t) []).retire false) ∧
    (canRead s b → exec (mk d a b k g 1 t) s = .next ((queued s (mk d a b k g 1 t) [regVal s b]).retire false))

/-- A wide instruction with a scalar result (R167): it enters the queue, and its register is empty with a result outstanding, so that
a SENDW value held for it is applied (R186). -/
def WideReturns (i : Instr) (d : BitVec 5) : Prop :=
  ∀ s : State, (s.ctx s.cur).dq.length < 4 → canName s d →
    exec i s = .next ((if d.toNat = 0 then queued s i []
      else ((queued s i []).modCtx s.cur (fun x => { x with sFull := putBit x.sFull d.toNat false, outst := putBit x.outst d.toNat true })).applyHeld
        s.cur 0 d.toNat).retire false)

/-- The entry `e` at the head of a context's queue can execute (R224, R259): its vector sources are full, none of its sources
has an uncorrectable error, and the accumulator it names is not in use and, where it reads it, full. -/
def headReady (s : State) (c : Nat) (i : Instr) : Prop :=
  (∀ v ∈ wideSrcs i, bit (s.ctx c).vFull v = true) ∧ s.wideErr c i = none ∧
    (∀ a w, wideAcc i = some (a, w) → s.accBusy c a = false ∧ (w = true → bit (s.ctx c).aFull a = true))

/-- A context after an instruction at the head, its scalar result, if it has one, on its way (R167). -/
def withResult (r : Ctx × Option (Nat × Word)) : Ctx :=
  match r.2 with
  | some q => { r.1 with results := r.1.results ++ [q] }
  | none => r.1

/-! ### Vector elements (R221 to R247) -/

/-- Element `e`, of `w` bits, of the group at vector register `v` (R221). -/
def elem (x : Ctx) (w v e : Nat) : Nat := (mget x.vreg (v + e / (2048 / w)) 0).toNat / 2 ^ (w * (e % (2048 / w))) % 2 ^ w

/-- The element width of a type (R221). -/
def tyBits (t : BitVec 3) : Nat := if t = 0 ∨ t = 4 then 32 else if t = 1 ∨ t = 2 ∨ t = 5 then 16 else 8

/-- Element `e` is active under mask `k`; k0 makes every element active (R223). -/
def act (x : Ctx) (k : BitVec 3) (e : Nat) : Bool := k.toNat == 0 || bit (mget x.kreg k.toNat 0) (e % 256)

/-- Element `e` of the vb group, or the broadcast scalar (R166). -/
def argB (q : WideIn) (x : Ctx) (b : BitVec 5) (sh : BitVec 1) (w e : Nat) : Nat :=
  if sh = 1 then (q.sc.getD 0 0).toNat % 2 ^ w else elem x w b.toNat e

/-- The least and the greatest value of an integer type, and the value of a pattern (R90). -/
def tyLo (t : BitVec 3) : Int := if t = 7 then 0 else -2 ^ (tyBits t - 1)
def tyHi (t : BitVec 3) : Int := if t = 7 then 255 else 2 ^ (tyBits t - 1) - 1
def tyVal (t : BitVec 3) (a : Nat) : Int := if (a : Int) ≤ tyHi t then a else a - 2 ^ tyBits t

/-- IntResult (R230): the pattern of an exact integer, saturated with IS where ISAT is 1, and the flags. -/
def intOut (fmt : Word) (t : BitVec 3) (v : Int) : Nat × Nat :=
  if bit fmt 3 = true ∧ (v < tyLo t ∨ tyHi t < v) then ((max (tyLo t) (min (tyHi t) v) % 2 ^ tyBits t).toNat, 32)
  else ((v % 2 ^ tyBits t).toNat, 0)

/-- `y` is `x` with the `n` registers from `d` on written, and full: element `e` holds `f e`, or what it held where that is none. No other
register, mask, accumulator or scalar register changes. -/
def GroupSet (x y : Ctx) (w d n : Nat) (f : Nat → Option Nat) : Prop :=
  (∀ e, e < n * (2048 / w) → elem y w d e = (f e).getD (elem x w d e)) ∧
  (∀ v, v < d ∨ d + n ≤ v → mget y.vreg v 0 = mget x.vreg v 0 ∧ bit y.vFull v = bit x.vFull v) ∧
  (∀ v, d ≤ v → v < d + n → v < 32 → bit y.vFull v = true) ∧
  y = { x with vreg := y.vreg, vFull := y.vFull, csr := y.csr }

/-- `y` has the flags that the active elements of `x` raised accrued in fp.flags, and no other control register changed (R94). -/
def Accrues (x y : Ctx) (N : Nat) (k : BitVec 3) (fl : Nat → Nat) : Prop :=
  (∀ i, i < 64 → (bit (y.csrGet 0x11) i = true ↔ bit (x.csrGet 0x11) i = true ∨ ∃ e, e < N ∧ act x k e = true ∧ (fl e).testBit i = true)) ∧
  ∀ n, n ≠ 0x11 → y.csrGet n = x.csrGet n

/-- An element-wise effect (R223, R229): each active element of the group takes its result and raises its flags, the others keep theirs. -/
def Elementwise (x y : Ctx) (w : Nat) (d : BitVec 5) (n : Nat) (k : BitVec 3) (f : Nat → Nat × Nat) : Prop :=
  GroupSet x y w d.toNat n (fun e => if act x k e = true then some (f e).1 else none) ∧ Accrues x y (n * (2048 / w)) k (fun e => (f e).2)

/-- An instruction of two sources (R229), in its vector and its scalar form: `f` is of fmt.cfg, a, b and the element c of vd. -/
def Lanes2 (mk : BitVec 5 → BitVec 5 → BitVec 5 → BitVec 3 → BitVec 2 → BitVec 1 → BitVec 3 → Instr) (t : BitVec 3)
    (f : Word → Nat → Nat → Nat → Nat × Nat) : Prop :=
  ∀ (q : WideIn) (x : Ctx) (d a b : BitVec 5) (k : BitVec 3) (g : BitVec 2) (sh : BitVec 1),
    (wideEffect (mk d a b k g sh t) q x).2 = none ∧
    Elementwise x (wideEffect (mk d a b k g sh t) q x).1 (tyBits t) d (2 ^ g.toNat) k (fun e =>
      f q.fmt (elem x (tyBits t) a.toNat e) (argB q x b sh (tyBits t) e) (elem x (tyBits t) d.toNat e))

/-- An instruction of one source. -/
def Lanes1 (mk : BitVec 5 → BitVec 5 → BitVec 3 → BitVec 2 → BitVec 3 → Instr) (t : BitVec 3) (f : Word → Nat → Nat × Nat) : Prop :=
  ∀ (q : WideIn) (x : Ctx) (d a : BitVec 5) (k : BitVec 3) (g : BitVec 2),
    (wideEffect (mk d a k g t) q x).2 = none ∧
    Elementwise x (wideEffect (mk d a k g t) q x).1 (tyBits t) d (2 ^ g.toNat) k (fun e => f q.fmt (elem x (tyBits t) a.toNat e))

/-- A compare (R234): bit `e` of mask `m` says whether the active element `e` of the group meets the relation; k0 is not written. -/
def Compares (mk : BitVec 3 → BitVec 5 → BitVec 5 → BitVec 3 → BitVec 2 → BitVec 1 → BitVec 3 → Instr) (t : BitVec 3) (f : Nat → Nat → Bool) : Prop :=
  ∀ (q : WideIn) (x : Ctx) (m : BitVec 3) (a b : BitVec 5) (k : BitVec 3) (g : BitVec 2) (sh : BitVec 1),
    let y := (wideEffect (mk m a b k g sh t) q x).1
    (wideEffect (mk m a b k g sh t) q x).2 = none ∧ y = { x with kreg := y.kreg } ∧ (∀ i, i ≠ m.toNat ∨ i = 0 → mget y.kreg i 0 = mget x.kreg i 0) ∧
    (m.toNat ≠ 0 → ∀ e, e < 256 → bit (mget y.kreg m.toNat 0) e =
      (decide (e < 2 ^ g.toNat * (2048 / tyBits t)) && act x k e && f (elem x (tyBits t) a.toNat e) (argB q x b sh (tyBits t) e)))

/-- A mask as an instruction reads it: k0 is all ones (R164). -/
def maskAt (x : Ctx) (k : BitVec 3) : BitVec 256 := if k.toNat = 0 then BitVec.allOnes 256 else mget x.kreg k.toNat 0

/-- A mask takes a value; a write to k0 is discarded (R163). -/
def masked (x : Ctx) (k : BitVec 3) (v : BitVec 256) : Ctx := if k.toNat = 0 then x else { x with kreg := mset x.kreg k.toNat v }

/-- A pattern that raises no flag. -/
def plain (v : Nat) : Nat × Nat := (v, 0)

end Sys2Proof.Claim

namespace Sys2Proof.Claim

open Sys2Proof.Machine

/-! ### Engine commands -/

/-- An address operand of a command: the bytes from `lo` to `hi` about an address. In a window they keep within it and name a
mapped unit, whose home is resolved at issue; any other address stays virtual (R28, R43, R147, R152). -/
def Operand (s : State) (va : Word) (lo hi : Int) (k : Acc) (o : Opnd) (r : Region) : Prop :=
  if isWindow va = true then
    ∃ room loc : Nat, windowRoom va = some room ∧ 0 ≤ (windowOff va : Int) + lo ∧ hi ≤ room ∧
      s.windowHome (s.unitOf s.cur) (s.dirE s.cur).part va k = .ok loc ∧
      o = { va := va, home := some loc } ∧ r = { lo := 2 ^ 64 + ((loc : Int) + lo).toNat, len := (hi - lo).toNat }
  else o = { va := va } ∧ r = { lo := ((va.toNat : Int) + lo).toNat, len := (hi - lo).toNat }

/-- No region is longer than 2^32 bytes and no read region meets a write region (R152 item 4). -/
abbrev apart (reads writes : List Region) : Prop :=
  (∀ r ∈ reads ++ writes, r.len ≤ 2 ^ 32) ∧ ∀ r ∈ reads, ∀ w ∈ writes, w.meets r = false

/-- The scheduler entry a command of the executing context takes: one of the eight reserved to its slot while it has one, else one of
the 64 that all share (R145). -/
def schedEntry (s : State) : Option Nat :=
  match (s.dirE s.cur).place with
  | .slot _ sl => if ((s.unit (s.unitOf s.cur)).cmds.filter (fun k => k.slot == some sl)).length < 8 then some sl else none
  | _ => none

/-- What every accepted command captures of its context at issue (R145, R146, R133, R95). -/
def command (s : State) (i : Instr) : Cmd :=
  { seq := (s.unit (s.unitOf s.cur)).seq, issuer := s.cur, no := s.ids, lunit := (s.dirE s.cur).home, pc := (s.ctx s.cur).pc
    inH := (s.ctx s.cur).inHandler, word := (encode i).getD 0, part := (s.dirE s.cur).part, ctx := s.cur, asn := (s.ctx s.cur).asn
    sup := (s.ctx s.cur).sup, home := (s.dirE s.cur).home, fmt := (s.ctx s.cur).fmt, slot := schedEntry s, order := s.ids }

/-- The state with a command at the end of the unit's scheduler and the unit's sequence number one on; the status kept of an earlier
command of that number goes (R145, R146). -/
def scheduled (s : State) (k : Cmd) : State :=
  { s with ids := s.ids + 1 }.modUnit (s.unitOf s.cur) (fun x =>
    { x with seq := (x.seq + 1) % 2 ^ 24, done := x.done.filter (fun e => e.1 != x.seq), cmds := x.cmds ++ [k] })

/-- Acceptance of a command that gives its transfer identifier to an s register (R145, R146). -/
def accepted (s : State) (i : Instr) (d : BitVec 5) (k : Cmd) : State :=
  written (scheduled (begun s i) k) d (BitVec.ofNat 64 ((s.dirE s.cur).home * 2 ^ 32 + 2 ^ 31 + (s.unit (s.unitOf s.cur)).seq % 2 ^ 24))

/-- A scheduler entry is free for the executing context (R145). -/
abbrev schedFree (s : State) : Prop :=
  schedEntry s ≠ none ∨ ((s.unit (s.unitOf s.cur)).cmds.filter (fun k => k.slot == none)).length < 64

/-- The shape image a command names. -/
def shapeAt (s : State) (h : BitVec 4) : BitVec 512 := mget (s.ctx s.cur).hreg h.toNat 0

/-- No soft error stands in shape register `h` (R383). -/
abbrev shapeSound (s : State) (h : BitVec 4) : Prop := mget s.regErr (regKey s.cur 5 h.toNat) 0 = 0

/-- The fields of a copy-class shape as R133 and R152 item 1 ask. -/
abbrev CopyFields (h : BitVec 512) (kind : Nat) (fill index : Bool) : Prop :=
  let q := copyShape h
  q.kind = kind ∧ shapeF h 0 / 2 ^ 20 = 0 ∧ shapeF h 0 / 2 ^ 12 % 16 = 0 ∧ (kind ≠ 3 → q.cop = 0) ∧ shapeF h 8 / 2 ^ 8 % 256 = 0 ∧
    shapeF h 8 / 2 ^ 4 % 4 = 0 ∧ tagOk q.otag = true ∧ 1 ≤ q.n0 ∧ q.n0 ≤ 2 ^ 24 - 1 ∧ (q.fem = 1 → q.e = 8 ∧ fill = false) ∧
    (index = false → q.mbe = false ∧ q.ifm = false)

/-- Addresses and strides are multiples of the element size (R152 item 2). -/
abbrev Multiples (l : List Int) (e : Nat) : Prop := ∀ v ∈ l, v % (e : Int) = 0

/-- GATH and SCAT (R152, R154, R155): where the checks of R152 pass, the command is accepted with its three operands, the miss
bitmap among its write regions when MBE asks for one. -/
def IndexAccepts (mk : BitVec 5 → BitVec 5 → BitVec 5 → BitVec 4 → Instr) (gath : Bool) : Prop :=
  ∀ (s : State) (d a b : BitVec 5) (h : BitVec 4) (dop so lo : Opnd) (dr sr lr : Region) (ms : List Region),
    canRead s a → canRead s b → canRead s d → shapeSound s h → CopyFields (shapeAt s h) 2 false true →
    let q := copyShape (shapeAt s h)
    Multiples [((regVal s b).toNat : Int), ((regVal s a).toNat : Int), q.ss0, q.ds0] q.e → (regVal s d).toNat % 4 = 0 →
    (if q.mbe = true then q.sp % 8 = 0 ∧ q.sp + (q.n0 + 7) / 8 ≤ 0x80000 ∧ ms = [homeRegion (unitLoc (s.unitOf s.cur) q.sp) ((q.n0 + 7) / 8)]
      else ms = []) →
    Operand s (regVal s d) 0 ((q.n0 : Int) * 4) accR lo lr →
    Operand s (regVal s b) (rowSpan q (if gath then q.n1 else q.n0) q.ss0).1 (rowSpan q (if gath then q.n1 else q.n0) q.ss0).2 accR so sr →
    Operand s (regVal s a) (rowSpan q (if gath then q.n0 else q.n1) q.ds0).1 (rowSpan q (if gath then q.n0 else q.n1) q.ds0).2 accW dop dr →
    apart [lr, sr] (dr :: ms) → schedFree s →
    exec (mk d a b h) s = .next ((accepted s (mk d a b h) d
      { command s (mk d a b h) with shape := shapeAt s h, ops := [dop, so, lo], reads := [lr, sr], writes := dr :: ms }).retire false)

/-- TMOV and TMOV.TG (R126, R127): where the checks pass, a command of whole granules is accepted. -/
def TileMoveAccepts (mk : BitVec 5 → BitVec 5 → BitVec 5 → BitVec 4 → Instr) (tagged : Bool) : Prop :=
  ∀ (s : State) (d a b : BitVec 5) (h : BitVec 4) (dop so : Opnd) (dr sr : Region),
    canRead s a → canRead s b → canName s d → shapeSound s h →
    let n := shapeF (shapeAt s h) 1
    1 ≤ n → n ≤ 32768 → tagOk (shapeF (shapeAt s h) 8 / 2 ^ 16) = true → (regVal s a).toNat % 1024 = 0 → (regVal s b).toNat % 1024 = 0 →
    Operand s (regVal s b) 0 ((1024 * n : Nat) : Int) accR so sr → Operand s (regVal s a) 0 ((1024 * n : Nat) : Int) accW dop dr →
    (isWindow (regVal s b) = true ∨ isWindow (regVal s a) = true) → (tagged = false → isWindow (regVal s b) = true) → schedFree s →
    exec (mk d a b h) s = .next ((accepted s (mk d a b h) d
      { command s (mk d a b h) with shape := shapeAt s h, ops := [dop, so], reads := [sr], writes := [dr] }).retire false)

/-- A tag access of the executing context at a home near it meets nothing that holds it back (R117, R124, R128). -/
abbrev tagFree (s : State) (loc : Nat) : Prop :=
  near s loc ∧ wordFree s loc ∧ (∀ e ∈ (s.unit (s.unitOf s.cur)).sb, e.ctx = s.cur → e.rs = 2 ∨ e.meets (loc / 1024 * 1024) 1024 = false) ∧
    mget s.tagErr (loc / 1024) 0 = 0

/-- The home of a window address (R43), for TTAG and TGET. -/
abbrev TagHome (s : State) (va : Word) (k : Acc) (loc : Nat) : Prop :=
  isWindow va = true ∧ windowRoom va ≠ none ∧ s.windowHome (s.unitOf s.cur) (s.dirE s.cur).part va k = .ok loc

/-- A home is in a scratchpad, where granules have tags (R120). -/
abbrev taggedHome (loc : Nat) : Prop := 2 ^ 50 ≤ loc

/-- A granule's tag after TTAG: the new one, or the old one where .cas expected another (R128). -/
def tagAfter (s : State) (loc : Nat) (v : Word) (cas : Bool) : Nat :=
  if cas = true ∧ (s.tagAt loc).toNat ≠ v.toNat / 2 ^ 16 % 2 ^ 16 then (s.tagAt loc).toNat else v.toNat % 2 ^ 16

/-- TTAG and TTAG.CAS (R128): rd takes the old tag; the granule, and no other, takes the new one; memory stays. -/
def TagWrites (mk : BitVec 5 → BitVec 5 → BitVec 5 → Instr) (cas : Bool) : Prop :=
  ∀ (s : State) (d a b : BitVec 5) (loc : Nat), canRead s a → canRead s b → canName s d → TagHome s (regVal s a) accW loc →
    taggedHome loc → tagOk ((regVal s b).toNat % 2 ^ 16) = true → tagFree s loc →
    ∃ t, exec (mk d a b) s = .next t ∧ (d.toNat ≠ 0 → (t.ctx s.cur).s d.toNat = (s.tagAt loc).setWidth 64) ∧
      (t.tagAt loc).toNat = tagAfter s loc (regVal s b) cas ∧ (∀ g, g / 1024 ≠ loc / 1024 → t.tagAt g = s.tagAt g) ∧
      t.mem = s.mem ∧ (t.ctx s.cur).pc = (s.ctx s.cur).pc + 4 ∧ (∀ i, i ≠ d.toNat → (t.ctx s.cur).s i = (s.ctx s.cur).s i)

/-- The accumulator commands MMA, MMAZ and MMAS (R252, R253): where the checks of R253 pass, the command is accepted for its
accumulator with the shape image; `.ca` and `.cb` advance C of their handles at once, `.wt` claims the slots. -/
def MatrixAccepts (mk : BitVec 3 → BitVec 6 → BitVec 6 → BitVec 4 → BitVec 1 → BitVec 1 → BitVec 1 → Instr) (fresh : Bool) : Prop :=
  ∀ (s : State) (d : BitVec 3) (ha hb : BitVec 6) (h : BitVec 4) (w cb ca : BitVec 1) (A B G : Handle),
    let i := mk d ha hb h w cb ca
    let u := s.unitOf s.cur
    let q := matShape (shapeAt s h)
    (s.ctx s.cur).dq = [] → shapeSound s h → (∀ j, j < 4 → mget s.regErr (regKey s.cur 6 j) 0 = 0) →
    (s.unit u).handle (s.dirE s.cur).part ha.toNat = some A → (s.unit u).handle (s.dirE s.cur).part hb.toNat = some B →
    (if q.scl = true then (s.unit u).handle (s.dirE s.cur).part q.sh = some G else G = A) → matShapeOk (shapeAt s h) = true →
    q.a * q.ksteps ≤ A.ssize → q.ksteps ≤ B.ssize → (q.scl = true → q.off + q.scaleBytes ≤ G.ssize * 1024 ∧
      (G.slot G.c = 3 ∨ (w = 1 ∧ (q.sh = ha.toNat ∨ q.sh = hb.toNat)))) →
    (q.spc ≠ 0 → q.masks + q.maskBytes ≤ 0x80000) →
    (if w = 1 then (A.slot A.c = 2 ∨ A.slot A.c = 3) ∧ (B.slot B.c = 2 ∨ B.slot B.c = 3) else A.slot A.c = 3 ∧ B.slot B.c = 3) →
    (fresh = false → s.accFull s.cur d.toNat = true ∧ s.accMode s.cur d.toNat = q.int) → schedFree s →
    ∃ t k, exec i s = .next t ∧ (t.unit u).cmds = (s.unit u).cmds ++ [k] ∧ k.issuer = s.cur ∧ k.acc = some (s.cur, d.toNat) ∧
      k.shape = shapeAt s h ∧ k.word = (encode i).getD 0 ∧ k.fmt = (s.ctx s.cur).fmt ∧ k.started = false ∧
      k.cbs = (List.range 4).map (fun j => mget (s.ctx s.cur).cb j 0) ∧ t.mem = s.mem ∧ (t.ctx s.cur).areg = (s.ctx s.cur).areg ∧
      (t.ctx s.cur).pc = (s.ctx s.cur).pc + 4 ∧
      (∀ x, mfind (t.unit u).bt ha.toNat = some x → x.p = A.p ∧
        x.c = if ca = 1 ∨ (cb = 1 ∧ ha = hb) then (A.c + 1) % A.nslot else A.c)

/-- A started command of a unit that works, whose accesses no packet before them on their ways holds back, and, where it needs Acre,
while Acre's engines run (R15, R25, R393). -/
abbrev mayRun (s : State) (k : Cmd) : Prop :=
  s.powered s.arg.n0 = true ∧ s.cmdOf s.arg.n0 s.arg.n1 true = some k ∧ s.reaches s.arg.n0 k = true ∧
    (isCroft s.arg.n0 = true → k.onAcre = true → s.acreRuns = true)

/-! ### What a command's effect leaves -/

/-- Nothing in the state disturbs a command between scratchpads: no failed link, no soft error, nothing waiting on a word, no unit
gated, Croft not in standby. -/
abbrev quiet (s : State) : Prop :=
  s.badLinks = [] ∧ s.memErr = [] ∧ s.tagErr = [] ∧ s.waits = [] ∧ s.island.standby = false ∧ (∀ u, (s.unit u).gated = false) ∧
    Memory.wf s.mem = true

/-- One place a command writes: its home, its bytes, the value they take, and the full/empty bit its word takes, if any. -/
structure Put where
  loc : Nat
  n : Nat
  val : Nat
  fe : Option Bool

/-- The full/empty bit FEM gives a destination word (R131): none, the source's, full, empty. -/
def feGiven (fem : Nat) (src : Bool) : Option Bool := if fem = 0 then none else if fem = 1 then some src else some (fem == 2)

/-- The element at `src` put at `dst`. -/
def copied (s : State) (src dst n fem : Nat) : Put := { loc := dst, n := n, val := leVal s.mem src n, fe := feGiven fem (s.feAt src) }

/-- A home at a distance. -/
def at_ (loc : Nat) (off : Int) : Nat := ((loc : Int) + off).toNat

/-- `t` is `s` after the writes of a command: every place holds its value and bit, no other byte and no other bit changed; a granule
written whole has the tag given for it, one written in part has lost V, the others keep theirs (R123). -/
def Wrote (s t : State) (tag : Nat → BitVec 16) (l : List Put) : Prop :=
  (∀ p ∈ l, leVal t.mem p.loc p.n = p.val ∧ ∀ b, p.fe = some b → t.feAt p.loc = b) ∧
  (∀ b, (∀ p ∈ l, b < p.loc ∨ p.loc + p.n ≤ b) → memGet t.mem b = memGet s.mem b) ∧
  (∀ b, (∀ p ∈ l, p.fe = none ∨ p.loc / 8 ≠ b / 8) → t.feAt b = s.feAt b) ∧
  ∀ g, ((∀ b, b / 1024 = g → ∃ p ∈ l, p.loc ≤ b ∧ b < p.loc + p.n) → t.tagAt (1024 * g) = tag (1024 * g)) ∧
    ((∃ b, b / 1024 = g ∧ ∃ p ∈ l, p.loc ≤ b ∧ b < p.loc + p.n) → (∃ b, b / 1024 = g ∧ ∀ p ∈ l, b < p.loc ∨ p.loc + p.n ≤ b) →
      t.tagAt (1024 * g) = s.tagAt (1024 * g) &&& 0xFFDF) ∧
    ((∀ b, b / 1024 = g → ∀ p ∈ l, b < p.loc ∨ p.loc + p.n ≤ b) → t.tagAt (1024 * g) = s.tagAt (1024 * g))

/-- The destination rows of a strided command of one plane do not meet, and full/empty bits are copied of whole words (R133, R152). -/
abbrev rowsApart (q : CopyShape) : Prop :=
  q.n2 = 1 ∧ (q.n1 = 1 ∨ q.n0 * q.e ≤ q.ds0.natAbs) ∧ q.ds0 % (q.e : Int) = 0 ∧ (q.fem = 1 → q.e = 8)

/-- A sum of 32-bit integers, each addition saturated, and whether one was (R156). -/
def saturatedSum (l : List Int) : Int × Bool :=
  l.foldl (fun a v => (max (-2 ^ 31) (min (2 ^ 31 - 1) (a.1 + v)), a.2 || decide (a.1 + v < -2 ^ 31) || decide (2 ^ 31 ≤ a.1 + v))) (0, false)

/-- Element `e` of an accumulator, as a pattern of 32 bits (R250), and the integer of such a pattern. -/
def accAt (x : Ctx) (a e : Nat) : Nat := (mget x.areg a 0).toNat / 2 ^ (32 * e) % 2 ^ 32
def toInt32 (v : Nat) : Int := if v < 2 ^ 31 then v else v - 2 ^ 32

/-- An element of an INT32 accumulator after `n` steps over dense INT8 tiles (R249, R254, R104): step `t` adds, or subtracts, the dot product
of row `i` of A granule `t` and column `j` of B granule `t`, and saturates. -/
def int8Steps (m : List Host.Cell) (al bl i j : Nat) (neg : Bool) : Nat → Int → Int
  | 0, v => v
  | t + 1, v =>
    let p : Int := ((List.range 64).map (fun e => sgn 1 (leVal m (al + 1024 * t + 64 * i + e) 1) * sgn 1 (leVal m (bl + 1024 * t + 64 * j + e) 1))).sum
    let r := int8Steps m al bl i j neg t v + (if neg then -p else p)
    max (-2 ^ 31) (min (2 ^ 31 - 1) r)

end Sys2Proof.Claim

namespace Sys2Proof.Claim

open Sys2Proof.Machine

/-! ### Reads of several places in order -/

/-- An address resolves, its translation being there (R52), to a home that is no register block (R135, R243). -/
abbrev resolvesMem (s : State) (va : Word) (k : Acc) (loc : Nat) (t : State) : Prop := resolves s va k loc t ∧ isRegBlock loc = false

/-- The homes of a list of addresses, each resolved in the state the one before it left. -/
def Homes (k : Acc) : State → List Word → List Nat → State → Prop
  | s, [], l, t => l = [] ∧ t = s
  | s, va :: vs, l, t => ∃ loc r u, l = loc :: r ∧ resolvesMem s va k loc u ∧ Homes k u vs r t

/-- A place in another unit's scratchpad that the waiting instruction has fetched over the mesh (R114). -/
abbrev fetched (s : State) (loc n v : Nat) : Prop :=
  isRemote (s.unitOf s.cur) loc = true ∧ v < 2 ^ (8 * n) ∧
    (s.ctx s.cur).got.find? (fun g => g.loc == loc && g.n == n) = some { loc := loc, n := n, val := BitVec.ofNat 64 v }

/-- A read of `n` bytes at a home that answers at once, or that has been fetched, with its value. -/
def ReadAt (n : Nat) (s : State) (loc v : Nat) (t : State) : Prop :=
  (v = leVal s.mem loc n ∧ near s loc ∧ noStoreMeets s loc n ∧ sound s loc n ∧ t = s.touchRun loc n) ∨ (fetched s loc n v ∧ t = s)

/-- Reads of `n` bytes at a list of homes, with their values. -/
def Reads (n : Nat) : State → List Nat → List Nat → State → Prop
  | s, [], l, t => l = [] ∧ t = s
  | s, loc :: ls, l, t => ∃ v r u, l = v :: r ∧ ReadAt n s loc v u ∧ Reads n u ls r t

/-- `n` doublewords from an address upwards, each resolved and read in turn (R135). -/
def Dwords : Nat → State → Word → List Nat → State → Prop
  | 0, s, _, l, t => l = [] ∧ t = s
  | n + 1, s, va, l, t => ∃ loc v u w r, resolvesMem s va accR loc u ∧ l = v :: r ∧ ReadAt 8 u loc v w ∧ Dwords n w (va + 8) r t

/-- A place in another unit's scratchpad that has not been fetched and that a read may ask for now (R19, R114, R304, R306). -/
abbrev unfetched (s : State) (loc n : Nat) : Prop :=
  isRemote (s.unitOf s.cur) loc = true ∧ (∀ g ∈ (s.ctx s.cur).got, g.loc ≠ loc ∨ g.n ≠ n) ∧ s.cutOff (s.unitOf s.cur) loc = false ∧
    s.bridgeFull (s.unitOf s.cur) (homeUnit (s.unitOf s.cur) loc) = false ∧ noStoreMeets s loc n

/-- A read of `n` bytes asked of the unit that answers for a home; the context waits with its pc (R114). -/
def asked (s : State) (va : Word) (loc n : Nat) : State :=
  ({ s with pkts := s.pkts ++ [{ src := s.unitOf s.cur, dst := homeUnit (s.unitOf s.cur) loc
                                 body := .access { ctx := s.cur, loc := loc, op := .elem n, va := va, insn := s.insn } }] } : State).parkCtx wMem true

/-- The elements of a group that a mask makes active (R223). -/
def activeOf (s : State) (k : BitVec 3) (n : Nat) : List Nat := (List.range n).filter (fun e => bit ((s.ctx s.cur).k k.toNat) (e % 256))

/-- The elements of a group of 2^g registers of a type. -/
def eltCount (g : BitVec 2) (t : BitVec 3) : Nat := 2 ^ g.toNat * (2048 / tyWidth t)

/-- No soft error stands in mask `k`; k0 is no register (R164, R383). -/
abbrev maskSound (s : State) (k : Nat) : Prop := k ≠ 0 → mget s.regErr (regKey s.cur 3 k) 0 = 0

/-- A vector load (R114, R242, R243): with nothing queued before it, its active elements' addresses resolve in element order, are read,
and enter their registers; for the first that stands in another unit's scratchpad and has not been fetched, it asks that unit. -/
def VectorLoads (mk : BitVec 5 → BitVec 5 → BitVec 5 → BitVec 3 → BitVec 2 → BitVec 3 → Instr) (okAddr : Word → Word → Nat → Prop)
    (addr : Word → Word → Nat → Nat → Word) : Prop :=
  ∀ (s t u : State) (d a b : BitVec 5) (k : BitVec 3) (g : BitVec 2) (ty : BitVec 3) (locs vals : List Nat),
    let n := tyWidth ty / 8
    let es := activeOf s k (eltCount g ty)
    let vas := es.map (addr (regVal s a) (regVal s b) n)
    canRead s a → canRead s b → (s.ctx s.cur).dq = [] → okAddr (regVal s a) (regVal s b) n → maskSound s k.toNat →
    Homes accR (begun s (mk d a b k g ty)) vas locs t →
    (Reads n t locs vals u →
      exec (mk d a b k g ty) s = .next ((u.modCtx u.cur (fun x => x.loadGroup d.toNat (tyWidth ty) (eltCount g ty) (es.zip vals))).retire false)) ∧
    (∀ (bl al : List Nat) (loc : Nat), locs = bl ++ loc :: al → Reads n t bl vals u → unfetched u loc n →
      exec (mk d a b k g ty) s = .next (asked u (vas.getD bl.length 0) loc n))

/-- No instruction waiting in the context's dispatch queue writes mask `k` or one of some registers, which are full, and no soft error
stands in them (R243, R383). -/
abbrev settled (s : State) (k : Nat) (regs : List Nat) : Prop :=
  (s.ctx s.cur).dqWrites k regs = false ∧ maskSound s k ∧ ∀ v ∈ regs, bit (s.ctx s.cur).vFull v = true ∧ mget s.regErr (regKey s.cur 2 v) 0 = 0

/-- A queue with room, in which every wide instruction that runs at its head has run (R21, R243). -/
abbrev queueFree (s : State) : Prop := (s.ctx s.cur).nextWide = none ∧ (s.ctx s.cur).dq.length < 4

/-- A vector store after its homes are known (R243): an entry of the store buffer without its data, whose pieces name their
elements, and an entry of the dispatch queue that gives the data at the head. -/
def vectorStored (s : State) (i : Instr) (scalars : List Word) (es : List Nat) (vas : List Word) (locs : List Nat) (n : Nat) (keep : Bool) (add : Option Nat)
    (bad : BitVec 256) : State :=
  (entered s (ordered s
    { id := 0, ctx := 0, pc := 0, size := 4, keepTag := keep, rs := 1, data := false
      pieces := (es.zip (vas.zip locs)).map (fun p => { va := p.2.1, loc := p.2.2, n := n, data := p.1, add := add }) })).modCtx s.cur
    (fun x => { x with dq := x.dq ++ [{ word := (encode i).getD 0, pc := x.pc, scalars := scalars, store := some s.ids, fmt := x.fmt, bad := bad }] })

/-- A vector store of the active elements of a group (R242, R243). -/
def VectorStores (mk : BitVec 5 → BitVec 5 → BitVec 5 → BitVec 3 → BitVec 2 → BitVec 1 → BitVec 3 → Instr)
    (okAddr : Word → Word → Nat → Prop) (addr : Word → Word → Nat → Nat → Word) : Prop :=
  ∀ (s t : State) (d a b : BitVec 5) (k : BitVec 3) (g : BitVec 2) (x : BitVec 1) (ty : BitVec 3) (locs : List Nat),
    let n := tyWidth ty / 8
    let es := activeOf s k (eltCount g ty)
    let vas := es.map (addr (regVal s a) (regVal s b) n)
    canRead s a → canRead s b → okAddr (regVal s a) (regVal s b) n → settled s k.toNat [] →
    Homes accW (begun s (mk d a b k g x ty)) vas locs t → queueFree s → storeRoom t →
    exec (mk d a b k g x ty) s = .next ((vectorStored t (mk d a b k g x ty) [regVal s a, regVal s b] es vas locs n (x == 1) none 0).retire false)

/-- The sum form of R242: base and index are added. -/
abbrev sumOk (a b : Word) (n : Nat) : Prop := (a + b).toNat % n = 0
/-- Element addresses of the sum form. -/
def sumAddr (a b : Word) (n e : Nat) : Word := a + b + BitVec.ofNat 64 (e * n)
/-- The strided form of R242: base and stride are multiples of the element size. -/
abbrev strideFits (a b : Word) (n : Nat) : Prop := a.toNat % n = 0 ∧ b.toNat % n = 0
/-- Element addresses of the strided form. -/
def strideAddr (a b : Word) (_n e : Nat) : Word := a + BitVec.ofNat 64 e * b

/-- A scatter (R244): its good elements' addresses resolve; the bad ones go to the mask at the head. -/
def Scatters (mk : BitVec 5 → BitVec 5 → BitVec 5 → BitVec 3 → BitVec 2 → BitVec 1 → BitVec 3 → Instr) (acc : Acc) (add : BitVec 3 → Option Nat) : Prop :=
  ∀ (s t : State) (d a b : BitVec 5) (k : BitVec 3) (g : BitVec 2) (x : BitVec 1) (ty : BitVec 3) (locs : List Nat),
    let n := tyWidth ty / 8
    let ix := d.toNat + 2 ^ g.toNat
    let es := activeOf s k (eltCount g ty)
    let isBad := fun e => (s.ctx s.cur).badIndex ix (tyWidth ty) (regVal s b) e
    let good := es.filter (fun e => !isBad e)
    let vas := good.map (fun e => regVal s a + BitVec.ofNat 64 ((s.ctx s.cur).elt ix (tyWidth ty) e * n))
    canRead s a → canRead s b → settled s k.toNat (rangeFrom ix (2 ^ g.toNat)) → (regVal s a).toNat % n = 0 →
    (bit (regVal s b) 63 = true → ∀ e ∈ es, isBad e = false) →
    Homes acc (begun s (mk d a b k g x ty)) vas locs t → queueFree s → storeRoom t →
    exec (mk d a b k g x ty) s = .next ((vectorStored t (mk d a b k g x ty) [regVal s a, regVal s b] good vas locs n (x == 1) (add ty)
      ((s.ctx s.cur).badMask ix (tyWidth ty) (regVal s b) es)).retire false)

end Sys2Proof.Claim

namespace Sys2Proof.Claim

open Sys2Proof.Machine

/-! ### Buffer handles -/

/-- A register names a handle of the executing context's unit that its partition owns (R136). -/
abbrev ownsHandle (s : State) (v : Word) (A : Handle) : Prop :=
  v.toNat < 64 ∧ (s.unit (s.unitOf s.cur)).handle (s.dirE s.cur).part v.toNat = some A

/-- Replaces a handle of the executing context's unit. -/
def withHandle (s : State) (h : Nat) (A : Handle) : State := s.modUnit (s.unitOf s.cur) (fun u => { u with bt := mset u.bt h A })

/-- A new ring from HALLOC's operand (R138): base, slot size and number of slots, every slot free. -/
def newRing (s : State) (ring : Word) : Handle :=
  { part := (s.dirE s.cur).part, base := ring.toNat % 2 ^ 9, ssize := ring.toNat / 2 ^ 9 % 2 ^ 6 + 1, nslot := ring.toNat / 2 ^ 15 % 2 ^ 6 + 1
    slots := List.replicate (ring.toNat / 2 ^ 15 % 2 ^ 6 + 1) 0 }

/-- The ring lies in the unit scratchpad and the reserved bits are zero (R138). -/
abbrev ringFits (s : State) (ring : Word) : Prop :=
  ring.toNat < 2 ^ 21 ∧ (newRing s ring).base + (newRing s ring).ssize * (newRing s ring).nslot ≤ 512

/-- The handle a value names was not freed under the context while it was parked on it (R139). -/
abbrev notFreed (s : State) (v : Word) : Prop := (s.dirE s.cur).hfreed = false ∨ (s.dirE s.cur).hwait ≠ some v.toNat

/-- A context's park on a handle, if it was in one, is over. -/
def parkEnded (s : State) : State :=
  if (s.dirE s.cur).hwait.isSome = true then s.modDir s.cur (fun d => { d with hwait := none, hfreed := false }) else s

/-- HWAIT and HSPACE (R140): the slots from the pointer, each in the state the side takes or the one it works in, are claimed, and
rd takes the own-unit address of the first. -/
def Claims (mk : BitVec 5 → BitVec 5 → BitVec 5 → Instr) (ptr : Handle → Nat) (free work : Nat) : Prop :=
  ∀ (s : State) (d a b : BitVec 5) (A : Handle), canRead s a → canRead s b → canName s d → notFreed s (regVal s a) →
    ownsHandle s (regVal s a) A → 1 ≤ (regVal s b).toNat → (regVal s b).toNat ≤ A.nslot →
    (∀ i, i < (regVal s b).toNat → A.slot ((ptr A + i) % A.nslot) = free ∨ A.slot ((ptr A + i) % A.nslot) = work) →
    ∃ slots, exec (mk d a b) s = .next ((written (withHandle (parkEnded (begun s (mk d a b))) (regVal s a).toNat { A with slots := slots }) d
        (0xFFFF100000000000 + BitVec.ofNat 64 ((A.base + ptr A * A.ssize) * 1024))).retire false) ∧
      slots.length = A.slots.length ∧
      (∀ j, j < A.slots.length → slots.getD j 0 =
        if ∃ i, i < (regVal s b).toNat ∧ (ptr A + i) % A.nslot = j then work else A.slots.getD j 0)

/-- HADV (R141, R320): the pointer moves at once; with no command at the unit, none of the context's stores or queued loads under
way, and no sibling's store pending that it has read, the slots take their new state at once. -/
def Advances (mk : BitVec 5 → BitVec 5 → Instr) (full : Bool) (ptr : Handle → Nat) (work done : Nat) : Prop :=
  ∀ (s : State) (a b : BitVec 5) (A : Handle), canRead s a → canRead s b → ownsHandle s (regVal s a) A →
    1 ≤ (regVal s b).toNat → (regVal s b).toNat ≤ A.nslot →
    (∀ i, i < (regVal s b).toNat → A.slot ((ptr A + i) % A.nslot) = work) →
    ∃ t B, exec (mk a b) s = .next t ∧ mfind (t.unit (s.unitOf s.cur)).bt (regVal s a).toNat = some B ∧
      B.p = (if full then (A.p + (regVal s b).toNat) % A.nslot else A.p) ∧ B.c = (if full then A.c else (A.c + (regVal s b).toNat) % A.nslot) ∧
      B.base = A.base ∧ B.ssize = A.ssize ∧ B.nslot = A.nslot ∧ t.mem = s.mem ∧ (t.ctx s.cur).pc = (s.ctx s.cur).pc + 4 ∧
      ((s.unit (s.unitOf s.cur)).cmds = [] → (∀ e ∈ (s.unit (s.unitOf s.cur)).sb, e.ctx ≠ s.cur ∧ e.id ∉ (s.dirE s.cur).sibRead) →
        (s.ctx s.cur).ldqOut = [] → A.adv = [] →
        A.slots.length = A.nslot → ∀ i, i < (regVal s b).toNat → B.slot ((ptr A + i) % A.nslot) = done)

/-- HSTAT's three forms (R142). -/
def HandleReads (mk : BitVec 5 → BitVec 5 → Instr) (f : Handle → Word) : Prop :=
  ∀ (s : State) (d a : BitVec 5), canRead s a → canName s d → (regVal s a).toNat < 64 →
    exec (mk d a) s = .next ((written (begun s (mk d a)) d
      (match (s.unit (s.unitOf s.cur)).handle (s.dirE s.cur).part (regVal s a).toNat with | some A => f A | none => 0)).retire false)

/-! ### Gaussian commands -/

/-- A GME instruction (R275, R276): at the head of the dispatch queue, with its addresses as its kind takes them and its records
apart, it is accepted with its operands: destination, source, second source and counter. -/
def GmeAccepts (mk : BitVec 5 → BitVec 5 → BitVec 5 → BitVec 4 → BitVec 1 → Instr) (kd : GKind) (two send shaped : Bool) : Prop :=
  ∀ (s : State) (d a b : BitVec 5) (h : BitVec 4) (y : BitVec 1) (src : Word) (A : Handle) (so bo dop co : Opnd) (sr br dr cr : Region),
    let i := mk d a b h y
    let img := shapeAt s (if shaped then h else 0)
    let cnt := if send then regVal s b else 0
    canRead s a → canRead s d → (two = true ∨ send = true → canRead s b) → (shaped = true → shapeSound s h) → (s.ctx s.cur).dq = [] →
    (if y = 1 then ownsHandle s (regVal s a) A ∧ A.slot A.c = 3 ∧ 2 ≤ A.ssize ∧
        src = 0xFFFF100000000000 + BitVec.ofNat 64 ((A.base + A.c * A.ssize) * 1024) else src = regVal s a) →
    gShapeOk kd img = true → (regVal s d).toNat % 64 = 0 → src.toNat % 64 = 0 → (two = true → (regVal s b).toNat % 64 = 0) →
    cnt.toNat % 8 = 0 → gAddrOk kd (regVal s d) src cnt = true →
    Operand s src 0 1152 accR so sr → (if two then Operand s (regVal s b) 0 1152 accR bo br else bo = { va := 0 }) →
    Operand s (regVal s d) 0 1152 accW dop dr → (if cnt = 0 then co = { va := 0 } else Operand s cnt 0 8 accW co cr) →
    let reads := sr :: (if two then [br] else [])
    let writes := dr :: ((if cnt = 0 then [] else [cr]) ++ (if kd = .gld true then [sr] else []))
    (∀ r ∈ reads, ∀ w ∈ writes, r.meets w = true → r = w) → schedFree s →
    exec i s = .next ((accepted s i d { command s i with
      shape := img, ops := [dop, so, bo, co], args := [(s.ctx s.cur).csrGet 0x40, (s.ctx s.cur).csrGet 0x41, cnt]
      reads := reads ++ (if y = 1 then [homeRegion (unitLoc (s.unitOf s.cur) ((A.base + A.c * A.ssize) * 1024)) (A.ssize * 1024)] else [])
      writes := writes, handles := if y = 1 then [(regVal s a).toNat] else [] }).retire false)

/-! ### The snapshot unit -/

/-- The logical unit that a window address names is not migrating (R28). -/
abbrev notMigrating (s : State) (va : Word) : Prop :=
  isWindow va = true → s.windowHome (s.unitOf s.cur) (s.dirE s.cur).part va accW ≠ .wait wLum

/-- The snapshot unit can be reached (R25). -/
abbrev ssuAwake (s : State) : Prop := isCroft (s.unitOf s.cur) = true → s.island.st = 0

/-- A value names an open iteration of the context's partition (R293, R299). -/
abbrev opensIter (s : State) (v : Word) (e : Nat) (it : Iter) : Prop :=
  v.toNat < 2 ^ 16 ∧ e = v.toNat % 256 ∧ it = mget s.reapIters.ssu e {} ∧ it.st = 1 ∧ it.gen = v.toNat / 256 ∧ it.part = (s.dirE s.cur).part

end Sys2Proof.Claim

namespace Sys2Proof.Claim

open Sys2Proof.Machine

/-! ### Deliveries -/

/-- A capability of the executing context's partition whose check field holds, with a right (R177, R182). -/
abbrev capGives (s : State) (c : Word) (right : Nat) : Prop := s.capOk (s.dirE s.cur).part c = true ∧ bit c right = true

/-- Fewer than sixteen deliveries of the context are unacknowledged, nothing before it is pending (R182, R189, R311), and neither
the queue it may need at its target's unit nor a bridge on its way is full (R19, R186, R264). -/
abbrev mayInject (s : State) (cap : Word) (kind : DKind) : Prop :=
  (s.dirE s.cur).unacked < 16 ∧ s.relOk s.cur = true ∧
    ((s.targetWay (s.unitOf s.cur) cap).2 = .to →
      (capDev cap = s.devNo → s.targetFull (s.targetWay (s.unitOf s.cur) cap).1 kind = false) ∧
        s.bridgeFull (s.unitOf s.cur) (s.targetWay (s.unitOf s.cur) cap).1 = false)

/-- The instruction has injected one delivery of a value and kind under a capability, on its way to the unit that its target's home
maps to at issue, and changed no register (R28, R182, R183). -/
def Injects (s : State) (i : Instr) (cap : Word) (val : VWord) (kind : DKind) : Prop :=
  ∃ t p d, exec i s = .next t ∧ t.pkts = s.pkts ++ [p] ∧ p.src = s.unitOf s.cur ∧
    (p.dst, p.way) = s.targetWay (s.unitOf s.cur) cap ∧ p.body = .delivery d ∧ d.sender = s.cur ∧ d.cap = cap ∧
    d.val = val ∧ d.kind = kind ∧ d.pc = (s.ctx s.cur).pc ∧ (t.dirE s.cur).unacked = (s.dirE s.cur).unacked + 1 ∧ t.mem = s.mem ∧
    (t.ctx s.cur).pc = (s.ctx s.cur).pc + 4 ∧ (∀ r, (t.ctx s.cur).s r = (s.ctx s.cur).s r)

/-- SEND and SENDW (R182): an s register goes to class s or m, a vector to class v, a mask to class k. -/
def Sends (mk : BitVec 5 → BitVec 5 → BitVec 2 → Instr) (right : Nat) (kind : DKind) : Prop :=
  ∀ (s : State) (d a : BitVec 5), canRead s a → capGives s (regVal s a) right → mayInject s (regVal s a) kind →
    (capCls (regVal s a) < 2 → canRead s d → Injects s (mk d a 0) (regVal s a) ((regVal s d).setWidth 2048) kind) ∧
    (capCls (regVal s a) = 2 → (s.ctx s.cur).dqWrites 0 [d.toNat] = false → bit (s.ctx s.cur).vFull d.toNat = true →
      mget s.regErr (regKey s.cur 2 d.toNat) 0 = 0 → Injects s (mk d a 1) (regVal s a) (mget (s.ctx s.cur).vreg d.toNat 0) kind) ∧
    (capCls (regVal s a) = 3 → (s.ctx s.cur).dqWrites (d.toNat % 8) [] = false → mget s.regErr (regKey s.cur 3 (d.toNat % 8)) 0 = 0 →
      Injects s (mk d a 2) (regVal s a) (((s.ctx s.cur).k (d.toNat % 8)).setWidth 2048) kind)

/-- A packet may reach its unit, which is awake and not being emptied (R15, R19, R184, R396). -/
abbrev reaches (s : State) (n : Nat) (p : Pkt) : Prop :=
  s.pkts[n]? = some p ∧ s.mayArrive n p = true ∧ s.moving p.dst = false ∧ (s.unit p.dst).gated = false

/-- A delivery at a place of the mesh has come to unit `u` for a context number of this device, over links that work, and no older one of
its sender is under way or held (R183, R189). -/
abbrev comes (s : State) (n u : Nat) (p : Pkt) (d : Delivery) (c : Nat) : Prop :=
  reaches s n p ∧ p.body = .delivery d ∧ p.way = .to ∧ p.dst = u ∧ s.pathBad p.src p.dst = false ∧ s.deliveredAfter d = false ∧
    d.dev = s.devNo ∧ capDev d.cap = s.devNo ∧ c = capCtx d.cap

/-- It comes to a live, resident context that its capability still names (R183). -/
abbrev delivers (s : State) (n u : Nat) (p : Pkt) (d : Delivery) (c : Nat) : Prop :=
  comes s n u p d c ∧ (s.dirE c).st = 1 ∧ (∃ v k, (s.dirE c).place = .slot v k) ∧ (s.dirE c).gen (capCls d.cap) = capGen d.cap

/-- The delivery arriving is discarded: its sender is told the cause, and nothing else happens (R183, R188). -/
def Discards (s : State) (u : Nat) (d : Delivery) (cause : Nat) : Prop :=
  ∃ t r, exec .deliveryArrival s = .next t ∧ r.cause = cause ∧ r.ctx = d.sender ∧ r.addr = d.cap ∧ t.ctxs = s.ctxs ∧ t.units = s.units ∧
    t.dir = s.dir ∧ t.mem = s.mem ∧
    t.pkts = ldel s.pkts s.arg.n0 ++ [{ src := u, dst := s.unitOf d.sender, body := .ack d.sender (some r) d.no d.inH }]

/-! ### Launch records -/

/-- `n` bytes at an offset of a record held as doublewords (R2, R84). -/
def recField (l : List Nat) (off n : Nat) : Nat := l.getD (off / 8) 0 / 2 ^ (8 * (off % 8)) % 2 ^ (8 * n)

/-- A field breaks a limit of R84, bytes 0x37 to 0x3F are nonzero, or priv is above 1 (R325). -/
abbrev badRecord (l : List Nat) : Prop :=
  let f := recField l
  f 0 8 % 4 ≠ 0 ∨ f 0x10 8 % 64 ≠ 0 ∨ f 0x18 8 % 64 ≠ 0 ∨ f 0x20 8 % 64 ≠ 0 ∨ f 0x28 4 = 0 ∨ 65536 < f 0x28 4 ∨ 7 < f 0x2E 1 ∨ 2 < f 0x2F 1 ∨
    15 < f 0x30 1 ∨ 31 < f 0x31 1 ∨ f 0x32 1 = 0 ∨ 16 < f 0x32 1 ∨ f 0x33 1 = 0 ∨ 32 < f 0x33 1 ∨ f 0x34 1 = 0 ∨ 8 < f 0x34 1 ∨
    16 < f 0x35 1 ∨ 1 < f 0x36 1 ∨ f 0x37 1 ≠ 0 ∨ f 0x38 8 ≠ 0

/-- The head of a partition's launch queue is refused with a cause, which LAUNCHST keeps (R324, R325). -/
def refusedAs (t : State) (p cause : Nat) (l : List LqEnt) : State := t.modPart p (fun x => { x with launchQ := l, lCause := cause, lFail := true })

/-- The logical units of a record's rectangle, row-major from its corner (R326). -/
def recUnits (l : List Nat) : List Nat :=
  (List.range (recField l 0x32 1 * recField l 0x33 1)).map (fun j =>
    16 * (recField l 0x31 1 + j / recField l 0x32 1) + recField l 0x30 1 + j % recField l 0x32 1)

/-- Shape image `j` of those read for a record. -/
def imageAt (l : List Nat) (j : Nat) : BitVec 512 := BitVec.ofNat 512 (((l.drop (8 * j)).take 8).foldr (fun v acc => v + acc * 2 ^ 64) 0)

/-- Thread `i` of an accepted record stands as context `c` (R164, R326). -/
def Created (w : State) (p : Nat) (l sl : List Nat) (i c : Nat) : Prop :=
  let f := recField l
  let d := w.dirE c
  let x := w.ctx c
  d.st = 1 ∧ d.part = p ∧ d.prio = f 0x2E 1 ∧ d.home = (recUnits l).getD (i % (recUnits l).length) 0 ∧
    d.save = BitVec.ofNat 64 (f 0x10 8 + 20480 * i) ∧ d.place = .tcc ((w.lumEntry p d.home).toNat % 2 ^ 9) ∧
    x.pc = BitVec.ofNat 64 (f 0 8) ∧ x.s 8 = BitVec.ofNat 64 (f 8 8) ∧ x.s 9 = BitVec.ofNat 64 i ∧ x.s 10 = BitVec.ofNat 64 (f 0x28 4) ∧
    (∀ r, r ≠ 8 → r ≠ 9 → r ≠ 10 → x.s r = 0) ∧ x.grp = f 0x2C 2 ∧ x.sup = (f 0x36 1 == 1) ∧
    (∀ j, x.h j = if j < f 0x35 1 then imageAt sl j else 0) ∧ x.csrGet 0x28 = 0 ∧ x.csrGet 0x29 = 0 ∧ x.mFull = 0 ∧ x.task.active = false

end Sys2Proof.Claim

namespace Sys2Proof.Claim

open Sys2Proof.Machine

/-! ### Slots -/

/-- A waiting context of a partition at a unit that its record lets run (R326, R330). -/
abbrev waitsThere (s : State) (u p w : Nat) : Prop := w ∈ s.waiters u p ∧ s.atLimit u (s.dirE w).launch = false

/-- What moving a context out of a slot to a TCC with room does (R330 rule 5): its state keeps, its slot is free. -/
def movedOut (s t : State) (u k c : Nat) : Prop :=
  (t.dirE c).place = .tcc u ∧ (t.unit u).tcc = (s.unit u).tcc ++ [c] ∧ mfind (t.unit u).slots k = none ∧
    t.ctx c = { s.ctx c with wait := none } ∧ (∀ d, d ≠ c → t.ctx d = s.ctx d) ∧ t.mem = s.mem

/-- A step that moves the context of slot n1 of unit n0 out: where no slot of its partition is free, the context may leave and
the rule says so, it goes to the TCC. -/
def Evicts (i : Instr) (rule : State → Nat → Nat → Nat → Prop) : Prop :=
  ∀ (s : State) (u k c : Nat), s.arg.n0 = u → s.arg.n1 = k → u < 260 → k < 8 → mfind (s.unit u).slots k = some c →
    (s.dirE c).place = .slot u k → s.mayLeave c = true → s.freeSlot u (s.dirE c).part = false → rule s u k c → (s.unit u).tcc.length < 24 →
    ∃ t, exec i s = .next t ∧ movedOut s t u k c

/-- The context of a partition that a free slot takes: of those that wait, the one of highest priority, and of these the one
ready longest (R330 rule 1). -/
def goesFirst (s : State) (u p c : Nat) : Prop :=
  waitsThere s u p c ∧ (s.dirE c).since + 1 < 2 ^ 64 ∧ ∀ w, waitsThere s u p w → w ≠ c →
    (s.dirE w).prio < (s.dirE c).prio ∨ ((s.dirE w).prio = (s.dirE c).prio ∧ (s.dirE c).since < (s.dirE w).since)

/-- A Croft unit that is called leaves standby (R391). -/
def croftCalled (s : State) (u : Nat) : State :=
  if isCroft u = true then { s with island := { s.island with standby := false, croftActive := s.time } } else s

/-- Slot k of unit u is enabled for partition p and empty, and the unit can take contexts (R329, R393, R410). -/
abbrev slotOpen (s : State) (u k p : Nat) : Prop :=
  u < 260 ∧ k < 8 ∧ mfind (s.unit u).slots k = none ∧ bit (s.unit u).slotcfg (32 + k) = true ∧
    (s.unit u).slotcfg.toNat / 16 ^ k % 16 = p ∧ s.unitOpen u = true ∧ (isCroft u = false → s.acreOn = true)

/-! ### Barriers -/

/-- The barrier register an instruction of the executing context names. -/
def barAt (s : State) (n : BitVec 3) : Bar := s.bar (s.unitOf s.cur) n.toNat

/-- The executing context was parked at the register by no release whose wake step is still delayed (R401). -/
abbrev notStaggered (s : State) (n : BitVec 3) : Prop := ∀ g ∈ s.staggers, ¬(g.u = s.unitOf s.cur ∧ g.reg = n.toNat ∧ s.cur ∈ g.ctxs)

/-- The executing context waits at a barrier register, where a release may find it (R344, R401); in a task it traps (R349). -/
def barWaits (s : State) (i : Instr) (n : BitVec 3) : State :=
  let t := (begun s i).modDir s.cur (fun e => { e with barWait := some n.toNat })
  if (s.ctx s.cur).task.active = true then t.issuedTrap { cause := 0x18 } ((encode i).getD 0) else t.parkCtx wBarrier false

/-- A register that an arrival may count in (R344). -/
abbrev mayArrive (s : State) (b : Bar) : Prop := b.brk = false ∧ b.v = true ∧ b.nloc ≠ 0 ∧ b.grp = (s.ctx s.cur).grp

/-- A barrier packet of a kind reaches the unit it was sent to, which is awake and not being emptied, and fits its register there
(R15, R28, R345, R346). -/
def sigThere (s : State) (k u : Nat) (g : Sig) : Prop :=
  (∃ p, s.pkts[s.arg.n0]? = some p ∧ p.body = .sig g ∧ p.way = .to ∧ p.dst = u ∧ s.mayArrive s.arg.n0 p = true) ∧ g.kind = k ∧
    (∀ m ∈ s.migs, ¬(m.src = u ∧ m.honoured = true)) ∧ (s.unit u).gated = false ∧ g.fits (s.bar u g.reg) = true

/-! ### Tasks -/

/-- A counter's word after a decrement that leaves it above zero: only COUNT changes (R352). -/
def withCount (w : Word) (n : Nat) : Word := BitVec.ofNat 64 (w.toNat / 2 ^ 16 * 2 ^ 16 + n % 2 ^ 16)

/-- DCNT's operands: an aligned window 0x1 or 0x4 address with a home in the own unit, a count, nothing in its way (R352). -/
abbrev dcntReady (s : State) (d a b : BitVec 5) (loc : Nat) : Prop :=
  canRead s a ∧ canRead s b ∧ canName s d ∧ (regVal s a).toNat % 8 = 0 ∧ isWindow (regVal s a) = true ∧
    ((regVal s a).toNat / 2 ^ 44 % 16 = 1 ∨ (regVal s a).toNat / 2 ^ 44 % 16 = 4) ∧ (windowRoom (regVal s a)).any (fun r => decide (8 ≤ r)) = true ∧
    1 ≤ (regVal s b).toNat ∧ (regVal s b).toNat ≤ 65535 ∧ s.relOk s.cur = true ∧
    s.windowHome (s.unitOf s.cur) (s.dirE s.cur).part (regVal s a) accFW = .ok loc ∧ isUnitPad loc = true ∧
    isRemote (s.unitOf s.cur) loc = false ∧ loc % 8 = 0 ∧ sound s loc 8 ∧
    (isCroftPad loc = true → s.island.standby = false) ∧ (s.unit (padUnit loc)).gated = false

/-- The packet of K = 0 at an address, as R350 lays it out: its fields, read into doublewords. -/
abbrev plainPacket (l : List Nat) : Prop :=
  dwAt l 0xC 1 = 0 ∧ dwAt l 0xD 1 = 0 ∧ dwAt l 0xE 2 = 0 ∧ dwAt l 0 8 % 4 = 0

end Sys2Proof.Claim

namespace Sys2Proof.Claim

open Sys2Proof.Machine

/-! ### Traps -/

/-- The conditions under which a trap of destination H goes to a context's own handler, with no window to spill and no result
outstanding (R365, R366). -/
abbrev handlerFree (s : State) (c : Nat) : Prop :=
  bit ((s.ctx c).csrGet 0x30) 0 = true ∧ bit ((s.ctx c).csrGet 0x31) 8 = false ∧ (s.ctx c).wins.length ≤ 1 ∧
    (∀ i, i < 32 → 8 ≤ i → bit (s.ctx c).outst i = false)

/-- The context runs its handler for a cause: the record in s8 to s15, trap.rec, the pc, and the interrupted window whole behind
the keeper's (R363, R365, R366). -/
def inHandlerFor (s t : State) (c cause : Nat) (pc addr rpc : Word) : Prop :=
  (t.ctx c).pc = BitVec.ofNat 64 (((s.ctx c).csrGet 0x30).toNat / 4 * 4) ∧ (t.ctx c).csrGet 0x31 = BitVec.ofNat 64 (256 + cause) ∧
    ((t.ctx c).s 8).toNat % 128 = cause ∧ (t.ctx c).s 9 = pc ∧ (t.ctx c).s 10 = addr ∧ (t.ctx c).s 13 = BitVec.ofNat 64 s.time ∧
    (t.ctx c).s 15 = rpc ∧ (∃ keeper, (t.ctx c).wins = keeper :: (s.ctx c).asWin :: (s.ctx c).wins) ∧
    (∀ i, i < 8 → (t.ctx c).s i = (s.ctx c).s i) ∧ t.mem = s.mem

/-- The context is held, and its record stands in its cluster's mailbox or waits for a place there (R370). -/
def heldFor (s t : State) (c cause : Nat) (pc addr rpc : Word) : Prop :=
  (t.ctx c).held = true ∧ (t.ctx c).pc = (s.ctx c).pc ∧ ((t.ctx c).trec.getD 0 0).toNat % 128 = cause ∧ (t.ctx c).trec.getD 1 0 = pc ∧
    (t.ctx c).trec.getD 2 0 = addr ∧ (t.ctx c).trec.getD 7 0 = rpc ∧
    (∃ e, (e ∈ (t.cluster (clusterOf (s.unitOf c))).mbox ∨ e ∈ (t.cluster (clusterOf (s.unitOf c))).waiting) ∧ e.words = (t.ctx c).trec ∧
      e.unit = some (s.unitOf c)) ∧ (∀ i, (t.ctx c).s i = (s.ctx c).s i) ∧ t.mem = s.mem

/-- A context stands in a slot of a unit that works, neither held nor frozen, with no access performed whose answer is still to come
(R114, R361, R370). -/
abbrev atBoundary (s : State) (c u k : Nat) : Prop :=
  s.answerDue c = false ∧ (s.dirE c).place = .slot u k ∧ s.powered u = true ∧ (s.dirE c).st = 1 ∧ (s.ctx c).held = false ∧ (s.ctx c).frozen = false

/-- A context command reaches its context: the operands name a cluster and a live context of it (R370); the device has booted (R426). -/
abbrev commandFor (s : State) (cl c u k : Nat) : Prop :=
  s.bootErr = 0 ∧ s.arg.n0 = cl ∧ s.arg.n1 = c ∧ cl < 17 ∧ c < 65536 ∧ (s.dirE c).st = 1 ∧ (s.dirE c).place = .slot u k ∧ clusterOf u = cl

end Sys2Proof.Claim

namespace Sys2Proof.Claim

open Sys2Proof.Machine

/-! ### Migration -/

/-- The LUM entry names a physical unit (R26, R410). -/
abbrev names (e : BitVec 32) (u : Nat) : Prop := bit e 31 = true ∧ e.toNat % 512 = u

/-- A LUM entry with a status and a unit in place of its own. -/
def entryTo (e : BitVec 32) (st u : Nat) : BitVec 32 := BitVec.ofNat 32 (e.toNat / 2 ^ 31 * 2 ^ 31 + st * 2 ^ 29 + e.toNat / 2 ^ 9 % 2 ^ 20 * 2 ^ 9 + u)

/-! ### Stores on their way -/

/-- A store with one piece may be performed: resolved, with its data, none before it, its home reachable and awake and no register,
nor, to another unit's scratchpad, any mesh request before it on its way (R15, R114, R305, R309, R311). -/
abbrev performable (s : State) (u n : Nat) (e : Store) (p : Piece) : Prop :=
  u < 260 ∧ (s.unit u).sb[n]? = some e ∧ e.pieces = [p] ∧ p.add = none ∧ 1 ≤ p.n ∧ s.powered u = true ∧ s.mayPerform u e = true ∧
    s.cutOff u p.loc = false ∧ (isAcrePad p.loc = true → isCroft u = true → s.acreOn = true) ∧ s.meshOpen u p.loc e.id = true ∧ isRegBlock p.loc = false ∧
    (isDram p.loc = true → (∀ i, i < p.n → (mget s.chans (chanOf (p.loc + i)) {}).st = 0) ∧ s.partBad p.loc p.n = [])

/-- No access waits for a word that `n` bytes at a home lie in (R214). -/
abbrev noneWaits (s : State) (loc n : Nat) : Prop := ∀ w ∈ s.waits, w.req.loc / 8 < loc / 8 ∨ (loc + n) / 8 < w.req.loc / 8

/-- A packet of the mesh carries an access that reaches its unit, the home can serve it now, and its answer finds no response on its way
before it (R15, R114). -/
def accessAt (s : State) (p : Pkt) (r : MemReq) : Prop :=
  s.pkts[s.arg.n0]? = some p ∧ p.body = .access r ∧ s.mayArrive s.arg.n0 p = true ∧ (s.unit p.dst).gated = false ∧
    s.pathClear (homeUnit (s.unitOf r.ctx) r.loc) (s.unitOf r.ctx) true = true ∧
    (isUnitPad r.loc = true → (s.unit (padUnit r.loc)).gated = false) ∧ (isDram r.loc = true → (mget s.chans (chanOf r.loc) {}).st = 0)

/-- A packet from Croft to an Acre that is off stands before its bridge, which has room and no older packet of its kind to wait for
(R15, R19). -/
abbrev atBridge (s : State) (n : Nat) (p : Pkt) : Prop :=
  let onWay := fun (q : Pkt) => isCroft q.src = true ∧ isCroft q.dst = false ∧ q.held = false ∧ q.arrived = false ∧ q.way = .to
  s.pkts[n]? = some p ∧ onWay p ∧ s.acreOn = false ∧
    (s.pkts.filter (fun q => q.held && q.toAcre && bridgeOf q.dst == bridgeOf p.dst)).length < 16 ∧
    ∀ q ∈ s.pkts.take n, onWay q → q.src = p.src → q.dst = p.dst → q.body.isResponse ≠ p.body.isResponse

end Sys2Proof.Claim

namespace Sys2Proof.Claim

open Sys2Proof.Machine

/-! ### Acre -/

/-- ISLCTL's fields as a write of `v` with a command leaves them (R392). -/
def ctlWritten (s : State) (v : Word) (cmd : Nat) : Island :=
  { s.island with cmd := cmd, offIdle := v.toNat / 2 ^ 32 % 2 ^ 16, retIdle := v.toNat / 2 ^ 16 % 2 ^ 16, auto := bit v 15, ref := s.island.ref && !bit v 7 }

/-- A command of ISLCTL that ends at once clears BUSY (R392). -/
def ctlEnded (i : Island) : Island := { i with busy := false, waking := false }

/-- A command that the island refuses: BUSY clears, REF is set, and nothing else changes (R392). -/
def ctlRefused (s : State) : State := { s with island := { s.island with busy := false, ref := true } }

/-- Acre starts a change towards a state (R393). -/
def goesDown (i : Island) (now dest : Nat) (busy : Bool) : Island := { i with from_ := i.st, st := 3, to_ := dest, busy := busy, since := now }

/-- Nothing of Acre's translations is cached (R393). -/
abbrev noAcreTlb (t : State) : Prop :=
  (∀ u, u < 256 → (t.unit u).tlb = []) ∧ (∀ c, c < 16 → (t.cluster c).tlb = []) ∧ t.walkAcre = []

/-- A cluster that can lend or borrow (R398). -/
def limited (s : State) (c : Nat) : Bool := (s.cluster c).allow != 0xFFFF

/-- The pool for given standings: the allowances of the limited clusters that are not active (R399). -/
def lendPool (s : State) (st : Nat → Nat) : Nat := ((List.range 16).filter (fun c => st c != 0 && limited s c)).foldl (fun n c => n + (s.cluster c).allow) 0

/-- The active clusters for given standings (R399). -/
def lendActive (st : Nat → Nat) : Nat := ((List.range 16).filter (fun c => st c == 0)).length

/-- KGRANT for an allowance of a limited cluster, from 1 to 16 (R399); PMAX 0 reads as 1. -/
def grantOf (a pmax : Nat) : Nat := min 16 (max 1 (16 * a / max 1 pmax))

/-- A cluster has the borrowing and the grant of R399 for given standings, and its own requests as before. -/
def granted (s t : State) (st : Nat → Nat) (c : Nat) : Prop :=
  let x := s.cluster c
  let y := t.cluster c
  let b := min (lendPool s st / lendActive st) (max 1 x.pmax - x.allow)
  y.lst = st c ∧ y.k = min y.kreq (min y.kgrant y.ktherm) ∧ y.kreq = x.kreq ∧ y.allow = x.allow ∧ y.ktherm = x.ktherm ∧
    (limited s c = false → y.kgrant = 16 ∧ y.borrow = 0) ∧
    (limited s c = true → st c = 0 → y.borrow = b ∧ y.kgrant = grantOf (x.allow + b) x.pmax) ∧
    (limited s c = true → st c ≠ 0 → y.borrow = 0 ∧ y.kgrant = grantOf x.allow x.pmax)

/-- A cluster whose recall goes on lends nothing, borrows nothing and keeps one pulse (R400). -/
def recalled (t : State) (c : Nat) : Prop :=
  let y := t.cluster c
  y.lst = 3 ∧ y.kgrant = 1 ∧ y.borrow = 0 ∧ y.k = min y.kreq (min 1 y.ktherm)

/-- A cluster that lends has a unit that is active (R399, R400). -/
def lenderActive (s : State) (c : Nat) : Bool := ((s.cluster c).lst == 1 || (s.cluster c).lst == 2) && limited s c && s.lendState c == 0

end Sys2Proof.Claim

namespace Sys2Proof.Claim

open Sys2Proof.Machine

/-! ### Frames -/

/-- The s register that a destination in its space names, or none, said as 32 (R67). -/
def dst (d : BitVec 5) (p : BitVec 2) : Nat := if p.toNat = 0 then d.toNat else 32

/-- The m register that a source in its space empties, or none, said as 16 (R67, R163). -/
def src (a : BitVec 5) (q : BitVec 2) : Nat := if q.toNat = 1 then a.toNat else 16

/-- What an instruction with a destination and a source in their spaces names: the s register it writes, the m register it empties, the
control registers it may change, and its queue ports (R67, R192). -/
def names4 (d a : BitVec 5) (p q : BitVec 2) (l : List Nat) : Option (Nat × Nat × List Nat × List Nat) :=
  some (dst d p, src a q, l, (if p.toNat = 0 then [] else [d.toNat]) ++ if q.toNat < 2 then [] else [a.toNat])

/-- The instructions that use registers and queue ports alone: the s register they write, the m register they empty, the control
registers they may change (fpflags R94, the generator's counter R197), and the queue ports they name. -/
def registerOnly : Instr → Option (Nat × Nat × List Nat × List Nat)
  | .add d a _ p q => names4 d a p q []
  | .sub d a _ p q => names4 d a p q []
  | .and d a _ p q => names4 d a p q []
  | .or d a _ p q => names4 d a p q []
  | .xor d a _ p q => names4 d a p q []
  | .andn d a _ p q => names4 d a p q []
  | .sll d a _ p q => names4 d a p q []
  | .srl d a _ p q => names4 d a p q []
  | .sra d a _ p q => names4 d a p q []
  | .mul d a _ p q => names4 d a p q []
  | .mulh d a _ p q => names4 d a p q []
  | .mulhu d a _ p q => names4 d a p q []
  | .div d a _ p q => names4 d a p q []
  | .divu d a _ p q => names4 d a p q []
  | .rem d a _ p q => names4 d a p q []
  | .remu d a _ p q => names4 d a p q []
  | .slt d a _ p q => names4 d a p q []
  | .sltu d a _ p q => names4 d a p q []
  | .min d a _ p q => names4 d a p q []
  | .max d a _ p q => names4 d a p q []
  | .minu d a _ p q => names4 d a p q []
  | .maxu d a _ p q => names4 d a p q []
  | .clz d a p q => names4 d a p q []
  | .ctz d a p q => names4 d a p q []
  | .popc d a p q => names4 d a p q []
  | .addi d _ _ => some (d.toNat, 16, [], [])
  | .andi d _ _ => some (d.toNat, 16, [], [])
  | .ori d _ _ => some (d.toNat, 16, [], [])
  | .xori d _ _ => some (d.toNat, 16, [], [])
  | .slli d _ _ => some (d.toNat, 16, [], [])
  | .srli d _ _ => some (d.toNat, 16, [], [])
  | .srai d _ _ => some (d.toNat, 16, [], [])
  | .slti d _ _ => some (d.toNat, 16, [], [])
  | .sltiu d _ _ => some (d.toNat, 16, [], [])
  | .lui d _ => some (d.toNat, 16, [], [])
  | .auipc d _ => some (d.toNat, 16, [], [])
  | .lea d _ _ _ _ => some (d.toNat, 16, [], [])
  | .fadd d a _ p q => names4 d a p q [0x11]
  | .fsub d a _ p q => names4 d a p q [0x11]
  | .fmul d a _ p q => names4 d a p q [0x11]
  | .fdiv d a _ p q => names4 d a p q [0x11]
  | .fsqrt d a p q => names4 d a p q [0x11]
  | .fmin d a _ p q => names4 d a p q [0x11]
  | .fmax d a _ p q => names4 d a p q [0x11]
  | .feq d a _ p q => names4 d a p q [0x11]
  | .flt d a _ p q => names4 d a p q [0x11]
  | .fle d a _ p q => names4 d a p q [0x11]
  | .fcvtif d a p q => names4 d a p q [0x11]
  | .fcvtfi d a p q => names4 d a p q [0x11]
  | .fclass d a p q => names4 d a p q [0x11]
  | .rand d => some (d.toNat, 16, [0x19], [])
  | .randF32 d => some (d.toNat, 16, [0x19], [])
  | .randBnd d _ => some (d.toNat, 16, [0x19], [])
  | .beq _ _ _ => some (32, 16, [], [])
  | .bne _ _ _ => some (32, 16, [], [])
  | .blt _ _ _ => some (32, 16, [], [])
  | .bge _ _ _ => some (32, 16, [], [])
  | .bltu _ _ _ => some (32, 16, [], [])
  | .bgeu _ _ _ => some (32, 16, [], [])
  | .jal _ => some (7, 16, [], [])
  | .jalr d _ _ => some (d.toNat, 16, [], [])
  | _ => none

/-- Emptying m register `m` lets a SENDW value held for a register of the context enter, that one or one of the same sender's behind it
(R186, R189). -/
def entersFor (s : State) (m cls r : Nat) : Prop :=
  m ≠ 16 ∧ ∃ e ∈ s.units, ∃ h ∈ e.2.mbox, h.2 = s.cur ∧ capCls h.1.cap = cls ∧ capIdx h.1.cap = r

/-- The same for any register of a context. -/
def enters (s : State) (m c : Nat) : Prop := m ≠ 16 ∧ ∃ e ∈ s.units, ∃ h ∈ e.2.mbox, h.2 = c

/-! ### A step that issues -/

/-- Unit `u`'s turn has come with one context in its slots, in slot `k`, which may issue and has nothing before it: `q` is the
state after the unit's clock has advanced, reports that waited have entered the record queue and what fell due was raised (R332, R335,
R371, R381, R382). -/
def onlyRuns (s q : State) (u k c : Nat) : Prop :=
  ∃ dt rest, s.agenda = { dt := dt, act := .issue u } :: rest ∧ u < 260 ∧ k < 8 ∧
    let a : State := { s with agenda := rest, time := s.time + dt, steps := s.steps + 1 }
    let b := ((a.tick u).reload).flushReports u
    a.unitRuns u = true ∧ mfind (b.unit u).slots k = some c ∧ (∀ j, j ≠ k → mfind (b.unit u).slots j = none) ∧ b.canTry u c = true ∧
      q = b.raiseDue c ∧ b.belongs u k c = true ∧ q.beforeIssue u k c = none ∧ (q.ctx c).nextWide = none

/-- The bytes at the context's pc, four from a home upwards in little-endian order, are a word; `r` is the state after its fetch (R33,
R63). -/
def wordAt (q r : State) (c : Nat) (w : BitVec 32) : Prop :=
  ((q.ctx c).pc).toNat % 4 = 0 ∧ ∃ loc v, resolves ({ q with cur := c } : State) (q.ctx c).pc accX loc v ∧ isRegBlock loc = false ∧
    (isDram loc = true → (mget v.chans (loc / 256 % 32) {}).st = 0) ∧ r = (v.touch loc).correct (v.unitOf c) loc 4 ∧ r.readErr loc 4 = 0 ∧
    w.toNat = leVal r.mem loc 4

end Sys2Proof.Claim

open Sys2Proof Sys2Proof.Machine Sys2Proof.Claim

/-- R192, R194, R196, R197: every ALU instruction of the table writes its result, in every space of its source and
destination. -/
def Obligations.IntegerResults : Prop :=
  (Sr2 .add (fun x y => BitVec.ofNat 64 (x.toNat + y.toNat)) ∧
   Sr2 .sub (fun x y => BitVec.ofInt 64 (x.toNat - y.toNat)) ∧
   Sr2 .and (fun x y => BitVec.ofNat 64 (x.toNat &&& y.toNat)) ∧
   Sr2 .or (fun x y => BitVec.ofNat 64 (x.toNat ||| y.toNat)) ∧
   Sr2 .xor (fun x y => BitVec.ofNat 64 (x.toNat ^^^ y.toNat)) ∧
   Sr2 .andn (fun x y => x &&& ~~~y) ∧
   Sr2 .sll (fun x y => BitVec.ofNat 64 (x.toNat * 2 ^ (y.toNat % 64))) ∧
   Sr2 .srl (fun x y => BitVec.ofNat 64 (x.toNat / 2 ^ (y.toNat % 64))) ∧
   Sr2 .sra (fun x y => BitVec.ofInt 64 (x.toInt / 2 ^ (y.toNat % 64))) ∧
   Sr2 .mul (fun x y => BitVec.ofNat 64 (x.toNat * y.toNat)) ∧
   Sr2 .mulh (fun x y => BitVec.ofInt 64 (x.toInt * y.toInt / 2 ^ 64)) ∧
   Sr2 .mulhu (fun x y => BitVec.ofNat 64 (x.toNat * y.toNat / 2 ^ 64)) ∧
   Sr2 .div quotient ∧
   Sr2 .divu (fun x y => if y = 0 then 0xFFFFFFFFFFFFFFFF else BitVec.ofNat 64 (x.toNat / y.toNat)) ∧
   Sr2 .rem remainder ∧
   Sr2 .remu (fun x y => if y = 0 then x else BitVec.ofNat 64 (x.toNat % y.toNat)) ∧
   Sr2 .slt (fun x y => if x.toInt < y.toInt then 1 else 0) ∧
   Sr2 .sltu (fun x y => if x.toNat < y.toNat then 1 else 0) ∧
   Sr2 .min (fun x y => BitVec.ofInt 64 (min x.toInt y.toInt)) ∧
   Sr2 .max (fun x y => BitVec.ofInt 64 (max x.toInt y.toInt)) ∧
   Sr2 .minu (fun x y => BitVec.ofNat 64 (min x.toNat y.toNat)) ∧
   Sr2 .maxu (fun x y => BitVec.ofNat 64 (max x.toNat y.toNat)) ∧
   Sr1 .clz (fun x => BitVec.ofNat 64 (countBits 64 (fun i => x.toNat < 2 ^ (63 - i)))) ∧
   Sr1 .ctz (fun x => BitVec.ofNat 64 (countBits 64 (fun i => x.toNat % 2 ^ (i + 1) = 0))) ∧
   Sr1 .popc (fun x => BitVec.ofNat 64 (countBits 64 (fun i => x.toNat / 2 ^ i % 2 = 1)))) ∧
  (Si .addi (fun x i => x + i.signExtend 64) ∧
   Si .andi (fun x i => x &&& i.signExtend 64) ∧
   Si .ori (fun x i => x ||| i.signExtend 64) ∧
   Si .xori (fun x i => x ^^^ i.signExtend 64) ∧
   Si .slli (fun x i => BitVec.ofNat 64 (x.toNat * 2 ^ i.toNat)) ∧
   Si .srli (fun x i => BitVec.ofNat 64 (x.toNat / 2 ^ i.toNat)) ∧
   Si .srai (fun x i => BitVec.ofInt 64 (x.toInt / 2 ^ i.toNat)) ∧
   Si .slti (fun x i => if x.toInt < i.toInt then 1 else 0) ∧
   Si .sltiu (fun x i => if x.toNat < (i.signExtend 64).toNat then 1 else 0) ∧
   (∀ (s : State) (d : BitVec 5) (i : BitVec 19), canName s d →
     exec (.lui d i) s = .next ((written (begun s (.lui d i)) d (BitVec.ofInt 64 (i.toInt * 2 ^ 14))).retire false)) ∧
   (∀ (s : State) (d : BitVec 5) (i : BitVec 19), canName s d →
     exec (.auipc d i) s = .next ((written (begun s (.auipc d i)) d ((s.ctx s.cur).pc + BitVec.ofInt 64 (i.toInt * 2 ^ 14))).retire false)) ∧
   (∀ (s : State) (d a b : BitVec 5) (z : BitVec 1) (sh : BitVec 3), canRead s a → canRead s b → canName s d →
     exec (.lea d a b z sh) s = .next ((written (begun s (.lea d a b z sh)) d
       (BitVec.ofNat 64 ((regVal s a).toNat + (if z = 1 then (regVal s b).toNat % 2 ^ 32 else (regVal s b).toNat) * 2 ^ sh.toNat))).retire false)))

/-- R199, R192, R94: every instruction of the scalar FP32 group completes in every space of its source and destination, with
the result and the flags of the model's exact arithmetic and rounding. R201, R192: the raw and the bounded draw, and the unit-
interval form rounded to binary32; each advances rng.ctr by one. R201: the unit-interval form is exact: the binary32 it writes
is k × 2^-24 for k the draw's upper 24 bits. A value m × 2^e with e at least -149 is said as the whole number m × 2^(e + 149),
so k × 2^-24 is k × 2^125. -/
def Obligations.FloatAndRandomResults : Prop :=
  (SrF2 .fadd fAdd ∧ SrF2 .fsub fSub ∧ SrF2 .fmul fMul ∧ SrF2 .fdiv fDiv ∧ SrF1 .fsqrt fSqrt ∧
   Sr2 .fmin (fMinMax true) ∧ Sr2 .fmax (fMinMax false) ∧ Sr2 .feq (fCmp fvEq) ∧ Sr2 .flt (fCmp fvLt) ∧
   Sr2 .fle (fCmp (fun x y => !fvLt y x)) ∧ SrF1 .fcvtif fFromInt ∧ SrF1 .fcvtfi fToInt ∧ Sr1 .fclass fClass) ∧
  ((∀ (s : State) (d : BitVec 5), canName s d →
     exec (.rand d) s = .next ((written (counted (begun s (.rand d))) d (BitVec.ofNat 64 (nextDrawn s))).retire false)) ∧
   (∀ (s : State) (d : BitVec 5), canName s d →
     exec (.randF32 d) s = .next ((written (counted (begun s (.randF32 d))) d
       (BitVec.ofNat 64 (f32.roundNE (.rat false (nextDrawn s / 2 ^ 40) 1 (-24) false)).1)).retire false)) ∧
   (∀ (s : State) (d b : BitVec 5), canName s d → canRead s b →
     exec (.randBnd d b) s = .next ((written (counted (begun s (.randBnd d b))) d
       (BitVec.ofNat 64 (if regVal s b = 0 then nextDrawn s else nextDrawn s * (regVal s b).toNat / 2 ^ 64))).retire false))) ∧
  (∀ k, k < 2 ^ 24 → (f32.roundNE (.rat false k 1 (-24) false)).2 = 0 ∧
     ∃ m e, f32.decode (f32.roundNE (.rat false k 1 (-24) false)).1 = .fin false m e ∧ m * 2 ^ (e + 149).toNat = k * 2 ^ 125)

/-- R199, R200, R88, R96, R101: the results of the group that are no rounding of a finite value: those of NaN, infinities and zeros, the
comparisons, fmin and fmax, and the class masks. -/
def Obligations.FloatSpecialResults : Prop :=
  ∀ (fmt x y : Word),
    let a := x.toNat % 2 ^ 32
    let b := y.toNat % 2 ^ 32
    (isNan32 a ∨ isNan32 b →
      fAdd fmt x y = (0x7FC00000, 0) ∧ fSub fmt x y = (0x7FC00000, 0) ∧ fMul fmt x y = (0x7FC00000, 0) ∧ fDiv fmt x y = (0x7FC00000, 0)) ∧
    (isNan32 a → fSqrt fmt x = (0x7FC00000, 0) ∧ fToInt fmt x = (0, 16)) ∧
    (isInf32 a → isInf32 b →
      fAdd fmt x y = (if neg32 a = neg32 b then (inf32 (neg32 a), 0) else (0x7FC00000, 16)) ∧
      fSub fmt x y = (if neg32 a = neg32 b then (0x7FC00000, 16) else (inf32 (neg32 a), 0)) ∧ fDiv fmt x y = (0x7FC00000, 16)) ∧
    (isInf32 a → isFin32 b → fAdd fmt x y = (inf32 (neg32 a), 0) ∧ fSub fmt x y = (inf32 (neg32 a), 0) ∧
      fDiv fmt x y = (inf32 (neg32 a != neg32 b), 0)) ∧
    (isFin32 a → isInf32 b → fAdd fmt x y = (inf32 (neg32 b), 0) ∧ fSub fmt x y = (inf32 (!neg32 b), 0) ∧
      fDiv fmt x y = (zero32 (neg32 a != neg32 b), 0)) ∧
    (isInf32 a ∨ isInf32 b → ¬isNan32 a → ¬isNan32 b →
      fMul fmt x y = if a % 2 ^ 31 = 0 ∨ b % 2 ^ 31 = 0 then (0x7FC00000, 16) else (inf32 (neg32 a != neg32 b), 0)) ∧
    (isFin32 a → b % 2 ^ 31 = 0 → fDiv fmt x y = if a % 2 ^ 31 = 0 then (0x7FC00000, 16) else (inf32 (neg32 a != neg32 b), 8)) ∧
    (a % 2 ^ 31 = 0 → fSqrt fmt x = (zero32 (neg32 a), 0)) ∧
    (¬isNan32 a → neg32 a = true → a % 2 ^ 31 ≠ 0 → fSqrt fmt x = (0x7FC00000, 16)) ∧
    (a = 0x7F800000 → fSqrt fmt x = (0x7F800000, 0)) ∧
    (isInf32 a → fToInt fmt x = (if neg32 a then 0xFFFFFFFF80000000 else 0x7FFFFFFF, 16)) ∧
    fMinMax true x y = (if isNan32 a ∨ isNan32 b then 0x7FC00000 else BitVec.ofNat 64 (if rank32 a ≤ rank32 b then a else b)) ∧
    fMinMax false x y = (if isNan32 a ∨ isNan32 b then 0x7FC00000 else BitVec.ofNat 64 (if rank32 a ≤ rank32 b then b else a)) ∧
    fCmp fvEq x y = (if ¬isNan32 a ∧ ¬isNan32 b ∧ order32 a = order32 b then 1 else 0) ∧
    fCmp fvLt x y = (if ¬isNan32 a ∧ ¬isNan32 b ∧ order32 a < order32 b then 1 else 0) ∧
    fCmp (fun a b => !fvLt b a) x y = (if ¬isNan32 a ∧ ¬isNan32 b ∧ order32 a ≤ order32 b then 1 else 0) ∧
    fClass x = BitVec.ofNat 64 (2 ^ class32 a)

/-- R86, R96, R97, R98, R99, R100, R101, R199: sums, differences, products, quotients, square roots and conversions of finite values are
the exact result rounded once by fmt.cfg, with the flags of that rounding; an exact zero takes the sign of R101. -/
def Obligations.FloatResultsAreRounded : Prop :=
  (∀ (fmt x y : Word),
    let a := x.toNat % 2 ^ 32
    let b := y.toNat % 2 ^ 32
    isFin32 a → isFin32 b →
      (if units32 a + units32 b = 0 then
          fAdd fmt x y = (zero32 (if a % 2 ^ 31 = 0 ∧ neg32 a = neg32 b then neg32 a else fmt.toNat % 4 == 3), 0)
        else Rounded32 fmt (units32 a + units32 b) 1 (fAdd fmt x y)) ∧
      (if units32 a - units32 b = 0 then
          fSub fmt x y = (zero32 (if a % 2 ^ 31 = 0 ∧ neg32 a ≠ neg32 b then neg32 a else fmt.toNat % 4 == 3), 0)
        else Rounded32 fmt (units32 a - units32 b) 1 (fSub fmt x y)) ∧
      (if units32 a * units32 b = 0 then fMul fmt x y = (zero32 (neg32 a != neg32 b), 0)
        else Rounded32 fmt (units32 a * units32 b) (2 ^ 149) (fMul fmt x y)) ∧
      (units32 b ≠ 0 →
        if units32 a = 0 then fDiv fmt x y = (zero32 (neg32 a != neg32 b), 0)
        else Rounded32 fmt (units32 a * 2 ^ 149 * (units32 b).sign) (units32 b).natAbs (fDiv fmt x y)) ∧
      (0 < units32 a → Root32 fmt (units32 a * 2 ^ 149) (fSqrt fmt x)) ∧
      (∃ k : Int, NearestInt (fmt.toNat % 4) (units32 a) (2 ^ 149) k ∧
        fToInt fmt x =
          if k < -2 ^ 31 then (0xFFFFFFFF80000000, 16)
          else if 2 ^ 31 ≤ k then (0x7FFFFFFF, 16)
          else (BitVec.ofInt 64 k, if k * 2 ^ 149 = units32 a then 0 else 1))) ∧
  (∀ (fmt x : Word), if x = 0 then fFromInt fmt x = (0, 0) else Rounded32 fmt (x.toInt * 2 ^ 149) 1 (fFromInt fmt x))

/-- R202: each conditional branch completes, with NextPC the target where its condition holds and PC + 4 where it does not. -/
def Obligations.ConditionalBranches : Prop :=
  Branch .beq (fun x y => x = y) ∧ Branch .bne (fun x y => x ≠ y) ∧
  Branch .blt (fun x y => x.toInt < y.toInt) ∧ Branch .bge (fun x y => y.toInt ≤ x.toInt) ∧
  Branch .bltu (fun x y => x.toNat < y.toNat) ∧ Branch .bgeu (fun x y => y.toNat ≤ x.toNat) ∧
  decode 0x104A8004 = .instr (.beq 9 10 4) ∧ decode 0x144ABFFF = .instr (.bltu 9 10 0x3FFF)

/-- R203, R66: JAL and JALR write the return address, to s0 discarded, and jump. -/
def Obligations.JumpsLink : Prop :=
  (∀ (s : State) (o : BitVec 24), canName s 7 →
    exec (.jal o) s = .next ({ written (begun s (.jal o)) 7 ((s.ctx s.cur).pc + 4) with
      npc := (s.ctx s.cur).pc + BitVec.ofInt 64 (o.toInt * 4) }.retire false)) ∧
  (∀ (s : State) (d a : BitVec 5) (i : BitVec 14), canRead s a → canName s d →
    exec (.jalr d a i) s = .next ({ written (begun s (.jalr d a i)) d ((s.ctx s.cur).pc + 4) with
      npc := regVal s a + BitVec.ofInt 64 i.toInt }.retire false))

/-- R204, R205, R169: CALLW and CALLWR open a window and jump; where only a forbidden spill could free one they trap with
cause 0x0E. RETW closes the window and jumps to its s15; with no older window resident and DEPTH 0 it traps with cause 0x0F.
R204, R205: a return right after a call restores every register of the caller but its s31, which holds the return address,
with their full bits and the windows behind. -/
def Obligations.WindowedCalls : Prop :=
  ((∀ (s : State) (o : BitVec 24), noResults s → (s.ctx s.cur).wins.length < 3 →
     ∃ y, exec (.callw o) s = .next ({ (begun s (.callw o)).setCtx s.cur y with
         npc := (s.ctx s.cur).pc + BitVec.ofInt 64 (o.toInt * 4) }.retire false) ∧
       Opened (s.ctx s.cur) y ((s.ctx s.cur).pc + 4)) ∧
   (∀ (s : State) (a : BitVec 5) (i : BitVec 14), canRead s a → noResults s → (s.ctx s.cur).wins.length < 3 →
     ∃ y, exec (.callwr a i) s = .next ({ (begun s (.callwr a i)).setCtx s.cur y with
         npc := regVal s a + BitVec.ofInt 64 i.toInt }.retire false) ∧
       Opened (s.ctx s.cur) y ((s.ctx s.cur).pc + 4)) ∧
   (∀ (s : State), noResults s → canRead s 15 → (s.ctx s.cur).wins ≠ [] →
     ∃ y, exec .retw s = .next ({ (begun s .retw).setCtx s.cur y with npc := regVal s 15 }.retire false) ∧ Closed (s.ctx s.cur) y) ∧
   (∀ (s : State) (o : BitVec 24), noResults s → (s.ctx s.cur).wins.length = 3 →
     ((s.ctx s.cur).depth ≥ (s.ctx s.cur).limit ∨ (s.ctx s.cur).winBase + (s.ctx s.cur).depth * 136 + 136 > 0x80000) →
     exec (.callw o) s = .next (trapped s (.callw o) 0x0E)) ∧
   (∀ (s : State) (a : BitVec 5) (i : BitVec 14), canRead s a → noResults s → (s.ctx s.cur).wins.length = 3 →
     ((s.ctx s.cur).depth ≥ (s.ctx s.cur).limit ∨ (s.ctx s.cur).winBase + (s.ctx s.cur).depth * 136 + 136 > 0x80000) →
     exec (.callwr a i) s = .next (trapped s (.callwr a i) 0x0E)) ∧
   (∀ (s : State), noResults s → (s.ctx s.cur).wins = [] → (s.ctx s.cur).depth = 0 →
     exec .retw s = .next (trapped s .retw 0x0F))) ∧
  (∀ (s : State) (o : BitVec 24), noResults s → (s.ctx s.cur).wins.length < 3 → mget s.regErr (regKey s.cur 0 15) 0 = 0 →
     ∃ t u, exec (.callw o) s = .next t ∧ exec .retw t = .next u ∧ (u.ctx s.cur).pc = (s.ctx s.cur).pc + 4 ∧
       (u.ctx s.cur).wins = (s.ctx s.cur).wins ∧ (u.ctx s.cur).s 31 = (s.ctx s.cur).pc + 4 ∧
       ∀ i, i < 31 → (u.ctx s.cur).s i = (s.ctx s.cur).s i ∧ bit (u.ctx s.cur).sFull i = bit (s.ctx s.cur).sFull i)

/-- R168, R169: a spill writes the oldest window to frame DEPTH, and to no other byte, and raises DEPTH; a fill makes frame
DEPTH - 1 the oldest window and lowers it, where the frame lies in the scratchpad and every word of it can be delivered (R117). -/
def Obligations.WindowsSpillAndFill : Prop :=
  (∀ (s : State) (u k : Nat) (a b w : Win), (s.dirE s.arg.n0).place = .slot u k → (s.ctx s.arg.n0).wins = [a, b, w] →
    (s.ctx s.arg.n0).depth < (s.ctx s.arg.n0).limit → (s.ctx s.arg.n0).winBase + (s.ctx s.arg.n0).depth * 136 + 136 ≤ 0x80000 → Memory.wf s.mem = true →
    ∃ t, exec .windowSpill s = .next t ∧ (t.ctx s.arg.n0).wins = [a, b] ∧ (t.ctx s.arg.n0).depth = (s.ctx s.arg.n0).depth + 1 ∧
      (∀ i, i < 16 → leVal t.mem (unitLoc u ((s.ctx s.arg.n0).winBase + (s.ctx s.arg.n0).depth * 136) + 8 * i) 8 = (mget w.regs (8 + i) 0).toNat) ∧
      leVal t.mem (unitLoc u ((s.ctx s.arg.n0).winBase + (s.ctx s.arg.n0).depth * 136) + 128) 8 = w.full.toNat ∧
      onlyAt s.mem t.mem (unitLoc u ((s.ctx s.arg.n0).winBase + (s.ctx s.arg.n0).depth * 136)) 136) ∧
  (∀ (s : State) (u k : Nat), (s.dirE s.arg.n0).place = .slot u k → (s.ctx s.arg.n0).wins = [] → 0 < (s.ctx s.arg.n0).depth →
    (s.ctx s.arg.n0).winBase + ((s.ctx s.arg.n0).depth - 1) * 136 + 136 ≤ 0x80000 →
    (∀ i, i < 144 → s.errAt ((unitLoc u ((s.ctx s.arg.n0).winBase + ((s.ctx s.arg.n0).depth - 1) * 136)) / 8 * 8 + i) ≠ 2) →
    ∃ t w, exec .windowFill s = .next t ∧ (t.ctx s.arg.n0).wins = [w] ∧ (t.ctx s.arg.n0).depth + 1 = (s.ctx s.arg.n0).depth ∧
      (∀ i, i < 16 → (mget w.regs (8 + i) 0).toNat =
        leVal s.mem (unitLoc u ((s.ctx s.arg.n0).winBase + ((s.ctx s.arg.n0).depth - 1) * 136) + 8 * i) 8) ∧
      w.full.toNat = leVal s.mem (unitLoc u ((s.ctx s.arg.n0).winBase + ((s.ctx s.arg.n0).depth - 1) * 136) + 128) 8 % 2 ^ 16 ∧
      t.mem = s.mem)

/-- R207, R208, R306: every scalar load reads the bytes at its home. R209, R210, R213: every scalar store enters the store
buffer with its address, size and data. R306: a load of a doubleword whose one pending store is the context's own, to the same
home, takes the store's data and not the bytes at the home. -/
def Obligations.LoadsAndStores : Prop :=
  (Loads .ld8 1 true ∧ Loads .ld8u 1 false ∧ Loads .ld16 2 true ∧ Loads .ld16u 2 false ∧ Loads .ld32 4 true ∧ Loads .ld32u 4 false ∧
     Loads .ld64 8 false) ∧
  (Stores .st8 1 0 false ∧ Stores .st16 2 1 false ∧ Stores .st32 4 2 false ∧ Stores .st64 8 3 false ∧ Stores .stff 8 3 true) ∧
  (∀ (s t : State) (d a : BitVec 5) (c : BitVec 2) (o : BitVec 10) (loc : Nat) (e : Store) (p : Piece),
     canRead s a → canName s d → (scalarVa s a o 8).toNat % 8 = 0 →
     resolves (begun s (.ld64 d a c 0 o)) (scalarVa s a o 8) accR loc t → near t loc → sound t loc 8 →
     (t.unit (t.unitOf t.cur)).sb = [e] → pastFences t → e.ctx = s.cur → e.rs = 1 → e.ar = false → e.data = true → e.size ≠ 4 →
     e.pieces = [p] → p.loc = loc → p.n = 8 → p.add = none →
     exec (.ld64 d a c 0 o) s = .next ((written (t.touchRun loc 8) d (BitVec.ofNat 64 p.data)).retire false))

/-- R213, R214, R215: LDFE and LDFF of a full word, and STEF of an empty one, complete: LDFE empties the word, LDFF leaves it,
STEF writes and fills it. LDFE and LDFF of an empty word, and STEF of a full one, wait: the context joins the word's wait list
with its access and keeps its pc, and a task takes cause 0x18. That a waiting instruction keeps its pc and is served in its
list is the model's form of waiting, log 5. -/
def Obligations.FullEmptyAccesses : Prop :=
  (∀ (s t : State) (d a : BitVec 5) (c e : BitVec 2) (o : BitVec 10) (loc : Nat),
    canRead s a → canName s d → (scalarVa s a o 8).toNat % 8 = 0 → (e = 2 ∨ e = 3 → s.relOk s.cur = true) →
    resolves (begun s (.ldfe d a c e o)) (scalarVa s a o 8) accFW loc t → near t loc → wordFree t loc → sound t loc 8 →
    t.feAt loc = true → noWaiter t loc →
    exec (.ldfe d a c e o) s = .next ((written (((t.touch loc).dropHost loc 8).setFe loc false) d (BitVec.ofNat 64 (leVal t.mem loc 8))).retire false)) ∧
  (∀ (s t : State) (d a : BitVec 5) (c e : BitVec 2) (o : BitVec 10) (loc : Nat),
    canRead s a → canName s d → (scalarVa s a o 8).toNat % 8 = 0 → (e = 2 ∨ e = 3 → s.relOk s.cur = true) →
    resolves (begun s (.ldff d a c e o)) (scalarVa s a o 8) accFR loc t → near t loc → wordFree t loc → sound t loc 8 →
    t.feAt loc = true →
    exec (.ldff d a c e o) s = .next ((written (t.touch loc) d (BitVec.ofNat 64 (leVal t.mem loc 8))).retire false)) ∧
  (∀ (s t : State) (d a : BitVec 5) (c e : BitVec 2) (o : BitVec 10) (loc : Nat),
    canRead s a → canRead s d → (scalarVa s a o 8).toNat % 8 = 0 → (e = 2 ∨ e = 3 → s.relOk s.cur = true) →
    resolves (begun s (.stef d a c e o)) (scalarVa s a o 8) accFW loc t → near t loc → wordFree t loc → sound t loc 8 →
    t.feAt loc = false → noWaiter t loc → Memory.wf t.mem = true →
    ∃ u, exec (.stef d a c e o) s = .next u ∧ u.feAt loc = true ∧ leVal u.mem loc 8 = (regVal s d).toNat ∧ onlyAt t.mem u.mem loc 8 ∧
      (u.ctx s.cur).pc = (s.ctx s.cur).pc + 4 ∧ (∀ i, (u.ctx s.cur).s i = (s.ctx s.cur).s i)) ∧
  (∀ (s t : State) (d a : BitVec 5) (c e : BitVec 2) (o : BitVec 10) (loc : Nat),
    canRead s a → canName s d → (scalarVa s a o 8).toNat % 8 = 0 → (e = 2 ∨ e = 3 → s.relOk s.cur = true) →
    resolves (begun s (.ldfe d a c e o)) (scalarVa s a o 8) accFW loc t → near t loc → wordFree t loc → sound t loc 8 →
    t.feAt loc = false → WaitsHere s t (.ldfe d a c e o) loc .ldfe 0 d.toNat) ∧
  (∀ (s t : State) (d a : BitVec 5) (c e : BitVec 2) (o : BitVec 10) (loc : Nat),
    canRead s a → canName s d → (scalarVa s a o 8).toNat % 8 = 0 → (e = 2 ∨ e = 3 → s.relOk s.cur = true) →
    resolves (begun s (.ldff d a c e o)) (scalarVa s a o 8) accFR loc t → near t loc → wordFree t loc → sound t loc 8 →
    t.feAt loc = false → WaitsHere s t (.ldff d a c e o) loc .ldff 0 d.toNat) ∧
  (∀ (s t : State) (d a : BitVec 5) (c e : BitVec 2) (o : BitVec 10) (loc : Nat),
    canRead s a → canRead s d → (scalarVa s a o 8).toNat % 8 = 0 → (e = 2 ∨ e = 3 → s.relOk s.cur = true) →
    resolves (begun s (.stef d a c e o)) (scalarVa s a o 8) accFW loc t → near t loc → wordFree t loc → sound t loc 8 →
    t.feAt loc = true → WaitsHere s t (.stef d a c e o) loc .stef (regVal s d) 0)

/-- R216, R217: every atomic operation, on 4 and on 8 bytes where it has both, returns the old value and writes the new one. -/
def Obligations.AtomicOperations : Prop :=
  (∀ w : BitVec 1, let n := if w = 1 then 8 else 4
    Amo (fun d a b c e => .amoadd d a b c e w) n false (fun o p _ => o + p) ∧
    Amo (fun d a b c e => .amoand d a b c e w) n false (fun o p _ => o &&& p) ∧
    Amo (fun d a b c e => .amoor d a b c e w) n false (fun o p _ => o ||| p) ∧
    Amo (fun d a b c e => .amoxor d a b c e w) n false (fun o p _ => o ^^^ p) ∧
    Amo (fun d a b c e => .amomin d a b c e w) n false (fun o p _ => if sgn n o ≤ sgn n p then o else p) ∧
    Amo (fun d a b c e => .amomax d a b c e w) n false (fun o p _ => if sgn n o ≤ sgn n p then p else o) ∧
    Amo (fun d a b c e => .amominu d a b c e w) n false (fun o p _ => min o p) ∧
    Amo (fun d a b c e => .amomaxu d a b c e w) n false (fun o p _ => max o p) ∧
    Amo (fun d a b c e => .amoswap d a b c e w) n false (fun _ p _ => p) ∧
    Amo (fun d a b c e => .amocas d a b c e w) n true (fun o p q => if o = q then p else o)) ∧
  Amo .amofadd32 4 false (fun o p _ => (f32.roundNE (fvAdd 0 (f32.decode o) (f32.decode p)).1.ex).1) ∧
  Amo .amobfadd2 4 false (fun o p _ => bfAdd o p + 65536 * bfAdd (o / 65536) (p / 65536))

/-- R212, R218, R219: LDQ takes a place at the end of its port's load-data queue; FENCE completes where the earlier accesses its
bits name have ended, a pending VSCADD counting as an AMO (R243), DRAIN where all have. -/
def Obligations.QueuedLoadsAndOrdering : Prop :=
  (∀ (s t : State) (p : BitVec 3) (a : BitVec 5) (o : BitVec 10) (loc : Nat) (q : Port),
    mget (s.ctx s.cur).ports p.toNat {} = q → q.kind = 1 → q.ldq.length < 8 → canRead s a → (scalarVa s a o 8).toNat % 8 = 0 →
    resolves (begun s (.ldq p a o)) (scalarVa s a o 8) accR loc t → isRegBlock loc = false →
    exec (.ldq p a o) s = .next (({ t with ids := t.ids + 1 }.modCtx t.cur (fun x =>
      { x with ports := mset x.ports p.toNat { q with ldq := q.ldq ++ [({ id := t.ids, loc := loc, va := scalarVa s a o 8, inH := (s.ctx s.cur).inHandler } : LdqEnt)] } })).retire false)) ∧
  (∀ (s : State) (g : BitVec 4) (x : BitVec 1) (c : BitVec 2),
    (bit g 3 = true ∨ bit g 2 = true → (s.ctx s.cur).ldqOut = [] ∧
      ∀ e ∈ (s.unit (s.unitOf s.cur)).sb, e.ctx = s.cur → e.rs = 2 ∨ ∀ p ∈ e.pieces, p.add = none) →
    (bit g 1 = true ∨ bit g 0 = true ∨ x = 1 → ∀ e ∈ (s.unit (s.unitOf s.cur)).sb, e.ctx = s.cur → e.rs = 2) →
    (bit g 1 = true ∨ bit g 0 = true → ∀ e ∈ (s.unit (s.unitOf s.cur)).sb, e.id ∉ (s.dirE s.cur).sibRead) →
    (x = 1 → s.enginesBusy s.cur = false) →
    exec (.fence g x c) s = .next ((begun s (.fence g x c)).retire false)) ∧
  (∀ (s : State), (∀ e ∈ (s.unit (s.unitOf s.cur)).sb, e.ctx ≠ s.cur) → (s.ctx s.cur).ldqOut = [] → (s.dirE s.cur).unacked = 0 →
    exec .drain s = .next (((begun s .drain).retire false).modDir s.cur (fun d => { d with drained := true })))

/-- R174, R175, R165: CSRR writes the register's value to its destination, a supervisor register only for a supervisor
context. R175: CSRW replaces the RW bits of its register and no other bit of any; writing ovr.info with bit 63 set empties the
record. R72: a supervisor register traps with cause 0x04 for a context that is no supervisor. R95, R434: the device's steps on
control registers: finished engine work accrues its flags into fp.flags; clearing the overwrite record empties it. -/
def Obligations.ControlRegisters : Prop :=
  ((∀ (s : State) (d : BitVec 5) (n : BitVec 14), (0x100 ≤ n.toNat ∧ n.toNat ≤ 0x1FF → (s.ctx s.cur).sup = true) → canName s d → n ≠ 0x11 →
     exec (.csrr d n) s = .next ((written (begun s (.csrr d n)) d ((begun s (.csrr d n)).csrRead s.cur n.toNat)).retire false)) ∧
   (∀ (s : State) (d : BitVec 5), canName s d → s.flagsDue s.cur = false →
     ∃ t, exec (.csrr d 0x11) s = .next t ∧ (t.ctx s.cur).pc = (s.ctx s.cur).pc + 4 ∧
       (d.toNat ≠ 0 → (t.ctx s.cur).s d.toNat = (s.ctx s.cur).csrGet 0x11 ||| BitVec.ofNat 64 (s.dirE s.cur).flagsAcc)) ∧
   (∀ (s : State) (c : Nat), s.csrRead c 0x000 = BitVec.ofNat 64 (bits s.linkcfg 2 0 * 65536 + c) ∧
     s.csrRead c 0x002 = BitVec.ofNat 64 ((s.dirE c).home * 2 ^ 32 + s.unitOf c) ∧
     s.csrRead c 0x003 = BitVec.ofNat 64 (s.ctx c).grp ∧
     s.csrRead c 0x038 = BitVec.ofNat 64 (s.unit (s.unitOf c)).cyc ∧ s.csrRead c 0x039 = BitVec.ofNat 64 s.time) ∧
   (∀ (s : State) (d : BitVec 5) (n : BitVec 14), 0x100 ≤ n.toNat ∧ n.toNat ≤ 0x1FF → (s.ctx s.cur).sup = false →
     exec (.csrr d n) s = .next (trapped s (.csrr d n) 0x04))) ∧
  ((∀ (s : State) (a : BitVec 5) (n : BitVec 14), (0x100 ≤ n.toNat ∧ n.toNat ≤ 0x1FF → (s.ctx s.cur).sup = true) → canRead s a →
     n ≠ 0x11 → n ≠ 0x50 →
     exec (.csrw a n) s = .next (((begun s (.csrw a n)).modCtx s.cur (fun x => x.csrSet n.toNat
       ((x.csrGet n.toNat &&& ~~~rwBits n.toNat) ||| (regVal s a &&& rwBits n.toNat)))).retire false)) ∧
   (∀ (s : State) (a : BitVec 5), canRead s a → s.flagsDue s.cur = false →
     ∃ t, exec (.csrw a 0x11) s = .next t ∧ (t.ctx s.cur).pc = (s.ctx s.cur).pc + 4 ∧
       ∀ i, i < 6 → bit ((t.ctx s.cur).csrGet 0x11) i = bit (regVal s a) i) ∧
   (∀ (s : State) (a : BitVec 5), canRead s a →
     exec (.csrw a 0x50) s = .next (((begun s (.csrw a 0x50)).modCtx s.cur (fun x =>
       if bit (regVal s a) 63 = true then { x with ovr := {} } else x)).retire false)) ∧
   (∀ (s : State) (a : BitVec 5) (n : BitVec 14), 0x100 ≤ n.toNat ∧ n.toNat ≤ 0x1FF → (s.ctx s.cur).sup = false →
     exec (.csrw a n) s = .next (trapped s (.csrw a n) 0x04))) ∧
  ((∀ s : State, (mfind s.ctxs s.arg.n0).isSome = true → s.flagsDue s.arg.n0 = false →
     ∃ t, exec .fpFlagsSync s = .next t ∧
       (t.ctx s.arg.n0).csrGet 0x11 = (s.ctx s.arg.n0).csrGet 0x11 ||| BitVec.ofNat 64 (s.dirE s.arg.n0).flagsAcc ∧
       (t.dirE s.arg.n0).flagsAcc = 0 ∧ t.mem = s.mem) ∧
   (∀ s : State, (mfind s.ctxs s.arg.n0).isSome = true →
     exec .ovrInfoClear s = .next (s.modCtx s.arg.n0 (fun x => { x with ovr := {} }))))

/-- R171, R172, R173: binding a port replaces its binding; a network queue the unit has no neighbour for, or that another
context of the unit holds, is cause 0x06; QSTAT reads the port's counts. -/
def Obligations.QueuePortsBind : Prop :=
  (∀ (s : State) (p : BitVec 3), exec (.qbindUn p) s =
    .next (((begun s (.qbindUn p)).modCtx s.cur (fun x => { x with ports := mset x.ports p.toNat {} })).retire false)) ∧
  (∀ (s : State) (p : BitVec 3), exec (.qbindLd p) s =
    .next (((begun s (.qbindLd p)).modCtx s.cur (fun x => { x with ports := mset x.ports p.toNat { kind := 1 } })).retire false)) ∧
  (∀ (s : State) (p : BitVec 3) (e : BitVec 2),
    exec (.qbindTx p e) s = .next (if neighbour (s.unitOf s.cur) e.toNat = none ∨ s.dirTaken s.cur (s.unitOf s.cur) 2 e.toNat = true
      then trapped s (.qbindTx p e) 0x06
      else ((begun s (.qbindTx p e)).modCtx s.cur (fun x => { x with ports := mset x.ports p.toNat { kind := 2, dir := e.toNat } })).retire false)) ∧
  (∀ (s : State) (p : BitVec 3) (e : BitVec 2),
    exec (.qbindRx p e) s = .next (if neighbour (s.unitOf s.cur) e.toNat = none ∨ s.dirTaken s.cur (s.unitOf s.cur) 3 e.toNat = true
      then trapped s (.qbindRx p e) 0x06
      else ((begun s (.qbindRx p e)).modCtx s.cur (fun x => { x with ports := mset x.ports p.toNat { kind := 3, dir := e.toNat } })).retire false)) ∧
  (∀ (s : State) (p : BitVec 3) (a : BitVec 5), canRead s a →
    exec (.qbindRr p a) s = .next (if 8 ≤ (regVal s a).toNat % 64 then trapped s (.qbindRr p a) 0x06
      else ((begun s (.qbindRr p a)).modCtx s.cur (fun x =>
        { x with ports := mset x.ports p.toNat { kind := 4, ring := (regVal s a).toNat % 64 } })).retire false)) ∧
  (∀ (s : State) (d : BitVec 5) (p : BitVec 3), canName s d →
    exec (.qstat d p) s = .next ((written (begun s (.qstat d p)) d
      (s.qstatWord (s.unitOf s.cur) (s.dirE s.cur).part (mget (s.ctx s.cur).ports p.toNat {}))).retire false))

/-- R21, R166, R167, R229 to R241, R247: every vector and mask instruction that reads no memory enters its context's dispatch
queue where that has room, with the scalars it names; one with a scalar result leaves its register empty and outstanding.
R224, R167, R383: the entry at the head of a resident context's queue, once its sources are there, leaves the queue with the
effect the rules give its instruction, a correctable error of a source corrected and recorded; a scalar result then reaches
its register, which is full, and wakes the context. -/
def Obligations.WideInstructionsQueueAndExecute : Prop :=
  (WideQueuesB .vadd ∧ WideQueuesB .vsub ∧ WideQueuesB .vmul ∧ WideQueuesB .vfma ∧ WideQueuesB .vfms ∧ WideQueuesB .vmin ∧
   WideQueuesB .vmax ∧ WideQueuesB .vdiv ∧ WideQueuesB .vand ∧ WideQueuesB .vor ∧ WideQueuesB .vxor ∧ WideQueuesB .vshl ∧
   WideQueuesB .vshr ∧ WideQueuesB .vsra ∧ WideQueuesB .vsel ∧ WideQueuesB .vperm ∧
   (∀ (s : State) (m : BitVec 3) (a b : BitVec 5) (k : BitVec 3) (g : BitVec 2) (t : BitVec 3), (s.ctx s.cur).dq.length < 4 →
     ∀ mk ∈ [Instr.vcmpeq, Instr.vcmplt, Instr.vcmple],
       exec (mk m a b k g 0 t) s = .next ((queued s (mk m a b k g 0 t) []).retire false) ∧
       (canRead s b → exec (mk m a b k g 1 t) s = .next ((queued s (mk m a b k g 1 t) [regVal s b]).retire false))) ∧
   (∀ (d a : BitVec 5) (k : BitVec 3) (g : BitVec 2) (t : BitVec 3),
     (∀ mk ∈ [Instr.vabs, Instr.vneg, Instr.vsqrt, Instr.vrsqrt, Instr.vrcp, Instr.vexp2, Instr.vlog2, Instr.vtanh, Instr.vmv],
       WideQueues (mk d a k g t)) ∧
     (∀ mk ∈ [Instr.vredsum, Instr.vredmax, Instr.vredmin, Instr.vargmax], WideReturns (mk d a k g t) d) ∧
     (∀ i : BitVec 6, WideQueues (.vslideu d a k g t i) ∧ WideQueues (.vslided d a k g t i) ∧ WideQueues (.vbcast d a k g t i) ∧
       WideQueues (.vext d a k t i)) ∧
     (∀ u m : BitVec 3, WideQueues (.vcvt d a u k g t) ∧ WideQueues (.viota d u k g t) ∧ WideQueues (.vmfa d u k t) ∧
       WideQueues (.vmta u a k t) ∧ WideQueues (.kand u m k) ∧ WideQueues (.kor u m k) ∧ WideQueues (.knot u m) ∧
       WideReturns (.kpop d u) d ∧ WideReturns (.kfirst d u) d ∧ WideQueues (.aldV u a t)) ∧
     (∀ (c : BitVec 3) (x : BitVec 1), WideQueues (.astV a c x t)) ∧
     (∀ (s : State) (b : BitVec 5), (s.ctx s.cur).dq.length < 4 → canRead s b →
       exec (.vmvScalar d b k g t) s = .next ((queued s (.vmvScalar d b k g t) [regVal s b]).retire false) ∧
       exec (.vtopk d a b k g t) s = .next ((queued s (.vtopk d a b k g t) [regVal s b]).retire false)))) ∧
  ((∀ (s : State) (u k : Nat) (e : DqEnt) (l : List DqEnt) (i : Instr), (s.dirE s.arg.n0).place = .slot u k →
     (s.ctx s.arg.n0).dq = e :: l → decode e.word = .instr i → runsAtHead i = false → isWideStore i = false → e.store = none →
     headReady s s.arg.n0 i →
     exec .wideInstructionAtHead s = .next ((s.wideFix s.arg.n0 i).setCtx s.arg.n0
       (withResult (wideEffect i { fmt := e.fmt, sc := e.scalars } { s.ctx s.arg.n0 with dq := l })))) ∧
   (∀ (s : State) (r : Nat) (v : Word) (l : List (Nat × Word)), (s.ctx s.arg.n0).results = (r, v) :: l → 0 < r → r < 32 → (∀ q ∈ l, q.1 ≠ r) →
     ∃ t, exec .scalarResultReturn s = .next t ∧ (t.ctx s.arg.n0).s r = v ∧ bit (t.ctx s.arg.n0).sFull r = true ∧
       bit (t.ctx s.arg.n0).outst r = false ∧ (t.ctx s.arg.n0).results = l ∧ t.mem = s.mem))

/-- R223, R229, R230, R231, R233, R234, R199: the element-wise instructions write each active element's result, of their exact integer
operands by IntResult, of bit patterns as they are, or, for FP32 elements, as the scalar instruction of the same name computes it; the
other elements keep their values, and no register outside the group changes. Compares write their mask. -/
def Obligations.VectorResults : Prop :=
  (∀ t : BitVec 3, 4 ≤ t.toNat →
    Lanes2 .vadd t (fun fm a b _ => intOut fm t (tyVal t a + tyVal t b)) ∧ Lanes2 .vsub t (fun fm a b _ => intOut fm t (tyVal t a - tyVal t b)) ∧
    Lanes2 .vmul t (fun fm a b _ => intOut fm t (tyVal t a * tyVal t b)) ∧
    Lanes2 .vfma t (fun fm a b c => intOut fm t (tyVal t c + tyVal t a * tyVal t b)) ∧
    Lanes2 .vfms t (fun fm a b c => intOut fm t (tyVal t c - tyVal t a * tyVal t b)) ∧
    Lanes2 .vmin t (fun _ a b _ => plain (if tyVal t b < tyVal t a then b else a)) ∧
    Lanes2 .vmax t (fun _ a b _ => plain (if tyVal t a < tyVal t b then b else a)) ∧
    Lanes1 .vabs t (fun fm a => intOut fm t (tyVal t a).natAbs) ∧ Lanes1 .vneg t (fun fm a => intOut fm t (-tyVal t a)) ∧
    Compares .vcmpeq t (fun a b => tyVal t a = tyVal t b) ∧ Compares .vcmplt t (fun a b => tyVal t a < tyVal t b) ∧
    Compares .vcmple t (fun a b => tyVal t a ≤ tyVal t b)) ∧
  (∀ t : BitVec 3, let w := tyBits t
    Lanes2 .vand t (fun _ a b _ => plain (a &&& b)) ∧ Lanes2 .vor t (fun _ a b _ => plain (a ||| b)) ∧ Lanes2 .vxor t (fun _ a b _ => plain (a ^^^ b)) ∧
    Lanes2 .vshl t (fun _ a b _ => plain (a * 2 ^ (b % w) % 2 ^ w)) ∧ Lanes2 .vshr t (fun _ a b _ => plain (a / 2 ^ (b % w))) ∧
    Lanes2 .vsra t (fun _ a b _ => plain (((if a < 2 ^ (w - 1) then (a : Int) else a - 2 ^ w) / 2 ^ (b % w) % 2 ^ w).toNat))) ∧
  (let two := fun (f : Word → Word → Word → Word × Nat) (fm : Word) (a b _ : Nat) =>
      ((f fm (BitVec.ofNat 64 a) (BitVec.ofNat 64 b)).1.toNat, (f fm (BitVec.ofNat 64 a) (BitVec.ofNat 64 b)).2);
    Lanes2 .vadd 0 (two fAdd) ∧ Lanes2 .vsub 0 (two fSub) ∧ Lanes2 .vmul 0 (two fMul) ∧ Lanes2 .vdiv 0 (two fDiv) ∧
    Lanes2 .vmin 0 (two (fun _ a b => (fMinMax true a b, 0))) ∧ Lanes2 .vmax 0 (two (fun _ a b => (fMinMax false a b, 0))) ∧
    Lanes1 .vsqrt 0 (fun fm a => let r := fSqrt fm (BitVec.ofNat 64 a); (r.1.toNat, r.2)) ∧
    Compares .vcmpeq 0 (fun a b => fCmp fvEq (BitVec.ofNat 64 a) (BitVec.ofNat 64 b) = 1) ∧
    Compares .vcmplt 0 (fun a b => fCmp fvLt (BitVec.ofNat 64 a) (BitVec.ofNat 64 b) = 1) ∧
    Compares .vcmple 0 (fun a b => fCmp (fun u v => !fvLt v u) (BitVec.ofNat 64 a) (BitVec.ofNat 64 b) = 1))

/-- R235, R236, R237, R238, R239, R241, R247: selection, movement, conversion between integer types, integer reductions, accumulator
copies and mask logic: what each active element, mask or scalar receives, with nothing else changed. -/
def Obligations.VectorMovesAndMasks : Prop :=
  (∀ (q : WideIn) (x : Ctx) (d a b : BitVec 5) (k : BitVec 3) (g : BitVec 2) (sh : BitVec 1) (t : BitVec 3),
    let w := tyBits t
    let n := 2 ^ g.toNat
    let y := wideEffect (.vsel d a b k g sh t) q x
    y.2 = none ∧ y.1.csr = x.csr ∧
      GroupSet x y.1 w d.toNat n (fun e => some (if act x k e = true then elem x w a.toNat e else argB q x b sh w e))) ∧
  (∀ t : BitVec 3, Lanes1 .vmv t (fun _ a => plain a)) ∧
  (∀ (q : WideIn) (x : Ctx) (d a b : BitVec 5) (m k : BitVec 3) (g : BitVec 2) (sh : BitVec 1) (t : BitVec 3) (i : BitVec 6),
    let w := tyBits t
    let n := 2 ^ g.toNat
    let N := n * (2048 / w)
    Elementwise x (wideEffect (.vperm d a b k g sh t) q x).1 w d n k (fun e =>
      plain (if argB q x b sh w e < N then elem x w a.toNat (argB q x b sh w e) else 0)) ∧
    Elementwise x (wideEffect (.vslideu d a k g t i) q x).1 w d n k (fun e =>
      plain (if i.toNat ≤ e then elem x w a.toNat (e - i.toNat) else elem x w d.toNat e)) ∧
    Elementwise x (wideEffect (.vslided d a k g t i) q x).1 w d n k (fun e =>
      plain (if e + i.toNat < N then elem x w a.toNat (e + i.toNat) else elem x w d.toNat e)) ∧
    Elementwise x (wideEffect (.vbcast d a k g t i) q x).1 w d n k (fun _ => plain (elem x w a.toNat i.toNat)) ∧
    Elementwise x (wideEffect (.vmvScalar d b k g t) q x).1 w d n k (fun _ => plain ((q.sc.getD 0 0).toNat % 2 ^ w)) ∧
    Elementwise x (wideEffect (.vext d a k t i) q x).1 w d 1 k (fun e => plain (elem x w a.toNat (e + i.toNat * (2048 / w) / 64))) ∧
    Elementwise x (wideEffect (.vmfa d m k t) q x).1 32 d 4 k (fun e => plain ((mget x.areg m.toNat 0).toNat / 2 ^ (32 * e) % 2 ^ 32))) ∧
  (∀ (q : WideIn) (x : Ctx) (d : BitVec 5) (m k : BitVec 3) (g : BitVec 2) (t : BitVec 3), 2 ^ g.toNat * (2048 / tyBits t) ≤ 256 →
    Elementwise x (wideEffect (.viota d m k g t) q x).1 (tyBits t) d (2 ^ g.toNat) k (fun e =>
      plain (countBits e (fun i => bit (maskAt x m) i)))) ∧
  (∀ (q : WideIn) (x : Ctx) (d a : BitVec 5) (u k : BitVec 3) (g : BitVec 2) (t : BitVec 3), 4 ≤ u.toNat → 4 ≤ t.toNat →
    Elementwise x (wideEffect (.vcvt d a u k g t) q x).1 (tyBits t) d (2 ^ g.toNat) k (fun e =>
      intOut 8 t (tyVal u (elem x (tyBits u) a.toNat e)))) ∧
  (∀ (q : WideIn) (x : Ctx) (d a : BitVec 5) (k : BitVec 3) (g : BitVec 2) (t : BitVec 3), 4 ≤ t.toNat →
    let l := (List.range (2 ^ g.toNat * (2048 / tyBits t))).filter (fun e => act x k e)
    let v := fun e => tyVal t (elem x (tyBits t) a.toNat e)
    wideEffect (.vredsum d a k g t) q x = (x, some (d.toNat, BitVec.ofInt 64 (l.map v).sum)) ∧
    (∃ m : Int, wideEffect (.vredmax d a k g t) q x = (x, some (d.toNat, BitVec.ofInt 64 m)) ∧
      (∀ e ∈ l, v e ≤ m) ∧ if l = [] then m = tyLo t else ∃ e ∈ l, v e = m) ∧
    (∃ m : Int, wideEffect (.vredmin d a k g t) q x = (x, some (d.toNat, BitVec.ofInt 64 m)) ∧
      (∀ e ∈ l, m ≤ v e) ∧ if l = [] then m = tyHi t else ∃ e ∈ l, v e = m) ∧
    (if l = [] then wideEffect (.vargmax d a k g t) q x = (x, some (d.toNat, 0xFFFFFFFFFFFFFFFF))
      else ∃ e ∈ l, wideEffect (.vargmax d a k g t) q x = (x, some (d.toNat, BitVec.ofNat 64 e)) ∧
        ∀ f ∈ l, v f ≤ v e ∧ (v f = v e → e ≤ f))) ∧
  (∀ (q : WideIn) (x : Ctx) (d : BitVec 3) (a : BitVec 5) (k t : BitVec 3), t = 0 ∨ t = 4 →
    let y := (wideEffect (.vmta d a k t) q x).1
    (wideEffect (.vmta d a k t) q x).2 = none ∧ y = { x with areg := y.areg, aInt := y.aInt, aFull := y.aFull } ∧
    (∀ e, e < 256 → (mget y.areg d.toNat 0).toNat / 2 ^ (32 * e) % 2 ^ 32 =
      if act x k e = true then elem x 32 a.toNat e else (mget x.areg d.toNat 0).toNat / 2 ^ (32 * e) % 2 ^ 32) ∧
    bit y.aInt d.toNat = decide (t = 4) ∧ bit y.aFull d.toNat = true ∧
    (∀ i, i ≠ d.toNat → mget y.areg i 0 = mget x.areg i 0 ∧ bit y.aInt i = bit x.aInt i ∧ bit y.aFull i = bit x.aFull i)) ∧
  (∀ (q : WideIn) (x : Ctx) (d a b : BitVec 3) (r : BitVec 5),
    wideEffect (.kand d a b) q x = (masked x d (maskAt x a &&& maskAt x b), none) ∧
    wideEffect (.kor d a b) q x = (masked x d (maskAt x a ||| maskAt x b), none) ∧
    wideEffect (.knot d a) q x = (masked x d (~~~maskAt x a), none) ∧
    wideEffect (.kpop r a) q x = (x, some (r.toNat, BitVec.ofNat 64 (countBits 256 (fun i => bit (maskAt x a) i)))) ∧
    (if maskAt x a = 0 then wideEffect (.kfirst r a) q x = (x, some (r.toNat, 0xFFFFFFFFFFFFFFFF))
      else ∃ i, i < 256 ∧ wideEffect (.kfirst r a) q x = (x, some (r.toNat, BitVec.ofNat 64 i)) ∧ bit (maskAt x a) i = true ∧
        ∀ j, j < i → bit (maskAt x a) j = false))

/-- R145, R146, R152, R153: CPY and FILL are accepted where the checks of R152 pass, with their operands, regions and shape.
R156, R28, R147: COLL is accepted for each of its five operations while no member migrates, with the member mask as captured;
the issuing unit's own region is declared where a member's logical unit names that unit. That an address check of COLL uses
causes 0x08 and 0x09 is deduced, log 25. -/
def Obligations.CopyAndCollectiveCommandsAccepted : Prop :=
  ((∀ (s : State) (d a b : BitVec 5) (h : BitVec 4) (dop so : Opnd) (dr sr : Region),
     canRead s a → canRead s b → canName s d → shapeSound s h → CopyFields (shapeAt s h) 1 false false →
     let q := copyShape (shapeAt s h)
     Multiples [((regVal s b).toNat : Int), ((regVal s a).toNat : Int), q.ss0, q.ss1, q.ds0, q.ds1] q.e →
     Operand s (regVal s b) (spanOf q q.ss0 q.ss1).1 (spanOf q q.ss0 q.ss1).2 accR so sr →
     Operand s (regVal s a) (spanOf q q.ds0 q.ds1).1 (spanOf q q.ds0 q.ds1).2 accW dop dr → apart [sr] [dr] → schedFree s →
     exec (.cpy d a b h) s = .next ((accepted s (.cpy d a b h) d
       { command s (.cpy d a b h) with shape := shapeAt s h, ops := [dop, so], reads := [sr], writes := [dr] }).retire false)) ∧
   (∀ (s : State) (d a b : BitVec 5) (h : BitVec 4) (dop : Opnd) (dr : Region),
     canRead s a → canRead s b → canName s d → shapeSound s h → CopyFields (shapeAt s h) 1 true false →
     let q := copyShape (shapeAt s h)
     Multiples [((regVal s a).toNat : Int), q.ds0, q.ds1] q.e →
     Operand s (regVal s a) (spanOf q q.ds0 q.ds1).1 (spanOf q q.ds0 q.ds1).2 accW dop dr → apart [] [dr] → schedFree s →
     exec (.fill d a b h) s = .next ((accepted s (.fill d a b h) d
       { command s (.fill d a b h) with shape := shapeAt s h, ops := [dop], args := [regVal s b], writes := [dr] }).retire false)) ∧
   IndexAccepts .gath true ∧ IndexAccepts .scat false ∧ TileMoveAccepts .tmov false ∧ TileMoveAccepts .tmovTg true) ∧
  (∀ (s : State) (d a b : BitVec 5) (h : BitVec 4) (dop so : Opnd) (dr sr : Region),
     canRead s a → canRead s b → canRead s d → shapeSound s h → CopyFields (shapeAt s h) 3 false false →
     let q := copyShape (shapeAt s h)
     let mask := regVal s b
     q.cop < 5 → mask.toNat < 2 ^ 16 → mask ≠ 0 →
     (q.cop = 1 ∨ q.cop = 2 → q.fem = 0 ∧ ((q.ety = 0 ∧ q.e = 4) ∨ (q.ety = 1 ∧ q.e = 2) ∨ (q.ety = 4 ∧ q.e = 4))) →
     Multiples [((regVal s d).toNat : Int), ((regVal s a).toNat : Int)] q.e →
     (q.cop = 1 ∨ q.cop = 2 ∨ q.cop = 3 → isWindow (regVal s d) = true ∧ bits (regVal s d) 47 44 = 1) →
     (q.cop = 0 ∨ q.cop = 2 → isWindow (regVal s a) = true ∧ bits (regVal s a) 47 44 = 1) →
     (q.cop = 4 → isWindow (regVal s a) = true ∧ bits (regVal s a) 47 44 = 2) →
     Operand s (regVal s d) 0 ((q.n0 * q.e : Nat) : Int) accR so sr →
     Operand s (regVal s a) 0 ((if q.cop = 3 then popCount (BitVec.ofNat 16 mask.toNat) * (q.n0 * q.e) else q.n0 * q.e : Nat) : Int) accW dop dr →
     let unitOf := fun (j : Nat) => s.lumRes (s.dirE s.cur).part (if q.cop = 4 then 16 * j else (s.dirE s.cur).home / 16 * 16 + j)
     (∀ j, j < 16 → bit mask j = true → unitOf j ≠ .migrating) →
     let own := (List.range 16).any (fun j => bit mask j && unitOf j == .to (s.unitOf s.cur))
     let reads := declared (s.unitOf s.cur) (q.cop == 1 || q.cop == 2 || q.cop == 3) own so sr
     let writes := if q.cop = 4 then s.castRegions (s.dirE s.cur).part mask (windowOff (regVal s a)) (q.n0 * q.e)
       else declared (s.unitOf s.cur) (q.cop == 0 || q.cop == 2) own dop dr
     apart reads writes → schedFree s →
     exec (.coll d a b h) s = .next ((accepted s (.coll d a b h) d { command s (.coll d a b h) with
       shape := shapeAt s h, ops := [dop, so], args := [mask], reads := reads, writes := writes }).retire false))

/-- R128, R129, R120: TTAG, TTAG.CAS and TGET read a granule's tag whole; TTAG gives it a new one, .cas only over the expected. -/
def Obligations.TagsReadAndWritten : Prop :=
  TagWrites .ttag false ∧ TagWrites .ttagCas true ∧
  (∀ (s : State) (d a : BitVec 5) (loc : Nat), canRead s a → canName s d → TagHome s (regVal s a) accR loc → tagFree s loc →
    exec (.tget d a) s = .next ((written ((begun s (.tget d a)).touch loc) d ((s.tagAt loc).setWidth 64)).retire false))

/-- R146, R157: XWAIT and XSTAT give a command's status word, XWAIT once the command has ended; XWAIT.ALL gives XFAIL and
clears it once every command of the context has ended. R148, R150, R159, R160: a command starts when nothing before it
conflicts, which bars the replay of earlier ones whose write regions it meets and recalls what its cluster lends; at its end
its effect is made, its status kept and its issuer woken; a fault ends it with a record to its issuer; an internal error is
replayed with a record of cause 0x44 where it can be, and else ends the command with cause 0x45. That a command's effect is
made whole at the step that ends it is the model's choice, log 7; when an internal error may be replayed is log 41. -/
def Obligations.CommandsRunAndReport : Prop :=
  ((∀ (s : State) (d a : BitVec 5), canRead s a → canName s d → (regVal s a).toNat < 2 ^ 41 → (regVal s a).toNat / 2 ^ 24 % 256 = 128 →
     (regVal s a).toNat / 2 ^ 32 = (s.dirE s.cur).home →
     exec (.xstat d a) s = .next ((written (begun s (.xstat d a)) d
       ((s.unit (s.unitOf s.cur)).status ((regVal s a).toNat % 2 ^ 24))).retire false) ∧
     ((s.unit (s.unitOf s.cur)).status ((regVal s a).toNat % 2 ^ 24) ≠ 1 →
       exec (.xwait d a) s = .next ((written (begun s (.xwait d a)) d
         ((s.unit (s.unitOf s.cur)).status ((regVal s a).toNat % 2 ^ 24))).retire false))) ∧
   (∀ (s : State) (d : BitVec 5), canName s d → s.enginesBusy s.cur = false →
     exec (.xwaitAll d) s = .next (((written (begun s (.xwaitAll d)) d (s.dirE s.cur).xfail).modDir s.cur
       (fun e => { e with xfail := 0, xfailNo := 0, xfailNew := false })).retire false)) ∧
   (∀ (x : UnitSt) (q : Nat), (∃ k ∈ x.cmds, k.seq = q) → (∀ e ∈ x.done, e.1 ≠ q) → x.status q = 1) ∧
   (∀ (x : UnitSt) (q : Nat) (w : Word) (l : List (Nat × Word)), x.done = (q, w) :: l → x.status q = w) ∧
   (∀ (x : UnitSt) (q : Nat), (∀ k ∈ x.cmds, k.seq ≠ q) → (∀ e ∈ x.done, e.1 ≠ q) → x.status q = 4)) ∧
  ((∀ (s : State) (k : Cmd), s.cmdOf s.arg.n0 s.arg.n1 false = some k → s.canStart s.arg.n0 k = true →
     exec .engineCommandStart s = .next (((s.staleStart k).recall s.arg.n0).modUnit s.arg.n0 (fun x =>
       { x with cmds := x.cmds.map (fun j => if j.seq = k.seq ∧ j.order = k.order then { j with started := true } else j) }))) ∧
   (∀ (s t : State) (k : Cmd) (m f fl : Nat), s.arg.n0 < 260 → mayRun s k →
     runCmd s s.arg.n0 k = .ok t m f fl → exec .engineCommandComplete s = .next ((t.doneCmd s.arg.n0 k m f fl).afterCmd s.arg.n0)) ∧
   (∀ (s t : State) (k : Cmd) (c m f fl : Nat), s.arg.n0 < 260 → mayRun s k →
     runCmd s s.arg.n0 k = .fault t c m f fl → s.faultRoom k = true →
     exec .engineFault s = .next (((t.cancelHead k).failCmd s.arg.n0 k c m f fl).afterCmd s.arg.n0)) ∧
   (∀ (s : State) (k : Cmd), s.arg.n0 < 260 → mayRun s k →
     (if s.arg.v ≠ 1 ∧ s.canReplay k = true then exec .engineError s = .next (s.logR (clusterOf s.arg.n0) 0x44 0)
       else s.faultRoom k = true →
         exec .engineError s = .next ((((cutCmd s s.arg.n0 k).cancelHead k).failCmd s.arg.n0 k 0x45 0 0 0).afterCmd s.arg.n0))) ∧
   (∀ (s : State) (u : Nat) (k : Cmd) (m f fl : Nat), k.issuer < 65536 →
     ((s.doneCmd u k m f fl).unit u).cmds.map (fun j => (j.seq, j.order)) =
       ((s.unit u).cmds.map (fun j => (j.seq, j.order))).filter (· != (k.seq, k.order)) ∧
     ((∀ j ∈ (s.unit u).cmds, j.seq = k.seq → j.order ≤ k.order) → (∀ e ∈ (s.unit u).done, e.1 ≠ k.seq) →
       ((s.doneCmd u k m f fl).unit u).done.head? = some (k.seq, statusWord 0 0 m f)) ∧
     ((s.doneCmd u k m f fl).dirE k.issuer).event = true ∧ ((s.doneCmd u k m f fl).dirE k.issuer).ready = true))

/-- R153, R123, R131, R126, R300: what CPY, FILL, TMOV, TMOV.TG and SNAP write at their end, between scratchpads: every word or element of
the destination takes the source's, full/empty bits by FEM or as they were, granules written whole take the output tag, the source
granule's or none, others lose V, and nothing else in memory changes. -/
def Obligations.CopiesMoveData : Prop :=
  (∀ (s : State) (u dl sl : Nat) (k : Cmd) (x y : Word), quiet s → k.cut = false → k.ops = [{ va := x, home := some dl }, { va := y, home := some sl }] →
    2 ^ 50 ≤ dl → 2 ^ 50 ≤ sl →
    let q := copyShape k.shape
    (∀ (d a b : BitVec 5) (h : BitVec 4), decode k.word = .instr (.cpy d a b h) → rowsApart q →
      sl % q.e = 0 → dl % q.e = 0 → q.ss0 % (q.e : Int) = 0 → (∀ i, i < q.n1 → 2 ^ 50 ≤ at_ sl (i * q.ss0) ∧ 2 ^ 50 ≤ at_ dl (i * q.ds0)) →
      ∃ t, runCmd s u k = .ok t 0 0 0 ∧ Wrote s t (fun _ => BitVec.ofNat 16 q.otag) ((List.range q.n1).flatMap (fun (i : Nat) => (List.range q.n0).map (fun j =>
        copied s (at_ sl (i * q.ss0) + j * q.e) (at_ dl (i * q.ds0) + j * q.e) q.e q.fem)))) ∧
    (∀ (d a b : BitVec 5) (h : BitVec 4) (tg : Bool), decode k.word = .instr (if tg then .tmovTg d a b h else .tmov d a b h) →
      dl % 1024 = 0 → sl % 1024 = 0 →
      ∃ t, runCmd s u k = .ok t 0 0 0 ∧
        Wrote s t (fun g => if tg = true then BitVec.ofNat 16 (shapeF k.shape 8 / 2 ^ 16) else s.tagAt (sl + (g - dl)))
          ((List.range (128 * shapeF k.shape 1)).map (fun i => copied s (sl + 8 * i) (dl + 8 * i) 8 1))) ∧
    (∀ (d a b : BitVec 5) (n : Nat), decode k.word = .instr (.snap d a b) → k.args = [BitVec.ofNat 64 (8 * n)] → 8 * n < 2 ^ 64 →
      dl % 8 = 0 → sl % 8 = 0 →
      ∃ t, runCmd s u k = .ok t 0 0 0 ∧ Wrote s t (fun _ => 0) ((List.range n).map (fun i => copied s (sl + 8 * i) (dl + 8 * i) 8 1)))) ∧
  (∀ (s : State) (u dl : Nat) (k : Cmd) (x v : Word) (d a b : BitVec 5) (h : BitVec 4), quiet s → k.cut = false →
    k.ops = [{ va := x, home := some dl }] → k.args = [v] → decode k.word = .instr (.fill d a b h) → 2 ^ 50 ≤ dl →
    let q := copyShape k.shape
    rowsApart q → q.fem ≠ 1 → dl % q.e = 0 → (∀ i, i < q.n1 → 2 ^ 50 ≤ at_ dl (i * q.ds0)) →
    ∃ t, runCmd s u k = .ok t 0 0 0 ∧ Wrote s t (fun _ => BitVec.ofNat 16 q.otag) ((List.range q.n1).flatMap (fun (i : Nat) => (List.range q.n0).map (fun j =>
      { loc := at_ dl (i * q.ds0) + j * q.e, n := q.e, val := v.toNat % 2 ^ (8 * q.e), fe := feGiven q.fem false }))))

/-- R154, R155, R156: what GATH, SCAT and COLL write at their end, between scratchpads: the rows that the index list names, with the miss
bitmap and the count and number of the misses, or nothing and cause 0x12 where IFM asks for it; and the elements copied to, gathered
from, or summed over the members, integer sums saturating in increasing member number. -/
def Obligations.RowsAndCollectivesMoveData : Prop :=
  (∀ (s : State) (u dl sl ll : Nat) (k : Cmd) (x y z : Word) (gath : Bool) (d a b : BitVec 5) (h : BitVec 4), quiet s → k.cut = false →
    decode k.word = .instr (if gath then .gath d a b h else .scat d a b h) →
    k.ops = [{ va := x, home := some dl }, { va := y, home := some sl }, { va := z, home := some ll }] → 2 ^ 50 ≤ dl → 2 ^ 50 ≤ sl → 2 ^ 50 ≤ ll →
    let q := copyShape k.shape
    let e := q.e
    let row := q.n2 * e
    let ss : Int := if q.ss0 = 0 then row else q.ss0
    let ds : Int := if q.ds0 = 0 then row else q.ds0
    let idx := fun (i : Nat) => leVal s.mem (ll + 4 * i) 4
    let bad := fun (i : Nat) => decide (q.n1 ≤ idx i)
    let misses := countBits q.n0 bad
    let first := ((List.range q.n0).find? bad).getD 0
    let rows := (List.range q.n0).filter (fun (i : Nat) => gath || (!bad i && (List.range q.n0).all (fun j => decide (j ≤ i) || idx j != idx i)))
    let puts := rows.flatMap (fun (i : Nat) => (List.range q.n2).map (fun j =>
        if gath = false then copied s (at_ sl (i * ss) + j * e) (at_ dl (idx i * ds) + j * e) e q.fem
        else if bad i = true then { loc := at_ dl (i * ds) + j * e, n := e, val := 0, fe := feGiven q.fem false }
        else copied s (at_ sl (idx i * ss) + j * e) (at_ dl (i * ds) + j * e) e q.fem))
    let bitmap := if q.mbe = true then (List.range ((q.n0 + 7) / 8)).map (fun m =>
        ({ loc := unitLoc u (q.sp + m), n := 1, val := ((List.range 8).map (fun b => if 8 * m + b < q.n0 ∧ bad (8 * m + b) = true then 2 ^ b else 0)).sum,
           fe := none } : Put)) else []
    row ≤ ds.natAbs → (q.fem = 1 → e = 8) → sl % e = 0 → dl % e = 0 → ss % (e : Int) = 0 → ds % (e : Int) = 0 → ll % 4 = 0 →
    (∀ p ∈ puts, 2 ^ 50 ≤ p.loc) → (∀ i, i < q.n0 → bad i = false → 2 ^ 50 ≤ at_ sl ((if gath then idx i else i : Nat) * ss)) →
    (∀ p ∈ puts, ∀ m ∈ bitmap, p.loc + p.n ≤ m.loc ∨ m.loc + m.n ≤ p.loc) →
    (q.ifm = false ∨ misses = 0 →
      ∃ t, runCmd s u k = .ok t misses first 0 ∧ Wrote s t (fun _ => BitVec.ofNat 16 q.otag) (puts ++ bitmap)) ∧
    (q.ifm = true → misses ≠ 0 → ∃ t, runCmd s u k = .fault t 0x12 misses first 0 ∧ t.mem = s.mem ∧ t.fe = s.fe ∧ t.tags = s.tags)) ∧
  (∀ (s : State) (u dl sl : Nat) (k : Cmd) (x y mask : Word) (U : Nat → Nat) (d a b : BitVec 5) (h : BitVec 4), quiet s → k.cut = false →
    decode k.word = .instr (.coll d a b h) →
    k.ops = [{ va := x, home := some dl }, { va := y, home := some sl }] → k.args = [mask] → 2 ^ 50 ≤ dl → 2 ^ 50 ≤ sl →
    let q := copyShape k.shape
    let e := q.e
    let js := (List.range 16).filter (fun j => bit mask j)
    let es := List.range q.n0
    (∀ j ∈ js, s.lumRes k.part (if q.cop = 4 then 16 * j else k.home / 16 * 16 + j) = .to (U j)) →
    (q.fem = 1 → e = 8) → sl % e = 0 → dl % e = 0 → windowOff x % e = 0 → windowOff y % e = 0 →
    (q.cop = 0 → windowOff x + q.n0 * e ≤ 0x80000 →
      ∃ t, runCmd s u k = .ok t 0 0 0 ∧ Wrote s t (fun _ => BitVec.ofNat 16 q.otag) (js.flatMap (fun j => es.map (fun i =>
        copied s (sl + i * e) (unitLoc (U j) (windowOff x + i * e)) e q.fem)))) ∧
    (q.cop = 4 → windowOff x + q.n0 * e ≤ 0x400000 →
      ∃ t, runCmd s u k = .ok t 0 0 0 ∧ Wrote s t (fun _ => BitVec.ofNat 16 q.otag) (js.flatMap (fun j => es.map (fun i =>
        copied s (sl + i * e) (if 256 ≤ U j then croftLoc (windowOff x + i * e) else clusterLoc (clusterOf (U j)) (windowOff x + i * e)) e q.fem)))) ∧
    (q.cop = 3 →
      ∃ t, runCmd s u k = .ok t 0 0 0 ∧ Wrote s t (fun _ => BitVec.ofNat 16 q.otag) (js.zipIdx.flatMap (fun j => es.map (fun i =>
        copied s (unitLoc (U j.1) (windowOff y + i * e)) (dl + (j.2 * q.n0 + i) * e) e q.fem)))) ∧
    (q.cop = 1 ∨ q.cop = 2 → q.ety = 4 → e = 4 → (q.cop = 2 → windowOff x + q.n0 * e ≤ 0x80000) →
      let sums := fun (i : Nat) => saturatedSum (js.map (fun j => sgn 4 (leVal s.mem (unitLoc (U j) (windowOff y + 4 * i)) 4)))
      ∃ t, runCmd s u k = .ok t 0 0 (if ∃ i, i < q.n0 ∧ (sums i).2 = true then 32 else 0) ∧
        Wrote s t (fun _ => BitVec.ofNat 16 q.otag)
          ((if q.cop = 1 then [dl] else js.map (fun j => unitLoc (U j) (windowOff x))).flatMap (fun base => es.map (fun i =>
            { loc := base + 4 * i, n := 4, val := ((sums i).1 % 2 ^ 32).toNat, fe := none })))))

/-- R250, R254, R266, R268, R102 to R104: what MMA, MMAZ and MMAS of dense INT8 tiles leave in their accumulator: each step adds its dot
products, or subtracts them, saturated; AZERO clears it; and a row of CGEMV of at most 64 INT8 weights is the exact sum of its products
rounded once to FP32. -/
def Obligations.MatrixCommandsCompute : Prop :=
  (∀ (s : State) (u c a al bl : Nat) (k : Cmd) (d : BitVec 3) (ha hb : BitVec 6) (h : BitVec 4) (w cb ca : BitVec 1) (kind : Nat), quiet s →
    k.acc = some (c, a) → a < 8 → (k.ops.map (·.home)).take 2 = [some al, some bl] → 2 ^ 50 ≤ al → 2 ^ 50 ≤ bl → al % 1024 = 0 → bl % 1024 = 0 →
    decode k.word = .instr (if kind = 0 then .mma d ha hb h w cb ca else if kind = 1 then .mmaz d ha hb h w cb ca else .mmas d ha hb h w cb ca) →
    let q := matShape k.shape
    q.fmt = 6 → q.scl = false → q.spc = 0 →
    (∀ t, t < q.ksteps → s.tagAt (al + 1024 * t) = 0x60A0 ∧ s.tagAt (bl + 1024 * t) = 0x60E0) →
    ∃ t fl, runCmd s u k = .ok t 0 0 fl ∧ t.mem = s.mem ∧ bit (t.ctx c).aInt a = true ∧ bit (t.ctx c).aFull a = true ∧
      (∀ b, b ≠ a → mget (t.ctx c).areg b 0 = mget (s.ctx c).areg b 0) ∧
      (∀ i j, i < 16 → j < 16 → (accAt (t.ctx c) a (16 * i + j) : Int) =
        (int8Steps s.mem al bl i j (2 ≤ kind) q.ksteps (if kind = 1 then 0 else toInt32 (accAt (s.ctx c) a (16 * i + j)))) % 2 ^ 32)) ∧
  (∀ (s : State) (u c a : Nat) (k : Cmd) (d : BitVec 3) (int : Bool), k.acc = some (c, a) → a < 8 →
    decode k.word = .instr (if int then .azeroI32 d else .azeroF32 d) →
    ∃ t, runCmd s u k = .ok t 0 0 0 ∧ t.mem = s.mem ∧ bit (t.ctx c).aInt a = int ∧ bit (t.ctx c).aFull a = true ∧
      (∀ e, e < 256 → accAt (t.ctx c) a e = 0) ∧ ∀ b, b ≠ a → mget (t.ctx c).areg b 0 = mget (s.ctx c).areg b 0) ∧
  (∀ (s : State) (u wl xl yl : Nat) (k : Cmd) (wv xv yv : Word) (so : Opnd) (d a b : BitVec 5) (h : BitVec 4), quiet s → k.cut = false →
    decode k.word = .instr (.cgemv d a b h) →
    k.ops = [{ va := wv }, { va := xv, home := some xl }, { va := yv, home := some yl }, so] → 2 ^ 50 ≤ xl → 2 ^ 50 ≤ yl → xl % 2 = 0 → yl % 4 = 0 →
    let q := gemvShape k.shape
    q.m = 1 → 1 ≤ q.k → q.k ≤ 64 → q.fmt = 6 → q.scl = false →
    isWindow wv = false → wl < 2 ^ 38 → s.resolve { u := u, part := k.part, asn := k.asn, sup := k.sup } wv accR true = (.ok wl, s) →
    (∀ i, i < q.k → (s.touch (xl + 2 * i)) = s) → (mget s.chans (wl / 256 % 32) {}).st = 0 → s.scrap = [] → wl % 256 = 0 →
    (∀ i, i < q.k → isFin32 (leVal s.mem (xl + 2 * i) 2 * 2 ^ 16)) →
    let n : Int := ((List.range q.k).map (fun i => sgn 1 (leVal s.mem (wl + i) 1) * units32 (leVal s.mem (xl + 2 * i) 2 * 2 ^ 16))).sum
    ∃ t fl, runCmd s u k = .ok t 0 0 fl ∧ onlyAt s.mem t.mem yl 4 ∧
      if n = 0 then leVal t.mem yl 4 = 0 ∧ fl = 0 else Rounded32 0 n 1 (BitVec.ofNat 64 (leVal t.mem yl 4), fl))

/-- R301, R302: what SCOMMIT writes at its end for a sequence that keeps no position and at most one live region, its ranges in
scratchpads: the region's copy, the accepted tokens and the next one, full, RNGCTR, SFLG.STOP where the entry sets it, and CLEN; the other
bytes stay. -/
def Obligations.CommitWritesItsSequence : Prop :=
  ∀ (s : State) (u tl rl : Nat) (k : Cmd) (ao : Opnd) (tv rv : Word) (x : SeqIn) (copy : Option (Nat × Nat × SnapRec)) (d a b : BitVec 5),
    quiet s → k.cut = false → decode k.word = .instr (.scommit d a b) → s.relOkBefore k.issuer k.no = true → seqsOf 64 k.args = [x] → x.moves = [] →
    let i := mget s.ssu (k.iter.getD 0) {}
    (i.lives x.q).filterMap (i.kept x) = copy.toList.map (fun c => c.2.2) → (i.lives x.q).length = copy.toList.length →
    k.ops = ao :: copy.toList.flatMap (fun c => [{ va := 0, home := some c.1 }, { va := 0, home := some c.2.1 }]) ++
      [{ va := tv, home := some tl }, { va := rv, home := some rl }] →
    2 ^ 50 ≤ tl → 2 ^ 50 ≤ rl → tl % 8 = 0 → rl % 256 = 0 →
    let m := 8 * (x.a + 1)
    (tl + m ≤ rl ∨ rl + 0x28 ≤ tl) →
    (∀ c ∈ copy.toList, 2 ^ 50 ≤ c.1 ∧ 2 ^ 50 ≤ c.2.1 ∧ c.1 % 8 = 0 ∧ c.2.1 % 8 = 0 ∧ c.2.2.n % 8 = 0 ∧
      (c.2.1 + c.2.2.n ≤ tl ∨ tl + m ≤ c.2.1) ∧ (c.2.1 + c.2.2.n ≤ rl ∨ rl + 0x28 ≤ c.2.1)) →
    ∃ t, runCmd s u k = .ok t 0 0 0 ∧ Wrote s t (fun _ => 0)
      (copy.toList.flatMap (fun c => (List.range (c.2.2.n / 8)).map (fun j => copied s (c.1 + 8 * j) (c.2.1 + 8 * j) 8 1)) ++
       (List.range (x.a + 1)).map (fun j => { loc := tl + 8 * j, n := 8, val := if j = x.a then dwAt x.acc 0x30 4 else dwAt x.acc (0x40 + 4 * j) 4, fe := some true }) ++
       [{ loc := rl + 0x10, n := 8, val := dwAt x.acc 8 8, fe := none }] ++
       (if dwAt x.acc 1 1 % 2 = 1 then [{ loc := rl + 0x20, n := 1, val := 1, fe := none }] else []) ++
       [{ loc := rl, n := 4, val := (x.clen + 1 + x.a) % 2 ^ 32, fe := none }])

/-- R249 to R259, R265 to R267: the accumulator commands and channel-side GEMV are accepted where the checks of their rules
pass; AZERO needs a scheduler entry alone. That a handle's footprint is its whole slot is log 57. -/
def Obligations.MatrixCommandsAccepted : Prop :=
  MatrixAccepts .mma false ∧ MatrixAccepts .mmaz true ∧ MatrixAccepts .mmas false ∧
  (∀ (s : State) (d : BitVec 3), (s.ctx s.cur).dq = [] → schedFree s → ∀ mk ∈ [Instr.azeroF32, Instr.azeroI32],
    exec (mk d) s = .next ((scheduled (begun s (mk d)) { command s (mk d) with
      shape := shapeAt s 0, acc := some (s.cur, d.toNat) }).retire false)) ∧
  (∀ (s : State) (d a b : BitVec 5) (h : BitVec 4) (xo yo wo : Opnd) (xr yr wr : Region) (sLoc : Nat) (scales : List Region),
    (isCroft (s.unitOf s.cur) = true → s.island.st = 0) → canRead s a → canRead s b → canRead s d → shapeSound s h →
    let q := gemvShape (shapeAt s h)
    (q.fmt = 9 → mget s.regErr (regKey s.cur 6 (shapeF (shapeAt s h) 11 % 4)) 0 = 0) →
    gemvShapeOk (shapeAt s h) = true → (regVal s a).toNat % 256 = 0 → q.rs % 256 = 0 → q.ps % 256 = 0 → (regVal s b).toNat % 2 = 0 →
    (regVal s d).toNat % 4 = 0 → isWindow (regVal s a) = false →
    Operand s (regVal s b) 0 ((2 * q.k : Nat) : Int) accR xo xr → Operand s (regVal s d) 0 ((4 * q.m : Nat) : Int) accW yo yr →
    Operand s (regVal s a) q.span.1 q.span.2 accR wo wr →
    (match (s.unit (s.unitOf s.cur)).handle (s.dirE s.cur).part q.sh with
      | some g => sLoc = g.cLoc (s.unitOf s.cur) + q.off ∧ scales = (if q.scl = true then [homeRegion (g.cLoc (s.unitOf s.cur)) (g.ssize * 1024)] else []) ∧
          (q.scl = true → g.slot g.c = 3 ∧ q.off + 2 * q.m * q.blocks ≤ g.ssize * 1024)
      | none => sLoc = q.off ∧ scales = [] ∧ q.scl = false) →
    apart (wr :: xr :: (if q.scl = true then [homeRegion sLoc (2 * q.m * q.blocks)] else [])) [yr] → schedFree s →
    exec (.cgemv d a b h) s = .next ((accepted s (.cgemv d a b h) d { command s (.cgemv d a b h) with
      shape := shapeAt s h, ops := [wo, xo, yo, { va := 0, home := some sLoc }]
      cbs := [mget (s.ctx s.cur).cb (shapeF (shapeAt s h) 11 % 4) 0]
      reads := wr :: xr :: scales, writes := [yr]
      handles := if q.scl = true then [q.sh] else [] }).retire false))

/-- R242, R243, R245, R262, R263: the vector, mask, accumulator and codebook loads. With nothing queued before it in its slot,
each resolves its addresses in order, reads them, those of other units' scratchpads over the mesh (R114), and writes its
register. R223, R243: what a load writes into its group: the value read to each element it names, every other element as it
was, for a whole number of registers and values that fit the width. How a wide load waits in the dispatch queue is log 13;
that it fetches remote elements one after another is log 63. -/
def Obligations.WideLoads : Prop :=
  (VectorLoads .vld sumOk sumAddr ∧ VectorLoads .vlds strideFits strideAddr ∧
   (∀ (s t u : State) (d a b : BitVec 5) (k : BitVec 3) (g : BitVec 2) (ty : BitVec 3) (locs vals : List Nat),
     let n := tyWidth ty / 8
     let ix := d.toNat + 2 ^ g.toNat
     let es := activeOf s k (eltCount g ty)
     let isBad := fun e => (s.ctx s.cur).badIndex ix (tyWidth ty) (regVal s b) e
     let good := es.filter (fun e => !isBad e)
     canRead s a → canRead s b → (s.ctx s.cur).dq = [] → settled s 0 (rangeFrom ix (2 ^ g.toNat)) → maskSound s k.toNat → (regVal s a).toNat % n = 0 →
     (bit (regVal s b) 63 = true → ∀ e ∈ es, isBad e = false) →
     Homes accR (begun s (.vgath d a b k g ty)) (good.map (fun e => regVal s a + BitVec.ofNat 64 ((s.ctx s.cur).elt ix (tyWidth ty) e * n))) locs t →
     Reads n t locs vals u →
     exec (.vgath d a b k g ty) s = .next ((u.modCtx u.cur (fun x =>
       (x.loadGroup d.toNat (tyWidth ty) (eltCount g ty) (good.zip vals ++ es.map (fun e => (e, 0)))).setK k.toNat
         ((s.ctx s.cur).badMask ix (tyWidth ty) (regVal s b) es))).retire false)) ∧
   (∀ (s t u : State) (d : BitVec 3) (a b : BitVec 5) (locs vals : List Nat), canRead s a → canRead s b → (s.ctx s.cur).dq = [] →
     (regVal s a + regVal s b).toNat % 8 = 0 →
     Homes accR (begun s (.kld d a b)) ((List.range 4).map (fun i => regVal s a + regVal s b + BitVec.ofNat 64 (8 * i))) locs t → Reads 8 t locs vals u →
     exec (.kld d a b) s = .next ((u.modCtx u.cur (fun x => x.setK d.toNat
       (BitVec.ofNat 256 (vals.foldr (fun v acc => v + acc * 2 ^ 64) 0)))).retire false)) ∧
   (∀ (s t u : State) (d : BitVec 3) (e a : BitVec 5) (ty : BitVec 3) (locs vals : List Nat),
     let n := tyWidth ty / 8
     let stride := if e.toNat = 0 then BitVec.ofNat 64 (16 * n) else regVal s e
     canRead s a → canRead s e → (s.ctx s.cur).dq = [] → (regVal s a).toNat % n = 0 → stride.toNat % n = 0 → s.accBusy s.cur d.toNat = false →
     Homes accR (begun s (.ald d e a ty)) ((List.range 256).map (fun j =>
       regVal s a + BitVec.ofNat 64 (j / 16) * stride + BitVec.ofNat 64 (j % 16 * n))) locs t → Reads n t locs vals u →
     exec (.ald d e a ty) s = .next ((u.modCtx u.cur (fun x => x.putAcc d.toNat (vals.map (aldElt ty.toNat)) (4 ≤ ty.toNat))).retire false)) ∧
   (∀ (s t u : State) (n : BitVec 2) (a : BitVec 5) (locs vals : List Nat), canRead s a → (s.ctx s.cur).dq = [] → (regVal s a).toNat % 32 = 0 →
     Homes accR (begun s (.cbld n a)) ((List.range 16).map (fun c => regVal s a + BitVec.ofNat 64 (2 * c))) locs t → Reads 2 t locs vals u →
     exec (.cbld n a) s = .next ((u.modCtx u.cur (fun x =>
       { x with cb := mset x.cb n.toNat (BitVec.ofNat 256 (vals.foldr (fun v acc => v + acc * 2 ^ 16) 0)) })).retire false))) ∧
  (∀ (x : Ctx) (d : Nat) (t : BitVec 3) (g : BitVec 2) (vals : List (Nat × Nat)) (e : Nat), e < eltCount g t →
     (∀ v ∈ vals, v.2 < 2 ^ tyWidth t) →
     (x.loadGroup d (tyWidth t) (eltCount g t) vals).elt d (tyWidth t) e = mget vals e (x.elt d (tyWidth t) e))

/-- R242 to R246, R262: the vector, mask and accumulator stores enter the store buffer with their resolved homes and wait in
the dispatch queue for their data. When a wide store takes its data in the dispatch queue is log 13. -/
def Obligations.WideStores : Prop :=
  VectorStores .vst sumOk sumAddr ∧ VectorStores .vsts strideFits strideAddr ∧
  Scatters .vscat accW (fun _ => none) ∧ Scatters .vscadd accFW (fun ty => some ty.toNat) ∧
  (∀ (s t : State) (d : BitVec 3) (a b : BitVec 5) (x : BitVec 1) (locs : List Nat),
    let vas := (List.range 4).map (fun i => regVal s a + regVal s b + BitVec.ofNat 64 (8 * i))
    canRead s a → canRead s b → (regVal s a + regVal s b).toNat % 8 = 0 → Homes accW (begun s (.kst d a b x)) vas locs t →
    queueFree s → storeRoom t →
    exec (.kst d a b x) s = .next ((vectorStored t (.kst d a b x) [regVal s a, regVal s b] (List.range 4) vas locs 8 (x == 1) none 0).retire false)) ∧
  (∀ (s t : State) (e : BitVec 5) (c : BitVec 3) (a : BitVec 5) (x k : BitVec 1) (ty : BitVec 3) (locs : List Nat),
    let n := tyWidth ty / 8
    let stride := if e.toNat = 0 then BitVec.ofNat 64 (16 * n) else regVal s e
    let vas := (List.range 256).map (fun j => regVal s a + BitVec.ofNat 64 (j / 16) * stride + BitVec.ofNat 64 (j % 16 * n))
    canRead s a → canRead s e → (regVal s a).toNat % n = 0 → stride.toNat % n = 0 →
    Homes accW (begun s (.ast e c a x k ty)) vas locs t → queueFree s → storeRoom t →
    exec (.ast e c a x k ty) s = .next ((vectorStored t (.ast e c a x k ty) [regVal s a, regVal s e] (List.range 256) vas locs n (k == 1) none 0).retire false))

/-- R130, R133, R135: HLD reads a shape image whole and refuses a nonzero reserved part with cause 0x07; HSET and HSET.D write
one field and two, a reserved field with zero alone; HGET and HGET.D read them. -/
def Obligations.ShapeRegisters : Prop :=
  (∀ (s t : State) (a : BitVec 5) (h : BitVec 4) (vals : List Nat), canRead s a → (regVal s a).toNat % 64 = 0 →
    Dwords 8 (begun s (.hld a h)) (regVal s a) vals t →
    exec (.hld a h) s = .next (if (BitVec.ofNat 512 (vals.foldr (fun v acc => v + acc * 2 ^ 64) 0)).toNat < 2 ^ 416
      then (t.modCtx t.cur (fun c => { c with hreg := mset c.hreg h.toNat (BitVec.ofNat 512 (vals.foldr (fun v acc => v + acc * 2 ^ 64) 0)) })).retire false
      else t.issuedTrap { cause := 0x07 } ((encode (.hld a h)).getD 0))) ∧
  (∀ (s : State) (a : BitVec 5) (h n : BitVec 4), canRead s a → n.toNat < 13 ∨ (regVal s a).toNat % 2 ^ 32 = 0 →
    ∃ t, exec (.hset a h n) s = .next t ∧ shapeF ((t.ctx s.cur).h h.toNat) n.toNat = (regVal s a).toNat % 2 ^ 32 ∧
      (∀ m, m < 16 → m ≠ n.toNat → shapeF ((t.ctx s.cur).h h.toNat) m = shapeF ((s.ctx s.cur).h h.toNat) m) ∧
      (∀ r, r ≠ h.toNat → (t.ctx s.cur).h r = (s.ctx s.cur).h r) ∧ (t.ctx s.cur).sreg = (s.ctx s.cur).sreg ∧ t.mem = s.mem ∧
      (t.ctx s.cur).pc = (s.ctx s.cur).pc + 4) ∧
  (∀ (s : State) (a : BitVec 5) (h : BitVec 4) (n : BitVec 3), canRead s a →
    (n.toNat < 6 ∨ (n.toNat = 6 ∧ (regVal s a).toNat < 2 ^ 32) ∨ regVal s a = 0) →
    ∃ t, exec (.hsetD a h n) s = .next t ∧ shapeF ((t.ctx s.cur).h h.toNat) (2 * n.toNat) = (regVal s a).toNat % 2 ^ 32 ∧
      shapeF ((t.ctx s.cur).h h.toNat) (2 * n.toNat + 1) = (regVal s a).toNat / 2 ^ 32 ∧
      (∀ m, m < 16 → m / 2 ≠ n.toNat → shapeF ((t.ctx s.cur).h h.toNat) m = shapeF ((s.ctx s.cur).h h.toNat) m) ∧
      (∀ r, r ≠ h.toNat → (t.ctx s.cur).h r = (s.ctx s.cur).h r) ∧ t.mem = s.mem ∧ (t.ctx s.cur).pc = (s.ctx s.cur).pc + 4) ∧
  (∀ (s : State) (d : BitVec 5) (h n : BitVec 4), canName s d → shapeSound s h →
    exec (.hget d h n) s = .next ((written (begun s (.hget d h n)) d (BitVec.ofNat 64 (shapeF (shapeAt s h) n.toNat))).retire false)) ∧
  (∀ (s : State) (d : BitVec 5) (h : BitVec 4) (n : BitVec 3), canName s d → shapeSound s h →
    exec (.hgetD d h n) s = .next ((written (begun s (.hgetD d h n)) d
      (BitVec.ofNat 64 (shapeF (shapeAt s h) (2 * n.toNat + 1) * 2 ^ 32 + shapeF (shapeAt s h) (2 * n.toNat)))).retire false)) ∧
  (∀ (s : State) (a : BitVec 5) (h n : BitVec 4), canRead s a → 13 ≤ n.toNat → (regVal s a).toNat % 2 ^ 32 ≠ 0 →
    exec (.hset a h n) s = .next (trapped s (.hset a h n) 0x07))

/-- R136 to R140: HALLOC gives the lowest free handle, HALLOC.N the number asked for, all ones where there is none; HFREE
frees one no command holds, and ends the parks of the contexts of its unit on it; HWAIT and HSPACE claim slots. R141, R142:
HADV moves its pointer; the device's steps give a slot its new state once the advance's condition holds and take the advance
off; HSTAT reads a handle, zero where the partition has none. -/
def Obligations.BufferHandles : Prop :=
  ((∀ (s : State) (d a : BitVec 5), canRead s a → canName s d → ringFits s (regVal s a) →
     exec (.halloc d a) s = .next ((match (List.range 64).find? (fun h => (mfind (s.unit (s.unitOf s.cur)).bt h).isNone) with
       | some h => written (withHandle (begun s (.halloc d a)) h (newRing s (regVal s a))) d (BitVec.ofNat 64 h)
       | none => written (begun s (.halloc d a)) d 0xFFFFFFFFFFFFFFFF).retire false)) ∧
   (∀ (s : State) (d a b : BitVec 5), canRead s a → canRead s b → canName s d → ringFits s (regVal s a) → (regVal s b).toNat < 64 →
     exec (.hallocN d a b) s = .next ((if mfind (s.unit (s.unitOf s.cur)).bt (regVal s b).toNat = none
       then written (withHandle (begun s (.hallocN d a b)) (regVal s b).toNat (newRing s (regVal s a))) d (regVal s b)
       else written (begun s (.hallocN d a b)) d 0xFFFFFFFFFFFFFFFF).retire false)) ∧
   (∀ (s : State) (a : BitVec 5) (A : Handle), canRead s a → ownsHandle s (regVal s a) A →
     (∀ k ∈ (s.unit (s.unitOf s.cur)).cmds, (regVal s a).toNat ∉ k.handles) →
     exec (.hfree a) s = .next ((((begun s (.hfree a)).modUnit (s.unitOf s.cur)
       (fun u => { u with bt := mdel u.bt (regVal s a).toNat })).hfreeWake (s.unitOf s.cur) (regVal s a).toNat).retire false)) ∧
   Claims .hwait (·.c) 2 3 ∧ Claims .hspace (·.p) 0 1 ∧
   (∀ (s : State) (a : BitVec 5), canRead s a → 64 ≤ (regVal s a).toNat → exec (.hfree a) s = .next (trapped s (.hfree a) 0x06))) ∧
  (Advances .hadvP true (·.p) 1 2 ∧ Advances .hadvC false (·.c) 3 0 ∧
   HandleReads .hstat (·.summary) ∧ HandleReads .hstatLo (·.codes 0) ∧ HandleReads .hstatHi (·.codes 32) ∧
   (∀ (s : State) (b : Handle) (a : Adv) (l : List Adv), mfind (s.unit s.arg.n0).bt s.arg.n1 = some b → b.adv = a :: l → a.slot = s.arg.n2 →
     s.advDone s.arg.n0 a = true →
     (a.full = true → ∃ t, exec .slotBecomesFull s = .next t ∧
       mfind (t.unit s.arg.n0).bt s.arg.n1 = some { b with slots := lset b.slots s.arg.n2 2, adv := l }) ∧
     (a.full = false → ∃ t, exec .slotBecomesFree s = .next t ∧
       mfind (t.unit s.arg.n0).bt s.arg.n1 = some { b with slots := lset b.slots s.arg.n2 0, adv := l })))

/-- R275, R276: the Gaussian message instructions are accepted where the checks of R276 pass. R277, R279: a source whose DIM
is 0 or above 16, or whose MO bit says moment form, ends GACC and GSUB with cause 0x07; a NaN or an infinity within DIM of the
first source ends them with cause 0x21. -/
def Obligations.GaussianCommands : Prop :=
  (GmeAccepts (fun d a _ _ y => .gld d a y 0) (.gld false) false false false ∧ GmeAccepts (fun d a _ _ y => .gld d a y 1) (.gld true) false false false ∧
   GmeAccepts (fun d a _ _ y => .gst d a y) .gst false false false ∧
   GmeAccepts .gacc .gacc true false true ∧ GmeAccepts .gsub .gsub true false true ∧
   GmeAccepts (fun d a _ h y => .gschur d a h y) .gschur false false true ∧
   GmeAccepts (fun d a b _ y => .gdamp d a b y) .gdamp true false false ∧
   GmeAccepts (fun d a _ _ y => .gsolve d a y) .gsolve false false false ∧
   GmeAccepts (fun d a b _ y => .gresid d a b y) .gresid true false false ∧
   GmeAccepts (fun d a b _ y => .gsend d a b y 0) (.gsend false) false true false ∧
   GmeAccepts (fun d a b _ y => .gsend d a b y 1) (.gsend true) false true false) ∧
  (∀ (neg : Bool) (j m maps : Nat),
     (recAt j 0x14 1 = 0 ∨ 16 < recAt j 0x14 1 ∨ recAt j 0x15 1 / 2 % 2 = 1 → gAcc neg maps j m 0 = .error 0x07 0) ∧
     (1 ≤ recAt j 0x14 1 → recAt j 0x14 1 ≤ 16 → recAt j 0x15 1 / 2 % 2 = 0 →
       (recAt m 0x14 1 = 0 ∨ 16 < recAt m 0x14 1 ∨ recAt m 0x15 1 / 2 % 2 = 1 → gAcc neg maps j m 0 = .error 0x07 0) ∧
       (recAt m 0x14 1 = 1 → recAt m 0x15 1 / 2 % 2 = 0 → maps % 16 < recAt j 0x14 1 →
         f32.decode (recAt j 0x40 4) = .nan ∨ (∃ b, f32.decode (recAt j 0x40 4) = .inf b) → gAcc neg maps j m 0 = .error 0x21 0)))

/-- R293 to R301: the instructions of the snapshot unit complete where their checks pass, and a member becomes finished once its
earlier work has ended. -/
def Obligations.SnapshotUnit : Prop :=
  (∀ (s t u : State) (d a : BitVec 5) (hdr seqs : List Nat), canRead s a → canName s d → ssuAwake s → (regVal s a).toNat % 64 = 0 →
    Dwords 8 (begun s (.snapOpen d a)).reapIters (regVal s a) hdr t →
    let n := hdr.getD 2 0
    1 ≤ n → n ≤ 64 → hdr.getD 0 0 % 256 = 0 → hdr.getD 1 0 % 256 = 0 → hdr.getD 1 0 ≤ 2 ^ 32 → (∀ m, 3 ≤ m → m < 8 → hdr.getD m 0 = 0) →
    Dwords n t (regVal s a + 0x40) seqs u → (∀ q ∈ seqs, q % 256 = 0) →
    exec (.snapOpen d a) s = .next ((match (List.range 256).find? (fun e => (u.iter e).st == 0) with
      | none => written u d 0xFFFFFFFFFFFFFFFF
      | some e => written (u.setIter e { gen := ((u.iter e).gen + 1) % 256, st := 1, part := (u.dirE u.cur).part, opener := u.cur
                                         area := BitVec.ofNat 64 (hdr.getD 0 0), asize := hdr.getD 1 0, seqs := seqs.map (BitVec.ofNat 64)
                                         members := [{ ctx := u.cur }] }) d (BitVec.ofNat 64 (((u.iter e).gen + 1) % 256 * 256 + e))).retire false)) ∧
  (∀ (s : State) (a : BitVec 5) (e : Nat) (it : Iter), canRead s a → ssuAwake s → opensIter s (regVal s a) e it →
    ((∃ m ∈ it.members, m.ctx = s.cur) → exec (.snapJoin a) s = .next (((begun s (.snapJoin a)).reapIters.setIter e it).retire false)) ∧
    ((∀ m ∈ it.members, m.ctx ≠ s.cur) → it.members.length < 64 → exec (.snapJoin a) s =
      .next (((begun s (.snapJoin a)).reapIters.setIter e { it with members := it.members ++ [{ ctx := s.cur }] }).retire false)) ∧
    ((∃ m ∈ it.members, m.ctx = s.cur) → exec (.snapFin a) s = .next (((begun s (.snapFin a)).reapIters.setIter e { it with
      members := it.members.map (fun m => if m.ctx = s.cur ∧ m.st = 0 then { m with st := 1, no := s.ids } else m) }).retire false)) ∧
    ((∃ m ∈ it.members, m.ctx = s.cur) → exec (.sabort a) s = .next (((begun s (.sabort a)).reapIters.abandon e s.cur 0 true).retire false)) ∧
    ((∀ m ∈ it.members, m.ctx ≠ s.cur) → exec (.snapFin a) s =
      .next ((begun s (.snapFin a)).reapIters.issuedTrap { cause := 0x06 } ((encode (.snapFin a)).getD 0)))) ∧
  (∀ (s : State) (m : Member), (s.iter s.arg.n0).member s.arg.n1 = some m → (s.iter s.arg.n0).st = 1 → m.st = 1 →
    s.finishedBefore m.ctx m.no = true →
    exec .memberFinished s = .next (s.setIter s.arg.n0 { s.iter s.arg.n0 with
      members := (s.iter s.arg.n0).members.map (fun x => if x.ctx = m.ctx then { x with st := 2 } else x) })) ∧
  (∀ (s : State) (d a b : BitVec 5) (e : Nat) (it : Iter) (so lo : Opnd) (sr lr : Region),
    let key := regVal s d
    let n := (key.toNat / 2 ^ 40 % 2 ^ 12 + 1) * 256
    let rec' : SnapRec := { q := key.toNat / 2 ^ 32 % 64, node := key.toNat / 2 ^ 16 % 64, live := regVal s b, n := n, off := it.used }
    canRead s a → canRead s b → canRead s d → ssuAwake s → opensIter s (BitVec.ofNat 64 (key.toNat % 2 ^ 16)) e it →
    key.toNat / 2 ^ 22 % 2 ^ 10 = 0 → key.toNat / 2 ^ 38 % 4 = 0 → key.toNat < 2 ^ 52 → rec'.q < it.seqs.length →
    (∃ m ∈ it.members, m.ctx = s.cur) → (∀ m ∈ it.members, m.ctx = s.cur → m.st = 0) →
    (regVal s a).toNat % 256 = 0 → (regVal s b).toNat % 256 = 0 →
    Operand s (regVal s a) 0 n accR so sr → Operand s (regVal s b) 0 n accW lo lr →
    (begun s (.snap d a b)).reapIters.inHost (s.whoIs s.cur) (regVal s b) n = false →
    (∀ r ∈ it.recs, r.q = rec'.q → r.node = rec'.node → r.live = rec'.live → r.n = n) → it.used + n ≤ it.asize →
    it.recs.length < 1024 → notMigrating s (it.area + BitVec.ofNat 64 it.used) → schedFree s →
    ∃ t k, exec (.snap d a b) s = .next t ∧ (t.unit (s.unitOf s.cur)).cmds = (s.unit (s.unitOf s.cur)).cmds ++ [k] ∧ k.iter = some e ∧
      k.issuer = s.cur ∧ k.reads = [sr] ∧ (t.iter e).used = it.used + n ∧ rec' ∈ (t.iter e).recs ∧ t.mem = s.mem ∧
      (d.toNat ≠ 0 → (t.ctx s.cur).s d.toNat = BitVec.ofNat 64 ((s.dirE s.cur).home * 2 ^ 32 + 2 ^ 31 + (s.unit (s.unitOf s.cur)).seq % 2 ^ 24))) ∧
  (∀ (s s2 s3 : State) (d a b : BitVec 5) (e : Nat) (it : Iter) (xs : List SeqIn) (rs : List (List Opnd × List Region)),
    let s1 := (begun s (.scommit d a b)).reapIters.setIter e
      { it with members := it.members.map (fun m => if m.ctx = s.cur then { m with st := 2 } else m) }
    canRead s a → canRead s b → canName s d → ssuAwake s → opensIter s (regVal s a) e it → it.opener = s.cur → (regVal s b).toNat % 128 = 0 →
    (begun s (.scommit d a b)).reapIters.finishedBefore s.cur s.ids = true → (∀ m ∈ it.members, (begun s (.scommit d a b)).reapIters.memberDone m = true ∨ m.ctx = s.cur) →
    readSeqs (regVal s b) it.seqs.zipIdx s1 = .ok xs s2 → (∀ x ∈ xs, x.ok = true) →
    (∀ x ∈ xs, ∀ l ∈ it.lives x.q, it.kept x l ≠ none) → xs.mapM (seqRanges it.area it) s2 = .ok rs s3 →
    notMigrating s3 it.area → schedFree s3 →
    ∃ t k, exec (.scommit d a b) s = .next t ∧ (t.unit (s3.unitOf s3.cur)).cmds = (s3.unit (s3.unitOf s3.cur)).cmds ++ [k] ∧
      k.iter = some e ∧ k.args = (xs.map SeqIn.words).flatten ∧ (t.iter e).st = 2)

/-- R176 to R182: CAPMK makes a capability of the context with its current generation, CAPMK.DV one with no right the given
one lacks, CAPRV revokes a class by raising its generation; a failed check is cause 0x15. R182, R189, R264: SEND, SENDW and
MCMD inject a delivery where their checks pass. -/
def Obligations.CapabilitiesAndInjection : Prop :=
  ((∀ (s : State) (d a : BitVec 5), canRead s a → canName s d →
     let x := regVal s a
     exec (.capmk d a) s = .next (
       if capClsOk (capCls x) = true ∧ capIdxOk (capCls x) (capIdx x) = true ∧ (s.part (s.dirE s.cur).part).key ≠ 0
       then (written (begun s (.capmk d a)) d (capWord (s.part (s.dirE s.cur).part).key (s.linkcfg.toNat % 8) s.cur (capCls x) (capIdx x)
         (x.toNat / 2 ^ 30 % 8) ((s.dirE s.cur).gen (capCls x)))).retire false
       else trapped s (.capmk d a) 0x15)) ∧
   (∀ (s : State) (d a b : BitVec 5), canRead s a → canRead s b → canName s d →
     let x := regVal s a
     let c := regVal s b
     exec (.capmkDv d a b) s = .next (if capGives s c 32
       then (written (begun s (.capmkDv d a b)) d (capWord (s.part (s.dirE s.cur).part).key (capDev c) (capCtx c) (capCls c) (capIdx c)
         (x.toNat / 2 ^ 30 % 8 &&& c.toNat / 2 ^ 30 % 8) (capGen c))).retire false
       else trapped s (.capmkDv d a b) 0x15)) ∧
   (∀ (s : State) (d a : BitVec 5), canRead s a → canName s d → capClsOk ((regVal s a).toNat % 8) = true →
     ∃ t, exec (.caprv d a) s = .next t ∧
       (t.dirE s.cur).gen ((regVal s a).toNat % 8) = ((s.dirE s.cur).gen ((regVal s a).toNat % 8) + 1) % 64 ∧
       (∀ c, capClsOk c = true → c < 8 → c ≠ (regVal s a).toNat % 8 → (t.dirE s.cur).gen c = (s.dirE s.cur).gen c) ∧
       (d.toNat ≠ 0 → (t.ctx s.cur).s d.toNat = BitVec.ofNat 64 (((s.dirE s.cur).gen ((regVal s a).toNat % 8) + 1) % 64)) ∧ t.mem = s.mem)) ∧
  (Sends .send 30 .send ∧ Sends .sendw 31 .sendw ∧
   (∀ (s : State) (a b : BitVec 5) (h : BitVec 4) (i : Instr), canRead s a → canRead s b → capGives s (regVal s a) 30 →
     capCls (regVal s a) = 5 → capIdx (regVal s a) < 8 →
     let w : BitVec 32 := (regVal s b).setWidth 32
     w.toNat / 2 ^ 30 = 2 → 0x18 ≤ w.toNat / 2 ^ 24 % 64 → w.toNat / 2 ^ 24 % 64 ≤ 0x1B → w.toNat / 2 ^ 21 % 8 = 0 → decodeTo4 w = .instr i →
     shapeSound s h → mayInject s (regVal s a) (.mcmd w (shapeAt s h) (s.ctx s.cur).fmt) → Injects s (.mcmd a b h) (regVal s a) 0 (.mcmd w (shapeAt s h) (s.ctx s.cur).fmt)) ∧
   (∀ (s : State) (d a : BitVec 5) (c : BitVec 2), canRead s a → (c = 0 → canRead s d) →
     (c = 1 → (s.ctx s.cur).dqWrites 0 [d.toNat] = false ∧ bit (s.ctx s.cur).vFull d.toNat = true) → (2 ≤ c.toNat → (s.ctx s.cur).dqWrites (d.toNat % 8) [] = false) →
     ¬capGives s (regVal s a) 30 →
     exec (.send d a c) s = .next (trapped s (.send d a c) 0x15)))

/-- R170, R183 to R188, R264: a delivery that reaches an empty s, m or v register fills it, and one to a mask writes it; one
that finds an m register full is recorded when it was sent plainly and waits when it was sent to wait; one for a context that
does not live is discarded with cause 0x17, one whose generation is past with cause 0x16; an acknowledgement counts its
sender's delivery off; a remote command at the head of its unit's queue is accepted, or discarded with its target; a network
entry joins its receive queue. Which deliveries wait while their target's holding mailbox is full is log 70. -/
def Obligations.DeliveriesArrive : Prop :=
  (∀ (s : State) (u c : Nat) (p : Pkt) (d : Delivery), delivers s s.arg.n0 u p d c → (d.kind = .send ∨ d.kind = .sendw) →
    (capCls d.cap = 1 → capIdx d.cap < 16 → bit (s.ctx c).mFull (capIdx d.cap) = false →
      ∃ t, exec .deliveryArrival s = .next t ∧ mget (t.ctx c).mreg (capIdx d.cap) 0 = d.val.setWidth 64 ∧ bit (t.ctx c).mFull (capIdx d.cap) = true ∧
        (t.dirE c).event = true ∧ t.mem = s.mem) ∧
    (capCls d.cap = 0 → 0 < capIdx d.cap → capIdx d.cap < 32 → bit (s.ctx c).sFull (capIdx d.cap) = false →
      ∃ t, exec .deliveryArrival s = .next t ∧ (t.ctx c).s (capIdx d.cap) = d.val.setWidth 64 ∧ bit (t.ctx c).sFull (capIdx d.cap) = true ∧
        ((∀ x ∈ s.units, x.2.mbox = []) → ∀ r, r ≠ capIdx d.cap → (t.ctx c).s r = (s.ctx c).s r)) ∧
    (capCls d.cap = 2 → capIdx d.cap < 32 → bit (s.ctx c).vFull (capIdx d.cap) = false →
      ∃ t, exec .deliveryArrival s = .next t ∧ mget (t.ctx c).vreg (capIdx d.cap) 0 = d.val ∧ bit (t.ctx c).vFull (capIdx d.cap) = true ∧
        (t.dirE c).event = true ∧ t.mem = s.mem) ∧
    (capCls d.cap = 3 → (∀ x ∈ s.units, x.2.mbox = []) →
      ∃ t, exec .deliveryArrival s = .next t ∧ (∀ k, (t.ctx c).k k = if k = capIdx d.cap ∧ k ≠ 0 then d.val.setWidth 256 else (s.ctx c).k k) ∧
        (t.dirE c).event = true ∧ t.mem = s.mem) ∧
    (capCls d.cap = 1 → capIdx d.cap < 16 → bit (s.ctx c).mFull (capIdx d.cap) = true → d.kind = .send → (s.ctx c).ovr.v = false →
      ∃ t, exec .deliveryArrival s = .next t ∧ (t.ctx c).ovr.v = true ∧ (t.ctx c).ovr.count = 0 ∧ (t.ctx c).ovr.idx = capIdx d.cap ∧
        (t.ctx c).ovr.sender = d.dev * 65536 + d.sender ∧ mget (t.ctx c).mreg (capIdx d.cap) 0 = mget (s.ctx c).mreg (capIdx d.cap) 0 ∧
        ∃ a, a ∈ (t.dirE c).async ∧ a.cause = 0x14) ∧
    (capCls d.cap = 1 → bit (s.ctx c).mFull (capIdx d.cap) = true → d.kind = .sendw → (s.unit u).mbox.length < 32 →
      exec .deliveryArrival s = .next (({ s with pkts := ldel s.pkts s.arg.n0 } : State).modUnit u (fun y => { y with mbox := y.mbox ++ [(d, c)] })))) ∧
  (∀ (s : State) (u c : Nat) (p : Pkt) (d : Delivery), comes s s.arg.n0 u p d c → d.orphan = false → (∀ x ∈ s.units, x.2.mbox = []) →
    ((s.dirE c).st ≠ 1 → Discards s u d 0x17) ∧
    ((s.dirE c).st = 1 → (s.dirE c).gen (capCls d.cap) ≠ capGen d.cap → Discards s u d 0x16)) ∧
  (∀ (s : State) (p : Pkt) (c no : Nat) (h : Bool), s.pkts[s.arg.n0]? = some p → s.mayArrive s.arg.n0 p = true → p.body = .ack c none no h →
    exec .deliveryAck s = .next (({ s with pkts := ldel s.pkts s.arg.n0 } : State).modDir c (fun e => { e with unacked := e.unacked - 1 }))) ∧
  (∀ (s : State) (u : Nat) (r : RemCmd) (l : List RemCmd) (w : BitVec 32) (img : BitVec 512) (fmt : Word) (o : MatOp), u = s.arg.n0 →
    (s.unit u).rcq = r :: l → r.d.kind = .mcmd w img fmt → matOpOf w = some o → (s.dirE r.target).st ≠ 1 →
    exec .remoteCommandAccept s = .next ((s.modUnit u (fun x => { x with rcq := l })).ackCause u r.d 0x17)) ∧
  (∀ (s : State) (u k : Nat) (r : RemCmd) (l : List RemCmd) (w : BitVec 32) (img : BitVec 512) (fmt : Word) (o : MatOp), u = s.arg.n0 →
    (s.unit u).rcq = r :: l → r.d.kind = .mcmd w img fmt → matOpOf w = some o → o.kind = 3 → (s.dirE r.target).st = 1 →
    (s.dirE r.target).place = .slot u k → s.moving u = false → (isCroft u = false → s.acreOn = true) →
    s.headAccepted r.target r.acc = false → ((s.unit u).cmds.filter (fun k => k.slot == none)).length < 64 →
    ∃ t j, exec .remoteCommandAccept s = .next t ∧ (t.unit u).cmds = (s.unit u).cmds ++ [j] ∧ j.acc = some (r.target, r.acc) ∧ j.word = w ∧
      j.remote = true ∧ j.issuer = s.issuerOf r.d ∧ (t.unit u).rcq = l) ∧
  (∀ (s : State) (p : Pkt) (dir : Nat) (v : Word), reaches s s.arg.n0 p → p.body = .push dir v →
    ∃ t, exec .receiveQueueArrival s = .next t ∧ mget (t.unit p.dst).rxq dir [] = mget (s.unit p.dst).rxq dir [] ++ [v] ∧
      t.pkts = ldel s.pkts s.arg.n0 ∧ t.mem = s.mem)

/-- R190, R187, R191, R347: EXPECT empties its register, so that a value held for it is applied; FWD fills m15 of the context in the next slot; WAITM gives the lowest full
message register of its mask. -/
def Obligations.MessageRegisters : Prop :=
  (∀ (s : State) (d : BitVec 5),
    (1 ≤ d.toNat → d.toNat ≤ 7 → canName s d →
      exec (.expect d 0) s = .next (((begun s (.expect d 0)).modCtx s.cur (fun x => { x with sFull := putBit x.sFull d.toNat false })).applyHeld
        s.cur 0 d.toNat |>.retire false)) ∧
    exec (.expect d 1) s = .next (((begun s (.expect d 1)).modCtx s.cur (fun x => { x with mFull := putBit x.mFull d.toNat false })).applyHeld
      s.cur 1 d.toNat |>.retire false) ∧
    ((s.ctx s.cur).dqTouches d.toNat = false →
      exec (.expect d 2) s = .next (((begun s (.expect d 2)).modCtx s.cur (fun x => { x with vFull := putBit x.vFull d.toNat false })).applyHeld
        s.cur 2 d.toNat |>.retire false))) ∧
  (∀ (s : State) (a : BitVec 5) (u k c : Nat), canRead s a → (s.dirE s.cur).place = .slot u k → mfind (s.unit u).slots ((k + 1) % 8) = some c →
    bit (s.ctx c).mFull 15 = false → (s.dirE c).part = (s.dirE s.cur).part → s.relOk s.cur = true →
    ∃ t, exec (.fwd a) s = .next t ∧ mget (t.ctx c).mreg 15 0 = regVal s a ∧ bit (t.ctx c).mFull 15 = true ∧ (t.dirE c).event = true ∧
      (t.ctx s.cur).pc = (s.ctx s.cur).pc + 4 ∧ t.mem = s.mem) ∧
  (∀ (s : State) (d a : BitVec 5) (n : Nat), canRead s a → canName s d → (regVal s a).toNat < 2 ^ 16 → bit (regVal s a) n = true →
    bit (s.ctx s.cur).mFull n = true → (∀ j, j < n → ¬(bit (regVal s a) j = true ∧ bit (s.ctx s.cur).mFull j = true)) →
    exec (.waitm d a) s = .next ((written (begun s (.waitm d a)) d (BitVec.ofNat 64 n)).retire false)) ∧
  (∀ (s : State) (d a : BitVec 5), canRead s a → canName s d → regVal s a = 0 ∨ 2 ^ 16 ≤ (regVal s a).toNat →
    exec (.waitm d a) s = .next (trapped s (.waitm d a) 0x07))

/-- R324 to R328, R401, R417: the launch queue takes records while its partition is enabled and it has room; the head is refused with its
cause, or creates its contexts, each with its home, image, arguments, shapes and privilege; a record whose contexts have all halted
starts the next of its chain. -/
def Obligations.LaunchQueue : Prop :=
  (∀ s : State, s.arg.n0 < 16 → s.bootErr = 0 → ∃ t, exec .launchqWrite s = .next t ∧
    (if (s.part s.arg.n0).en = true ∧ (s.part s.arg.n0).launchQ.length < 16
      then (t.part s.arg.n0).launchQ = (s.part s.arg.n0).launchQ ++ [{ addr := s.arg.v, sup := true }] ∧ (t.part s.arg.n0).lOvf = (s.part s.arg.n0).lOvf
      else (t.part s.arg.n0).launchQ = (s.part s.arg.n0).launchQ ∧ (t.part s.arg.n0).lOvf = true)) ∧
  (∀ (s : State) (e : LqEnt) (l : List LqEnt) (p : Nat), p = s.arg.n0 → p < 16 → (s.part p).launchQ = e :: l → e.retain = none →
    (e.addr.toNat % 64 ≠ 0 → exec .launchRecordTake s = .next (refusedAs s p 0x05 l)) ∧
    (e.addr.toNat % 64 = 0 → s.dispRead p e.asn e.addr 8 = none → exec .launchRecordTake s = .next (refusedAs s p 0x08 l)) ∧
    ∀ (d : List Nat) (t : State), e.addr.toNat % 64 = 0 → s.dispRead p e.asn e.addr 8 = some (d, t) →
      let f := recField d
      let res := t.lumRes p
      let stray := f 0x32 1 + f 0x30 1 > 16 ∨ f 0x33 1 + f 0x31 1 > 32 ∨ ∃ n ∈ recUnits d, res n = .unmapped ∨
        ∃ u, res n = .to u ∧ ((f 0x2F 1 = 1 ∧ isCroft u = true) ∨ (f 0x2F 1 = 2 ∧ isCroft u = false))
      (badRecord d → exec .launchRecordTake s = .next (refusedAs t p 0x07 l)) ∧
      (¬badRecord d → f 0x36 1 = 1 → e.sup = false → exec .launchRecordTake s = .next (refusedAs t p 0x04 l)) ∧
      (¬badRecord d → (f 0x36 1 = 1 → e.sup = true) →
        (stray → exec .launchRecordTake s = .next (refusedAs t p 0x07 l)) ∧
        (¬stray → (∀ n ∈ recUnits d, ∃ u, res n = .to u ∧ (isCroft u = false → t.acreOn = true)) →
          (t.dispRead p e.asn (BitVec.ofNat 64 (f 0x20 8)) (8 * f 0x35 1) = none → exec .launchRecordTake s = .next (refusedAs t p 0x08 l)) ∧
          ∀ (sd : List Nat) (v : State), t.dispRead p e.asn (BitVec.ofNat 64 (f 0x20 8)) (8 * f 0x35 1) = some (sd, v) →
            (((∃ j, j < f 0x35 1 ∧ 2 ^ 416 ≤ (imageAt sd j).toNat) ∨ (v.freeNums (f 0x28 4)).length < f 0x28 4) →
              exec .launchRecordTake s = .next (refusedAs v p 0x07 l)) ∧
            ((∀ j, j < f 0x35 1 → (imageAt sd j).toNat < 2 ^ 416) → (v.freeNums (f 0x28 4)).length = f 0x28 4 →
              (∀ n ∈ recUnits d, ∀ u, res n = .to u → (v.unit u).gated = false ∧ (v.unit u).tcc.length + f 0x28 4 ≤ 24) →
              ∃ (w : State) (nums : List Nat), exec .launchRecordTake s = .next w ∧ (w.part p).launchQ = l ∧ (w.part p).lFirst = nums.headD 0 ∧ nums.length = f 0x28 4 ∧
                (∀ c ∈ nums, (v.dirE c).st ≠ 1 ∧ c < 65536 ∧ ∀ b, b < c → (v.dirE b).st = 1 ∨ b ∈ nums) ∧ nums.Pairwise (· < ·) ∧
                w.mem = v.mem ∧ ∀ i, i < nums.length → Created w p d sd i (nums.getD i 0))))) ∧
  (∀ (s : State) (l : Launch), mfind s.launches s.arg.n0 = some l → l.live = [] →
    exec .launchNextRecord s = .next (if l.next = 0 then { s with launches := mdel s.launches s.arg.n0 }
      else if l.next ∈ l.started then ({ s with launches := mdel s.launches s.arg.n0 } : State).modPart l.part (fun x => { x with lCause := 0x07, lFail := true })
      else ({ s with launches := mdel s.launches s.arg.n0 } : State).modPart l.part (fun x =>
        { x with launchQ := { addr := l.next, sup := l.sup, started := l.started, asn := l.asn } :: x.launchQ }))) ∧
  (∀ s : State, (s.dirE s.arg.n0).st = 1 → (s.dirE s.arg.n0).freeAt ≠ 0 → (s.dirE s.arg.n0).freeAt ≤ s.time →
    exec .launchSkewExpiry s = .next (s.modDir s.arg.n0 (fun d => { d with freeAt := 0 })))

/-- R337, R338, R341, R342: SPAWN creates one context of its record and gives its number; HALT and HALT.S end the executing
context; JOIN and LEAVE set its group and count its members; GRPKILL resets a group. That a launched context starts in address
space 0 is log 28. -/
def Obligations.ContextsComeAndGo : Prop :=
  (∀ (s t v : State) (d a b : BitVec 5) (l sl : List Nat) (u : Nat), canRead s a → canRead s b → canName s d → (regVal s a).toNat % 64 = 0 →
    Dwords 8 (begun s (.spawn d a b)) (regVal s a) l t →
    let r := lrecOf l
    let home := r.y0 * 16 + r.x0
    r.ok1 = true → (r.priv = 1 → (s.ctx s.cur).sup = true) → t.lumRes (t.dirE t.cur).part home = .to u → r.fits u = true →
    (isCroft u = false → t.acreOn = true) → Dwords (8 * r.nshape) t r.shapes sl v → (∀ h ∈ shapeImages sl r.nshape, h.toNat < 2 ^ 416) →
    v.relOk v.cur = true →
    exec (.spawn d a b) s = .next ((match v.freeNums 1 with
      | [] => written v d 0xFFFFFFFFFFFFFFFF
      | n :: _ => written (v.create n (t.dirE t.cur).part home r
          (r.fresh (shapeImages sl r.nshape) 0 (regVal s b) 1) 0 0 0) d (BitVec.ofNat 64 (v.linkcfg.toNat % 8 * 65536 + n))).retire false)) ∧
  (∀ s : State, (s.ctx s.cur).task.active = false → s.relOk s.cur = true →
    (s.dirE s.cur).unacked = 0 → s.enginesBusy s.cur = false → (s.ctx s.cur).dq = [] → (s.ctx s.cur).results = [] →
    exec .halt s = .next ((begun s .halt).haltCtx s.cur) ∧
    (∀ a b : BitVec 5, canRead s a → canRead s b → (regVal s a).toNat % 64 = 0 → (regVal s b).toNat < 256 →
      ∃ t : State, exec (.haltS a b) s = .next (t.haltCtx s.cur) ∧ (t.unit (s.unitOf s.cur)).retained = (s.unit (s.unitOf s.cur)).retained ||| (regVal s b).setWidth 8 ∧
        (t.part (s.dirE s.cur).part).launchQ.head?.map (·.addr) = some (regVal s a))) ∧
  (∀ (s : State) (c : Nat), let e := s.dirE c
    (s.haltCtx c).dirE c = { st := 2, part := e.part, prio := e.prio, home := e.home, gens := e.gens, save := e.save }) ∧
  (∀ (s : State) (d a : BitVec 5), canRead s a → canName s d → (regVal s a).toNat < 2 ^ 16 →
    ∃ t, exec (.join d a) s = .next t ∧ (t.ctx s.cur).grp = (regVal s a).toNat ∧ (t.ctx s.cur).pc = (s.ctx s.cur).pc + 4 ∧
      (d.toNat ≠ 0 → (t.ctx s.cur).s d.toNat = BitVec.ofNat 64 (t.members (s.dirE s.cur).part (regVal s a).toNat).length)) ∧
  (∀ (s : State) (d : BitVec 5), canName s d →
    ∃ t, exec (.leave d) s = .next t ∧ (t.ctx s.cur).grp = 0 ∧ (t.ctx s.cur).pc = (s.ctx s.cur).pc + 4 ∧
      (d.toNat ≠ 0 → (t.ctx s.cur).s d.toNat = BitVec.ofNat 64 (t.members (s.dirE s.cur).part (s.ctx s.cur).grp).length)) ∧
  (∀ s : State, s.arg.n0 < 16 → s.arg.n1 < 65536 → (s.part s.arg.n0).grpKill = 2 ^ 63 + s.arg.n1 →
    ∃ t, exec .grpkill s = .next t ∧ (t.part s.arg.n0).grpKill = s.arg.n1 ∧ t = (s.killGroup s.arg.n0 s.arg.n1).modPart s.arg.n0 (fun x => { x with grpKill := s.arg.n1 }))

/-- R329 to R331, R335, R340: the scheduling registers, the four rules that move contexts in and out of slots, and YIELD. What
the device keeps of a saved context beside its image is log 12. -/
def Obligations.SlotsAreScheduled : Prop :=
  (∀ s : State, s.arg.n0 < 260 → s.bootErr = 0 → exec .slotcfgWrite s =
    .next ((croftCalled s s.arg.n0).modUnit s.arg.n0 (fun x => { x with slotcfg := BitVec.ofNat 64 (s.arg.v.toNat % 2 ^ 56) }))) ∧
  (∀ s : State, s.arg.n0 < 260 → s.bootErr = 0 →
    ((∀ t, t < 16 → s.arg.v.toNat / 16 ^ t % 16 ≤ 8) → exec .rotWrite s =
      .next ((croftCalled s s.arg.n0).modUnit s.arg.n0 (fun x => { x with rotNext := some s.arg.v }))) ∧
    ((∃ t, t < 16 ∧ 8 < s.arg.v.toNat / 16 ^ t % 16) → exec .rotWrite s = .next (croftCalled s s.arg.n0))) ∧
  (∀ s : State, s.time / 1024 ≠ s.period → exec .budgetPeriod s =
    .next { s with period := s.time / 1024, units := s.units.map (fun e => (e.1, { e.2 with spent := [] })) }) ∧
  (∀ (s : State) (u k c p v : Nat), s.arg.n0 = u → s.arg.n1 = k → slotOpen s u k p → goesFirst s u p c → (s.dirE c).place = .tcc v →
    mget s.imgErr c 0 = 0 → ∃ t, exec .contextPlace s = .next t ∧ (t.dirE c).place = .slot u k ∧ mfind (t.unit u).slots k = some c ∧
      c ∉ (t.unit v).tcc ∧ t.ctxs = s.ctxs ∧ t.mem = s.mem) ∧
  (∀ (s q : State) (u k c : Nat) (b : List Byte), s.arg.n0 = c → (s.dirE c).place = .saved → u = s.unitOf c → s.unitOpen u = true →
    s.slotTaking u c = some k → s.savedRead c = (some b, q) → imgOk b = true → ofBytes ((b.drop 4).take 4) = s.ctxId c →
    ofBytes ((b.drop 8).take 2) = (s.dirE c).home →
    ∃ t, exec .contextRestore s = .next t ∧ (t.dirE c).place = .slot u k ∧ mfind (t.unit u).slots k = some c ∧
      t.ctx c = ctxOfImage b (s.dirE c) ∧ t.mem = q.mem) ∧
  (∀ (s q t : State) (c : Nat), s.arg.n0 = c → s.live c = true → (s.dirE c).releasing = false → s.saveCalled c = true → s.canSave c = true → (s.ctx c).frozen = false →
    s.saveTurn c = true → q = (s.leaveWaits c).abandonOf c 0 (2 ^ 64) false →
    q.writeImage (q.unitOf c) (q.dirE c).part (q.ctx c).asn (q.dirE c).save (({ q.ctx c with wait := none } : Ctx).image (q.dirE c) (q.ctxId c)
      (((q.unit (q.unitOf c)).sfq.filter (fun r => r.ctx == c)).take 8) true) = .ok t →
    ∃ v, exec .contextSave s = .next v ∧ (v.dirE c).place = .saved ∧ mfind v.ctxs c = none ∧ v.mem = t.mem) ∧
  Evicts .contextPreempt (fun s u _ c => (∃ w, waitsThere s u (s.dirE c).part w ∧ (s.dirE c).prio < (s.dirE w).prio) ∧
    ∀ e ∈ (s.unit u).slots, (s.dirE e.2).part ≠ (s.dirE c).part ∨ (s.dirE c).prio < (s.dirE e.2).prio ∨
      ((s.dirE c).prio = (s.dirE e.2).prio ∧ (s.dirE e.2).placedAt ≤ (s.dirE c).placedAt)) ∧
  Evicts .parkedEvict (fun s u _ c => (∃ x, (s.ctx c).wait = some x ∧ x.since + 256 ≤ (s.unit u).cyc) ∧
    ∃ w, waitsThere s u (s.dirE c).part w ∧ (s.dirE c).prio ≤ (s.dirE w).prio) ∧
  Evicts .timeSliceExpiry (fun s u _ c => (s.unit u).slotcfg.toNat / 2 ^ 40 % 2 ^ 16 ≠ 0 ∧
    (s.dirE c).placedAt + (s.unit u).slotcfg.toNat / 2 ^ 40 % 2 ^ 16 * 256 ≤ (s.unit u).cyc ∧
    ∃ w, waitsThere s u (s.dirE c).part w ∧ (s.dirE c).prio = (s.dirE w).prio) ∧
  (∀ (s : State) (u k : Nat), (s.dirE s.cur).place = .slot u k →
    let r := (begun s .yield).retire false
    ((s.ctx s.cur).task.active = false → (∀ w ∈ r.waiters u (r.dirE r.cur).part, (r.dirE w).prio < (r.dirE r.cur).prio) →
      exec .yield s = .next r) ∧
    ((s.ctx s.cur).task.active = false → r.mayLeave r.cur = true → r.freeSlot u (r.dirE r.cur).part = false →
      (∃ w, waitsThere r u (r.dirE r.cur).part w ∧ (r.dirE r.cur).prio ≤ (r.dirE w).prio) → (r.unit u).tcc.length < 24 →
      ∃ t, exec .yield s = .next t ∧ movedOut r t u k s.cur) ∧
    ((s.ctx s.cur).task.active = true → exec .yield s = .next (trapped s .yield 0x18)))

/-- R343 to R346, R348, R401: BARSET, BARARR, BARWT, BARSYNC and WFE, their causes and waits; the barrier packets, a staggered
release and a deadline as steps. That BARSYNC's recorded arrival ends with a break is log 29. -/
def Obligations.BarriersAndEvents : Prop :=
  (∀ (s : State) (d a : BitVec 5) (n : BitVec 3), canRead s a → canName s d →
    let v := (regVal s a).toNat
    let x0 := v / 2 ^ 39 % 16
    let y0 := v / 2 ^ 43 % 32
    let x1 := x0 + v / 2 ^ 35 % 16
    let y1 := y0 + v / 2 ^ 30 % 32
    let e := s.dirE s.cur
    let b := barAt s n
    let ok := x1 < 16 ∧ y1 < 32 ∧ x0 ≤ e.home % 16 ∧ e.home % 16 ≤ x1 ∧ y0 ≤ e.home / 16 ∧ e.home / 16 ≤ y1 ∧
      b.narr = 0 ∧ b.row = false ∧ b.col = false
    (ok → (s.cluster (clusterOf (s.unitOf s.cur))).proxy = [] → ∃ t, exec (.barset d a n) s = .next t ∧
      barAt t n = { val := BitVec.ofNat 64 (v / 2 ^ 20 * 2 ^ 20 + b.phase * 4 + v / 2 % 2 * 2), part := e.part, lunit := e.home } ∧
      (d.toNat ≠ 0 → (t.ctx s.cur).s d.toNat = b.val) ∧ (∀ r, r ≠ d.toNat → (t.ctx s.cur).s r = (s.ctx s.cur).s r) ∧
      (t.ctx s.cur).pc = (s.ctx s.cur).pc + 4 ∧ t.mem = s.mem) ∧
    (¬ok → exec (.barset d a n) s = .next (trapped s (.barset d a n) 0x07))) ∧
  (∀ (s : State) (d : BitVec 5) (n : BitVec 3), canName s d →
    let b := barAt s n
    (mayArrive s b → b.narr ≠ b.nloc → notStaggered s n → s.relOk s.cur = true →
      ∃ t, exec (.bararr d n) s = .next t ∧ (barAt t n).narr = (b.narr + 1) % 1024 ∧ (barAt t n).phase = b.phase ∧
        (d.toNat ≠ 0 → (t.ctx s.cur).s d.toNat = BitVec.ofNat 64 b.phase) ∧ (t.ctx s.cur).pc = (s.ctx s.cur).pc + 4 ∧ t.mem = s.mem) ∧
    (mayArrive s b → b.narr = b.nloc → exec (.bararr d n) s = .next (barWaits s (.bararr d n) n)) ∧
    (b.brk = true → exec (.bararr d n) s = .next ((begun s (.bararr d n)).issuedTrap { cause := 0x38, addr := BitVec.ofNat 64 n.toNat } ((encode (.bararr d n)).getD 0))) ∧
    (b.brk = false → b.v = false ∨ b.nloc = 0 ∨ b.grp ≠ (s.ctx s.cur).grp → exec (.bararr d n) s = .next (trapped s (.bararr d n) 0x07)) ∧
    (∀ p : Nat, (s.ctx s.cur).barr = some (n.toNat, p) → b.brk = false → b.phase ≠ p → notStaggered s n →
      exec (.barsync d n) s = .next ((written ((begun s (.barsync d n)).modCtx s.cur (fun x => { x with barr := none })) d (BitVec.ofNat 64 b.phase)).retire false)) ∧
    ((s.ctx s.cur).barr = none → (s.ctx s.cur).task.active = false → mayArrive s b → b.narr ≠ b.nloc → notStaggered s n → s.relOk s.cur = true →
      ∃ t, exec (.barsync d n) s = .next t ∧ (barAt t n).narr = (b.narr + 1) % 1024 ∧ (t.ctx s.cur).barr = some (n.toNat, b.phase) ∧ t.mem = s.mem)) ∧
  (∀ (s : State) (d a : BitVec 5) (n : BitVec 3), canRead s a → canName s d → (barAt s n).brk = false →
    ((barAt s n).phase ≠ (regVal s a).toNat % 256 → notStaggered s n →
      exec (.barwt d a n) s = .next ((written (begun s (.barwt d a n)) d (BitVec.ofNat 64 (barAt s n).phase)).retire false)) ∧
    ((barAt s n).phase = (regVal s a).toNat % 256 → exec (.barwt d a n) s = .next (barWaits s (.barwt d a n) n))) ∧
  (∀ (s : State) (u : Nat) (g : Sig),
    (sigThere s 0 u g → ∃ t, exec .barrierRowSignal s = .next t ∧ t.bar u g.reg = { s.bar u g.reg with row := true } ∧ t.mem = s.mem) ∧
    (sigThere s 1 u g → ∃ t, exec .barrierColumnSignal s = .next t ∧ t.bar u g.reg = { s.bar u g.reg with col := true } ∧ t.mem = s.mem) ∧
    (sigThere s 2 u g → ∃ t, exec .barrierRelease s = .next t ∧ (t.bar u g.reg).phase = ((s.bar u g.reg).phase + 1) % 256 ∧
      (t.bar u g.reg).narr = 0 ∧ (t.bar u g.reg).row = false ∧ (t.bar u g.reg).col = false ∧ (∀ c ∈ s.homedOn u, (t.dirE c).event = true) ∧ t.mem = s.mem) ∧
    (sigThere s 3 u g → ∃ t, exec .barrierBreak s = .next t ∧ (t.bar u g.reg).brk = true ∧ (t.bar u g.reg).v = false ∧ t.mem = s.mem)) ∧
  (∀ (s : State) (g : Stagger), s.staggers[s.arg.n0]? = some g → g.at_ ≤ s.time →
    exec .staggeredReleaseApply s = .next (({ s with staggers := ldel s.staggers s.arg.n0 } : State).wakeUnit g.u)) ∧
  (∀ (s : State) (d a : BitVec 5), canRead s a → canName s d →
    let q := (begun s (.wfe d a))
    ((s.dirE s.cur).event = true → exec (.wfe d a) s =
      .next ((written (q.modDir s.cur (fun e => { e with event := false, deadline := 0 })) d 1).retire false)) ∧
    ((s.dirE s.cur).event = false → regVal s a ≠ 0 → (regVal s a).toNat ≤ s.time → exec (.wfe d a) s =
      .next ((written (q.modDir s.cur (fun e => { e with deadline := 0 })) d 0).retire false)) ∧
    ((s.dirE s.cur).event = false → (regVal s a = 0 ∨ s.time < (regVal s a).toNat) → (s.ctx s.cur).task.active = false → exec (.wfe d a) s =
      .next ((q.modDir s.cur (fun e => { e with deadline := (regVal s a).toNat })).parkCtx wEvent false))) ∧
  (∀ (s : State) (c : Nat), s.arg.n0 = c → (s.dirE c).st = 1 → (s.dirE c).deadline ≠ 0 → (s.dirE c).deadline ≤ s.time →
    (isCroft (s.unitOf c) = true ∨ s.acreOn = true) → exec .wfeDeadline s = .next ((s.modDir c (fun d => { d with deadline := 0 })).unpark c))

/-- R351 to R360: DCNT's three outcomes at a counter of the own unit, TASKQ's three forms, TASKEND outside and inside a task,
OPCALL, and load balancing. -/
def Obligations.TasksDispatched : Prop :=
  (∀ (s : State) (d a b : BitVec 5) (loc : Nat), dcntReady s d a b loc → (∀ e ∈ s.ownStores s.cur, e.rs = 2 ∨ (e.rs = 1 ∧ e.meets loc 8 = false)) →
    let w : Word := BitVec.ofNat 64 (leVal s.mem loc 8)
    let c := w.toNat % 2 ^ 16
    let n := (regVal s b).toNat
    let k := w.toNat / 2 ^ 32 % 8
    let g := s.ring (s.unitOf s.cur) k
    let e : Word := BitVec.ofNat 64 (0xFFFF100000000000 + w.toNat / 2 ^ 35 % 2 ^ 13 * 64 + w.toNat / 2 ^ 16 % 2)
    (c = 0 → exec (.dcnt d a b) s = .next ((written (begun s (.dcnt d a b)) d w).retire false)) ∧
    (n < c → Memory.wf s.mem = true → ∃ t, exec (.dcnt d a b) s = .next t ∧ leVal t.mem loc 8 = (withCount w (c - n)).toNat ∧ onlyAt s.mem t.mem loc 8 ∧
      (d.toNat ≠ 0 → (t.ctx s.cur).s d.toNat = w) ∧ (t.ctx s.cur).pc = (s.ctx s.cur).pc + 4) ∧
    (0 < c → c ≤ n → g.usable (s.dirE s.cur).part = true → g.q.length < 256 → Memory.wf s.mem = true →
      ∃ t, exec (.dcnt d a b) s = .next t ∧ leVal t.mem loc 8 = (withCount w (w.toNat / 2 ^ 48)).toNat ∧ onlyAt s.mem t.mem loc 8 ∧
        (t.ring (s.unitOf s.cur) k).q = g.q ++ [e] ∧ (d.toNat ≠ 0 → (t.ctx s.cur).s d.toNat = w) ∧ (t.ctx s.cur).pc = (s.ctx s.cur).pc + 4) ∧
    (0 < c → c ≤ n → g.usable (s.dirE s.cur).part = false → exec (.dcnt d a b) s = .next (trapped s (.dcnt d a b) 0x06))) ∧
  (∀ (s : State) (a b : BitVec 5) (m : BitVec 1), canRead s a → canRead s b → (regVal s b).toNat % 64 = 0 →
    let u := s.unitOf s.cur
    let e : Word := BitVec.ofNat 64 ((regVal s b).toNat + m.toNat)
    ((regVal s a).toNat < 8 → (s.ring u (regVal s a).toNat).usable (s.dirE s.cur).part = true → (s.ring u (regVal s a).toNat).q.length < 256 →
      s.relOk s.cur = true → exec (.taskq a b m) s = .next (((begun s (.taskq a b m)).ringPush u (regVal s a).toNat e).retire false)) ∧
    (8 ≤ (regVal s a).toNat ∨ (s.ring u (regVal s a).toNat).usable (s.dirE s.cur).part = false →
      exec (.taskq a b m) s = .next (trapped s (.taskq a b m) 0x06)) ∧
    (capGives s (regVal s a) 30 → capCls (regVal s a) = 6 → mayInject s (regVal s a) (.taskq e) → Injects s (.taskqCap a b m) (regVal s a) 0 (.taskq e))) ∧
  (∀ (s : State) (a b : BitVec 5), canRead s a → canRead s b → (regVal s a).toNat < 8 → (regVal s b).toNat < 256 →
    let u := s.unitOf s.cur
    let r := s.ring u (regVal s a).toNat
    (∀ o, r.owner = some o → s.live o = true → (s.dirE o).part = (s.dirE s.cur).part) →
    ∃ t, exec (.taskqOwn a b) s = .next t ∧ t.ring u (regVal s a).toNat =
      { r with owner := some s.cur, part := (s.dirE s.cur).part, thr := (regVal s b).toNat, frozen := false } ∧
      t.mem = s.mem ∧ (t.ctx s.cur).pc = (s.ctx s.cur).pc + 4) ∧
  (∀ (s : State) (a : BitVec 5), (s.ctx s.cur).task.active = false → canRead s a → (regVal s a).toNat < 8 →
    let u := s.unitOf s.cur
    let n := (regVal s a).toNat
    let r := s.ring u n
    r.usable (s.dirE s.cur).part = true →
    (r.frozen = true → exec (.taskend a) s = .next (trapped s (.taskend a) 0x1C)) ∧
    (r.frozen = false → r.q = [] → exec (.taskend a) s = .next ((begun s (.taskend a)).parkCtx wRing false)) ∧
    (∀ l, r.frozen = false → r.q = 0 :: l → exec (.taskend a) s =
      .next ((((begun s (.taskend a)).setRing u n { r with q := l }).wakeUnit u).retire false)) ∧
    (∀ (e : Word) (l : List Word) (ws : List Nat) (t : State), r.frozen = false → r.q = e :: l → e ≠ 0 → e.toNat / 2 % 32 = 0 →
      Dwords 8 (begun s (.taskend a)) (e &&& ~~~1) ws t → plainPacket ws → noResults s → (s.ctx s.cur).wins.length < 3 →
      ∃ v, exec (.taskend a) s = .next v ∧ (v.ring u n).q = l ∧ (v.ctx s.cur).wins = (s.ctx s.cur).asWin :: (s.ctx s.cur).wins ∧
        (v.ctx s.cur).s 8 = e &&& ~~~1 ∧ (v.ctx s.cur).s 15 = 0 ∧ (v.ctx s.cur).csrGet 8 = e &&& ~~~1 ∧
        (v.ctx s.cur).csrGet 9 = BitVec.ofNat 64 (dwAt ws 8 4) ∧ (v.ctx s.cur).csrGet 10 = 0 ∧ (v.ctx s.cur).csrGet 11 = 0 ∧
        (v.ctx s.cur).task.active = true ∧ (v.ctx s.cur).task.pkt = e &&& ~~~1 ∧ (v.ctx s.cur).task.ring = n ∧
        (v.ctx s.cur).pc = BitVec.ofNat 64 (dwAt ws 0 8) ∧ v.mem = t.mem)) ∧
  (∀ (s : State) (a : BitVec 5), (s.ctx s.cur).task.active = true → (s.ctx s.cur).task.lost = false → (s.ctx s.cur).task.cur = none → noResults s → (s.ctx s.cur).wins ≠ [] →
    ∃ v, exec (.taskend a) s = .next v ∧ (v.ctx s.cur).task = {} ∧ (v.ctx s.cur).wins = (s.ctx s.cur).wins.tail ∧ v.mem = s.mem ∧
      (if (s.ctx s.cur).task.opcall = true
        then (v.ctx s.cur).pc = (s.ctx s.cur).task.opcPc + 4 ∧ ((s.ctx s.cur).task.opcRd ≠ 0 →
          (v.ctx s.cur).s (s.ctx s.cur).task.opcRd = BitVec.ofNat 64 (s.ctx s.cur).task.meth)
        else (v.ctx s.cur).pc = (s.ctx s.cur).pc)) ∧
  (∀ (s t : State) (d a : BitVec 5) (o : BitVec 14) (q : Disp), (s.ctx s.cur).task.active = false → canRead s a → canName s d →
    readPacket (regVal s a) (some o.toNat) (begun s (.opcall d a o)) = .ok q t → t.cur = s.cur → t.ctx s.cur = s.ctx s.cur → noResults s →
    (s.ctx s.cur).wins.length < 3 →
    ∃ v, exec (.opcall d a o) s = .next v ∧ (v.ctx s.cur).task.active = true ∧ (v.ctx s.cur).task.opcall = true ∧
      (v.ctx s.cur).task.opcPc = (s.ctx s.cur).pc ∧ (v.ctx s.cur).task.opcRd = d.toNat ∧ (v.ctx s.cur).wins = (s.ctx s.cur).asWin :: (s.ctx s.cur).wins ∧
      (v.ctx s.cur).pc = (match q.convs with | [] => q.routine | c :: _ => c.target) ∧ v.mem = t.mem) ∧
  (∀ (s : State) (u : Nat), s.arg.n0 = u → u < 260 → (s.unit u).balanced + 512 ≤ (s.unit u).cyc → (isCroft u = true ∨ s.acreOn = true) →
    ∃ t, exec .loadBalance s = .next t ∧ t.mem = s.mem ∧ (t.unit u).balanced = (s.unit u).cyc / 512 * 512) ∧
  (∀ (s : State) (u r dir v : Nat), neighbour u dir = some v →
    ((s.balance u r dir).ring u r).q.length + ((s.balance u r dir).ring v r).q.length = (s.ring u r).q.length + (s.ring v r).q.length)

/-- R361 to R370: TRAP enters the handler or holds the context, a waiting record or event is taken as a step, ERET leaves the
handler, and leaving it restores what the trap interrupted. R363: a record's eight doublewords, for every trap and context. -/
def Obligations.TrapsTakenAndLeft : Prop :=
  ((∀ (s : State) (a n : BitVec 5), canRead s a →
     (handlerFree s s.cur → ∃ t, exec (.trap a n) s = .next t ∧
       inHandlerFor s t s.cur (0x60 + n.toNat) (s.ctx s.cur).pc (regVal s a) ((s.ctx s.cur).pc + 4)) ∧
     ((bit ((s.ctx s.cur).csrGet 0x30) 0 = false ∨ bit ((s.ctx s.cur).csrGet 0x31) 8 = true) → ∃ t, exec (.trap a n) s = .next t ∧
       heldFor s t s.cur (0x60 + n.toNat) (s.ctx s.cur).pc (regVal s a) ((s.ctx s.cur).pc + 4))) ∧
   (∀ (s : State) (c u k : Nat) (r : Rec) (l : List Rec), s.arg.n0 = c → atBoundary s c u k → (s.unit u).sfq = r :: l → r.ctx = c → r.cause < 128 →
     s.atDrain c = false → (s.ctx c).nextWide = none → causeToCmc r.cause = false →
     (handlerFree s c → r.inH = false → ∃ t, exec .trapEntryHandler s = .next t ∧ inHandlerFor s t c r.cause r.pc r.addr (s.ctx c).pc) ∧
     (bit ((s.ctx c).csrGet 0x30) 0 = false → bit ((s.ctx c).csrGet 0x31) 8 = false → ∃ t, exec .trapToCmc s = .next t ∧
       heldFor s t c r.cause r.pc r.addr (s.ctx c).pc)) ∧
   (∀ (s : State) (c u k : Nat) (a : Async), s.arg.n0 = c → atBoundary s c u k → (∀ r ∈ (s.unit u).sfq, r.ctx ≠ c) → (s.dirE c).async = [a] →
     a.cause < 128 → (s.ctx c).nextWide = none →
     (handlerFree s c → causeToCmc a.cause = false → ∃ t, exec .trapEntryHandler s = .next t ∧
       inHandlerFor s t c a.cause a.pc a.addr (s.ctx c).pc ∧ (t.dirE c).async = []) ∧
     (causeToCmc a.cause = true → a.cause ≠ 0x41 → ∃ t, exec .trapToCmc s = .next t ∧ heldFor s t c a.cause a.pc a.addr (s.ctx c).pc)) ∧
   (∀ (s : State) (w x : Win) (l : List Win), bit ((s.ctx s.cur).csrGet 0x31) 8 = true → s.handlerWork s.cur = false → noResults s → canRead s 15 →
     (s.ctx s.cur).wins = w :: x :: l →
     ∃ t, exec .eret s = .next t ∧ (t.ctx s.cur).pc = (s.ctx s.cur).s 15 ∧ (t.ctx s.cur).csrGet 0x31 = 0 ∧ (t.ctx s.cur).wins = l ∧
       (∀ i, i < 8 → (t.ctx s.cur).s i = (s.ctx s.cur).s i) ∧ (∀ i, 8 ≤ i → i < 24 → (t.ctx s.cur).s i = mget x.regs i 0) ∧
       (∀ i, 24 ≤ i → i < 32 → (t.ctx s.cur).s i = mget w.regs (i - 16) 0) ∧ t.mem = s.mem) ∧
   (∀ s : State, bit ((s.ctx s.cur).csrGet 0x31) 8 = false → exec .eret s = .next (trapped s .eret 0x07)) ∧
   (∀ (s t v : State) (a n : BitVec 5), canRead s a → handlerFree s s.cur → exec (.trap a n) s = .next t → exec .eret t = .next v →
     (v.ctx s.cur).csrGet 0x31 = 0 → (v.ctx s.cur).pc = (s.ctx s.cur).pc + 4 ∧
       ∀ i, i < 32 → (v.ctx s.cur).s i = (s.ctx s.cur).s i ∧ bit (v.ctx s.cur).sFull i = bit (s.ctx s.cur).sFull i)) ∧
  (∀ (s : State) (c : Nat) (t : TrapInfo) (imp : Bool) (pc rpc : Word) (insn : BitVec 32), c < 65536 →
     let l := s.record c t imp pc rpc insn
     let i := (l.getD 0 0).toNat
     l.length = 8 ∧ i % 2 ^ 7 = t.cause % 2 ^ 7 ∧ i / 2 ^ 7 % 2 = (if imp then 1 else 0) ∧ i / 2 ^ 8 % 8 = t.kind % 8 ∧ i / 2 ^ 11 % 8 = t.level % 8 ∧
       i / 2 ^ 14 % 8 = t.size % 8 ∧ i / 2 ^ 17 % 2 ^ 7 = t.orig % 2 ^ 7 ∧ i / 2 ^ 24 % 2 ^ 8 = min (s.waitingTraps c) 255 ∧
       i / 2 ^ 32 = s.linkcfg.toNat % 8 * 65536 + c ∧ l.getD 1 0 = pc ∧ l.getD 2 0 = t.addr ∧ l.getD 3 0 = t.data ∧ l.getD 4 0 = t.aux ∧
       l.getD 5 0 = BitVec.ofNat 64 s.time ∧ l.getD 6 0 = insn.setWidth 64 ∧ l.getD 7 0 = rpc)

/-- R370, R379, R431: the management core's commands, its mailbox registers, ERRCNT and the group stop. The link corrections
ERRCNT counts are a free value, log 54. -/
def Obligations.ManagementCore : Prop :=
  (∀ (s : State) (cl c u k : Nat), commandFor s cl c u k →
    ((s.ctx c).held = true →
      (∃ t, exec .ctxcmdResume s = .next t ∧ (t.ctx c).held = false ∧ (t.ctx c).pc = (s.ctx c).trec.getD 7 0 ∧ t.mem = s.mem) ∧
      (∃ t, exec .ctxcmdResumeAt s = .next t ∧ (t.ctx c).held = false ∧ (t.ctx c).pc = (s.cluster cl).ctxPc ∧ t.mem = s.mem) ∧
      (∃ t, exec .ctxcmdReset s = .next t ∧ (t.dirE c).st = 2 ∧ mfind t.ctxs c = none)) ∧
    ((s.ctx c).held = false → 0x50 ≤ s.arg.n2 → s.arg.n2 ≤ 0x5F →
      ∃ t a, exec .ctxcmdRaise s = .next t ∧ (t.dirE c).async = (s.dirE c).async ++ [a] ∧ a.cause = s.arg.n2 ∧ t.mem = s.mem) ∧
    (∀ q, (s.ctx c).frozen = true → s.settled c = true →
      (((({ s with island := if cl = 16 then { s.island with standby := false, croftActive := s.time } else s.island } : State).modCluster cl (fun x => { x with ctxCmd := BitVec.ofNat 64 (4 * 2 ^ 60 + s.ctxId c) })).modDir c (fun d => { d with frozen := false, releasing := false, ready := true })).modCtx c
        (fun x => { x with frozen := false })).writeImage u (s.dirE c).part (s.ctx c).asn (s.dirE c).save
          (({ s.ctx c with frozen := false } : Ctx).image { s.dirE c with frozen := false, releasing := false, ready := true } (s.ctxId c)
            (((s.unit u).sfq.filter (fun r => r.ctx == c)).take 8) false) = .ok q →
      exec .ctxcmdReleaseFrozen s = .next q)) ∧
  (∀ (s : State) (cl : Nat) (e : MbEnt) (l : List MbEnt), s.bootErr = 0 → s.arg.n0 = cl → cl < 17 → (s.cluster cl).mbox = e :: l → (s.cluster cl).waiting = [] →
    (s.arg.v.toNat % 64 = ((s.cluster cl).head + 1) % 64 → ∃ t, exec .tmbheadAdvance s = .next t ∧ (t.cluster cl).mbox = l.dropWhile (·.done) ∧
      (t.cluster cl).head = ((s.cluster cl).head + 1 + (l.takeWhile (·.done)).length) % 64 ∧ t.mem = s.mem ∧ t.ctxs = s.ctxs) ∧
    (s.arg.v.toNat % 64 ≠ ((s.cluster cl).head + 1) % 64 → ∃ t, exec .tmbheadAdvance s = .next t ∧ (t.cluster cl).mbox = e :: l ∧ t.mem = s.mem) ∧
    (∀ i m, bit s.arg.v 63 = true → (s.cluster cl).head < 64 → s.arg.v.toNat % 64 = ((s.cluster cl).head + i) % 64 → 0 < i → i < 64 → e.done = false → (e :: l)[i]? = some m →
      ∃ t, exec .tmbfreeMark s = .next t ∧ (t.cluster cl).mbox = lset (e :: l) i { m with done := true } ∧ (t.cluster cl).head = (s.cluster cl).head ∧
        t.mem = s.mem ∧ t.ctxs = s.ctxs)) ∧
  (∀ (s : State) (cl : Nat), s.bootErr = 0 → s.arg.n0 = cl → cl < 17 → let x := s.cluster cl
    ∃ link, exec .errcntRead s = .next { s.bump.modCluster cl (fun x => { x with link := 0, corr := 0, rply := 0 }) with
      reply := toBytes 8 (BitVec.ofNat 64 (link * 2 ^ 32 + x.corr * 2 ^ 16 + x.rply) : Word).toNat } ∧ (x.link ≤ link ∨ link = 65535)) ∧
  (∀ (s : State) (cl i c : Nat) (e : MbEnt), s.arg.n0 = cl → cl < 17 → s.arg.n1 = (s.cluster cl).head + i → i < 64 → (s.cluster cl).head + i < 64 → (s.cluster cl).mbox[i]? = some e →
    e.done = false → e.unit ≠ none → (e.words.getD 0 0).toNat % 128 = 0x7F → (e.words.getD 2 0).toNat < 2 ^ 16 →
    (e.words.getD 0 0).toNat / 2 ^ 32 % 2 ^ 22 = s.ctxId c → c < 65536 →
    ∃ t, exec .cmcGroupStop s = .next t ∧ (t.part e.part).grpKill = (e.words.getD 2 0).toNat ∧
      (∀ d ∈ s.members e.part (e.words.getD 2 0).toNat, (t.dirE d).st = 2) ∧
      (∀ u k, (s.dirE c).st = 1 → (s.dirE c).place = .slot u k → (s.dirE c).part = e.part → (s.dirE c).gens = e.gens → (s.ctx c).held = true →
        c ∉ s.members e.part (e.words.getD 2 0).toNat → (t.ctx c).held = false ∧ (t.ctx c).pc = (s.ctx c).trec.getD 7 0))

/-- R381, R382, R386 to R389: the watchdogs, write-back, STEP, CKPT, checkpoints that fall due, and resumption from an image.
That a checkpoint's image is taken at CKPT's own address is deduced, log 33; that an image is read in address space 0 is log
36. -/
def Obligations.WatchdogsAndCheckpoints : Prop :=
  (∀ (s : State) (c u k : Nat), s.arg.n0 = c → (s.dirE c).st = 1 → (s.dirE c).place = .slot u k → ((s.ctx c).csrGet 0x100).toNat % 2 ^ 32 ≠ 0 →
    ((s.ctx c).csrGet 0x100).toNat % 2 ^ 32 * 1024 ≤ (s.ctx c).wdcnt →
    ∃ t, exec .hangWatchdog s = .next t ∧ (t.ctx c).wdcnt = 0 ∧ t.mem = s.mem ∧ (t.dirE c).async = (s.dirE c).async ++
      [{ cause := 0x30, data := BitVec.ofNat 64 (s.ctx c).wdcnt, aux := (s.ctx c).csrGet 0x100 }]) ∧
  (∀ (s : State) (c u k : Nat), s.arg.n0 = c → (s.dirE c).st = 1 → (s.dirE c).place = .slot u k → mfind s.ctxs c ≠ none →
    (s.ctx c).csrGet 0x101 ≠ 0 → ((s.ctx c).csrGet 0x101).toNat ≤ s.time →
    ∃ t, exec .wallTimeLimit s = .next t ∧ (t.ctx c).csrGet 0x101 = 0 ∧ t.mem = s.mem ∧ (t.dirE c).async = (s.dirE c).async ++
      [{ cause := 0x31, data := BitVec.ofNat 64 s.time, aux := (s.ctx c).csrGet 0x101 }]) ∧
  (∀ (s p q t : State) (c u k n o : Nat) (b h old : List Byte), s.arg.n0 = c → s.arg.n1 = n → n < 320 → (s.dirE c).st = 1 → (s.dirE c).place = .slot u k →
    s.isFrozen c = false → s.ckptBusy c = false → s.readBlocks u (s.dirE c).part (s.ctx c).asn (s.dirE c).save.toNat 1 = (some h, p) →
    p.readBlocks u (s.dirE c).part (s.ctx c).asn ((s.dirE c).save.toNat + o) 1 = (some old, q) →
    (blocksOf 320 0 ((s.ctx c).image (s.dirE c) (s.ctxId c) (((s.unit u).sfq.filter (fun r => r.ctx == c)).take 8) false))[n]? = some (o, b) →
    old ≠ b → q.writeBlocks u (s.dirE c).part (s.ctx c).asn (s.dirE c).save.toNat
      ((if n ≠ 0 ∧ imgAt h 0xB 1 % 2 = 1 then [(0, headInvalid h)] else []) ++ [(o, b)]) = .ok t → exec .imageWriteback s = .next t) ∧
  (∀ (s : State) (d : BitVec 5) (n : BitVec 14), canName s d →
    let x := s.ctx s.cur
    let v := ((x.csrGet 0x20).toNat + n.toNat) % 2 ^ 32
    let lim := (x.csrGet 0x21).toNat % 2 ^ 32
    exec (.step d n) s = .next ((written (if lim ≠ 0 ∧ lim ≤ v
      then ((begun s (.step d n)).modCtx s.cur (fun x => x.csrSet 0x20 0)).modDir s.cur (fun e => { e with ckDue := true })
      else (begun s (.step d n)).modCtx s.cur (fun x => x.csrSet 0x20 (BitVec.ofNat 64 v))) d (BitVec.ofNat 64 v)).retire false)) ∧
  (∀ (s q : State) (d a : BitVec 5) (f : BitVec 1), (s.ctx s.cur).task.active = false → canRead s a → canName s d →
    let x := s.ctx s.cur
    let i := Instr.ckpt d a f
    let u := s.unitOf s.cur
    let w := if a.toNat = 0 then x.csrGet 0x102 else regVal s a
    w ≠ 0 → w.toNat % 64 = 0 → s.canSave s.cur = true → schedFree s →
    (begun s i).writeImage u (s.dirE s.cur).part x.asn (s.dirE s.cur).save (({ x with wait := none } : Ctx).image (s.dirE s.cur) (s.ctxId s.cur)
      (((s.unit u).sfq.filter (fun r => r.ctx == s.cur)).take 8) false) = .ok q →
    ∃ t k, exec i s = .next t ∧ (t.unit u).cmds = (s.unit u).cmds ++ [k] ∧ k.issuer = s.cur ∧ k.reads = [{ lo := (s.dirE s.cur).save.toNat, len := 20480 }] ∧
      k.writes = [{ lo := w.toNat, len := 20480 }] ∧ (t.ctx s.cur).ckseq = (x.ckseq + 1) % 2 ^ 32 ∧ (t.ctx s.cur).lcka = w ∧
      (d.toNat ≠ 0 → (t.ctx s.cur).s d.toNat = BitVec.ofNat 64 ((s.dirE s.cur).home * 2 ^ 32 + 2 ^ 31 + (s.unit u).seq % 2 ^ 24)) ∧ t.mem = q.mem ∧
      (t.ctx s.cur).pc = x.pc + 4) ∧
  (∀ (s : State) (c : Nat), s.arg.n0 = c → (s.dirE c).st = 1 → mfind s.ctxs c ≠ none → ((s.ctx c).csrGet 0x22).toNat % 2 ^ 32 ≠ 0 →
    (s.ctx c).ckdue ≤ s.time → exec .checkpointTimer s = .next ((s.modCtx c (fun x =>
      { x with ckdue := (s.time + ((s.ctx c).csrGet 0x22).toNat % 2 ^ 32 * 1000) % 2 ^ 64 })).modDir c (fun d => { d with ckDue := true }))) ∧
  (∀ s : State, s.arg.n0 < 16 → s.bootErr = 0 → exec .resumeqWrite s = .next (s.modPart s.arg.n0 (fun x =>
    if x.en = true ∧ x.resumeQ.length < 16 then { x with resumeQ := x.resumeQ ++ [s.arg.v] } else { x with rOvf := true }))) ∧
  (∀ (s : State) (a : Word) (l : List Word), s.arg.n0 < 16 → (s.part s.arg.n0).resumeQ = a :: l →
    let refuse := fun (q : State) (n : Nat) => q.modPart s.arg.n0 (fun x => { x with resumeQ := l, rCause := n, rFail := true })
    (a.toNat % 64 ≠ 0 → exec .resumeImageTake s = .next (refuse s 0x05)) ∧
    (∀ q, a.toNat % 64 = 0 → s.readImage 0 s.arg.n0 0 a = (none, q) → exec .resumeImageTake s = .next (refuse q 0x08)) ∧
    (∀ q b u, a.toNat % 64 = 0 → s.readImage 0 s.arg.n0 0 a = (some b, q) →
      let c := imgAt b 4 2
      let here := imgAt b 4 4 / 65536 = q.linkcfg.toNat % 8
      let lost := here ∧ c ∈ q.retRec
      let good := imgOk b = true ∧ here ∧ (q.dirE c).st ≠ 1
      (lost → exec .resumeImageTake s = .next (refuse q 0x48)) ∧
      (¬lost → ¬good → exec .resumeImageTake s = .next (refuse q 0x07)) ∧
      (¬lost → good → q.lumRes s.arg.n0 (imgAt b 8 2) = .unmapped → exec .resumeImageTake s = .next (refuse q 0x07)) ∧
      (¬lost → good → q.lumRes s.arg.n0 (imgAt b 8 2) = .to u → (isCroft u = true ∨ q.acreOn = true) →
        ∃ t, exec .resumeImageTake s = .next t ∧ (t.dirE c).st = 1 ∧ (t.dirE c).part = s.arg.n0 ∧ (t.dirE c).place = .saved ∧ (t.dirE c).save = a ∧
          (t.dirE c).home = imgAt b 8 2 ∧ (t.dirE c).prio = imgAt b 0xA 1 ∧ (t.dirE c).gens = BitVec.ofNat 48 (imgAt b 0x18 8) ∧
          (t.part s.arg.n0).rFirst = c ∧ (t.part s.arg.n0).resumeQ = l ∧ t.mem = q.mem)))

/-- R407 to R414: requests raised, refused, honoured, timed out and carried out; MIGPT and CASC. That a new write of MIGREQ
starts a request while one stands is log 34; that a move is made in one step is log 35; that a move which finds Acre asleep
asks for its wake is deduced from R25 and R394, log 79. -/
def Obligations.MigrationSteps : Prop :=
  (∀ s : State, s.bootErr = 0 →
    (s.arg.v.toNat / 2 ^ 61 % 4 = 3 → exec .migreqRaise s = .next s) ∧
    (s.arg.v.toNat / 2 ^ 61 % 4 ≠ 3 → bit s.arg.v 63 = true → s.migOk (s.arg.v.toNat % 512) (s.arg.v.toNat / 2 ^ 32 % 512) = true →
      ∃ t, exec .migreqRaise s = .next t ∧ bit t.migReg 63 = true ∧ t.mem = s.mem ∧ t.migs = s.migs.map (fun m => { m with reg := false }) ++
        [{ src := s.arg.v.toNat % 512, dst := s.arg.v.toNat / 2 ^ 32 % 512, kind := s.arg.v.toNat / 2 ^ 61 % 4 + 1, raised := s.time, reg := true }]) ∧
    (s.arg.v.toNat / 2 ^ 61 % 4 ≠ 3 → bit s.arg.v 63 = true → s.migOk (s.arg.v.toNat % 512) (s.arg.v.toNat / 2 ^ 32 % 512) = false →
      ∃ t, exec .migreqRaise s = .next t ∧ bit t.migReg 63 = false ∧ bit t.migReg 60 = true ∧ t.migReg.toNat / 2 ^ 48 % 128 = 7 ∧
        t.migs = s.migs.map (fun m => { m with reg := false }))) ∧
  (∀ (s : State) (m : Mig), s.pendingMig s.arg.n0 = some m → s.migAwake m = true →
    (m.kind = 3 ∨ ∀ c ∈ s.pointBound m.src, (s.dirE c).arrived = true) → m.src < 512 →
    ∃ t, exec .migrationHonour s = .next t ∧ { m with honoured := true } ∈ t.migs ∧ t.mem = s.mem ∧ t.units = s.units ∧
      ∀ p n, (names (s.lumEntry p n) m.src → t.lumEntry p n = entryTo (s.lumEntry p n) 1 m.src) ∧
        (¬names (s.lumEntry p n) m.src → t.lumEntry p n = s.lumEntry p n)) ∧
  (∀ (s : State) (m : Mig), s.pendingMig s.arg.n0 = some m → m.raised + s.migTmo * 1000 ≤ s.time →
    (m.kind = 1 → ∃ t, exec .migrationTimeout s = .next t ∧ t.migs = s.migs.filter (fun x => x != m) ∧ t.mem = s.mem) ∧
    (m.kind = 2 → ∃ t, exec .migrationTimeout s = .next t ∧ t.migs = s.migs.map (fun x => if x = m then { x with kind := 3 } else x) ∧ t.mem = s.mem)) ∧
  (∀ (s : State) (m : Mig), s.migs.find? (fun m => m.src == s.arg.n0 && m.honoured) = some m → m.src < 260 → m.dst < 260 → m.src ≠ m.dst →
    s.migAwake m = true → (∀ c ∈ s.inUnit m.src, s.canMove c = true) → (s.unit m.src).sb = [] → Memory.wf s.mem = true →
    ∃ t, exec .migrationComplete s = .next t ∧ (∀ c ∈ s.inUnit m.src, (t.dirE c).place = .tcc m.dst) ∧
      (t.unit m.dst).bars = (s.unit m.src).bars ∧ (t.unit m.dst).bt = (s.unit m.src).bt ∧ (t.unit m.src).slots = [] ∧
      (∀ p n, names (s.lumEntry p n) m.src → t.lumEntry p n = entryTo (s.lumEntry p n) 0 m.dst) ∧
      ((∀ c ∈ s.homedOn m.src, c ∈ s.inUnit m.src) → ∀ off, off < 2 ^ 20 → memGet t.mem (unitLoc m.dst off) = memGet s.mem (unitLoc m.src off))) ∧
  (∀ (s : State) (m : Mig), s.acreOn = false → s.pendingMig s.arg.n0 = some m → (m.kind = 3 ∨ ∀ c ∈ s.pointBound m.src, (s.dirE c).arrived = true) →
    exec .migrationHonour s = .next s.wakeAcre) ∧
  (∀ (s : State) (d : BitVec 5), canName s d → let q := begun s (.migpt d)
    ((s.dirE s.cur).migptDone = true → exec (.migpt d) s =
      .next ((written (q.modDir s.cur (fun e => { e with migptDone := false })) d 1).retire false)) ∧
    ((s.dirE s.cur).migptDone = false → s.migPending (s.unitOf s.cur) = 0 → exec (.migpt d) s = .next ((written q d 0).retire false)) ∧
    ((s.dirE s.cur).migptDone = false → s.migPending (s.unitOf s.cur) ≠ 0 → exec (.migpt d) s = .next (
      if (s.ctx s.cur).task.active = true then trapped s (.migpt d) 0x18
      else (q.modDir s.cur (fun e => { e with arrived := true, arrRd := d.toNat })).parkCtx wMigrate false)) ∧
    exec (.migptBind d) s = .next ((written ((begun s (.migptBind d)).modDir s.cur (fun e => { e with bound := true })) d
      (if (s.dirE s.cur).bound then 1 else 0)).retire false) ∧
    exec (.migptFree d) s = .next ((written ((begun s (.migptFree d)).modDir s.cur (fun e => { e with bound := false })) d
      (if (s.dirE s.cur).bound then 1 else 0)).retire false)) ∧
  (∀ (s : State) (d a : BitVec 5) (m : BitVec 1), canRead s a → canName s d → (regVal s a).toNat % 64 = 0 → s.relOk s.cur = true →
    let u := s.unitOf s.cur
    let p := (s.dirE s.cur).part
    let room := (s.part p).launchQ.length < 16
    (m = 1 → isCroft u = false → exec (.casc d a m) s = .next (trapped s (.casc d a m) 0x07)) ∧
    (m = 0 ∨ (isCroft u = true ∧ (s.cascTo u = none ∨ ∃ v, s.cascTo u = some v ∧ s.migOk u v = false)) → ∃ t, exec (.casc d a m) s = .next t ∧ t.mem = s.mem ∧
      (d.toNat ≠ 0 → (t.ctx s.cur).s d.toNat = BitVec.ofNat 64 (s.island.st + if regVal s a ≠ 0 ∧ room then 256 else 0)) ∧
      (t.part p).launchQ = (s.part p).launchQ ++ (if regVal s a ≠ 0 ∧ room then [{ addr := regVal s a, sup := (s.ctx s.cur).sup, asn := (s.ctx s.cur).asn }] else []) ∧
      (s.island.st ≠ 0 → t.island.request = true)) ∧
    (∀ v, m = 1 → s.cascTo u = some v → s.migOk u v = true → ∃ t, exec (.casc d a m) s = .next t ∧
      (d.toNat ≠ 0 → (t.ctx s.cur).s d.toNat = BitVec.ofNat 64 (s.island.st + (if regVal s a ≠ 0 ∧ room then 256 else 0) + 512)) ∧
      t.migs = s.migs ++ [{ src := u, dst := v, kind := 1, raised := s.time, reg := false }]))

/-- R209, R305, R309, R213, R123: a store is performed at its home: its bytes and no others change, its word becomes full if it
says so, its granule's V clears, and it leaves the buffer. -/
def Obligations.StorePerformWritesOnlyItsBytes : Prop :=
  ∀ (s : State) (u n : Nat) (e : Store) (p : Piece), s.arg.n0 = u → s.arg.n1 = n → performable s u n e p → noneWaits s p.loc p.n →
    Memory.wf s.mem = true →
    ∃ t, exec .storePerform s = .next t ∧ leVal t.mem p.loc p.n = p.data % 2 ^ (8 * p.n) ∧ onlyAt s.mem t.mem p.loc p.n ∧
      (t.unit u).sb = (s.unit u).sb.filter (fun f => f.id != e.id) ∧ (e.setFull = true → t.feAt p.loc = true) ∧
      (∀ a, a / 8 ≠ p.loc / 8 ∨ e.setFull = false → t.feAt a = s.feAt a) ∧
      (e.keepTag = false → isPad p.loc = true → bit (t.tagAt p.loc) 5 = false) ∧ (∀ c r, (t.ctx c).s r = (s.ctx c).s r)

/-- R210 to R212, R214: a store finds its home or fails, a failed one becomes a record, a queued load's data arrive, a refused
access comes to its home again. -/
def Obligations.PendingAccessesProceed : Prop :=
  (∀ (s t : State) (u n : Nat) (e : Store) (p : Piece), s.arg.n0 = u → s.arg.n1 = n → u < 260 → (s.unit u).sb[n]? = some e → e.rs = 0 →
    e.pieces = [p] →
    (∀ loc, s.resolve (s.whoIs e.ctx) p.va (if e.setFull then accFW else accW) false = (.ok loc, t) → isRegBlock loc = false →
      exec .storeResolve s = .next (t.putStore u { e with rs := 1, pieces := [{ p with loc := loc }] })) ∧
    (∀ c lv, s.resolve (s.whoIs e.ctx) p.va (if e.setFull then accFW else accW) false = (.fault c lv, t) →
      exec .storeResolve s = .next (t.putStore u { e with rs := 2, cause := c, level := lv, fva := p.va })) ∧
    (∀ loc, s.resolve (s.whoIs e.ctx) p.va (if e.setFull then accFW else accW) false = (.ok loc, t) → isRegBlock loc = true → e.mayReg = false →
      exec .storeResolve s = .next (t.putStore u { e with rs := 2, cause := 0x05, level := 7, fva := p.va })) ∧
    (∀ loc, s.resolve (s.whoIs e.ctx) p.va (if e.setFull then accFW else accW) false = (.ok loc, t) → isRegBlock loc = true → e.mayReg = true →
      exec .storeResolve s = .next (t.putStore u { e with rs := 1, pieces := [{ p with loc := loc }], rel := true, ar := true, sc := 3 })) ∧
    (s.resolve (s.whoIs e.ctx) p.va (if e.setFull then accFW else accW) false = (.miss, t) →
      (t.misses.filter (fun m => !m.walking && m.units.any (fun v => clusterOf v == clusterOf (s.unitOf e.ctx)))).length < 64 →
      ∃ t', exec .storeResolve s = .next t' ∧ t'.mem = t.mem ∧ (t'.unit u).sb = (t.unit u).sb.map (fun f => if f.id = e.id then e else f) ∧
        ∃ m ∈ t'.misses, m.part = (s.dirE e.ctx).part ∧ m.asn = (s.ctx e.ctx).asn ∧ m.vpn = p.va.toNat / 4096 ∧ m.failed = none ∧
          (s.unitOf e.ctx ∈ m.units))) ∧
  (∀ (s : State) (u n k : Nat) (e : Store), s.arg.n0 = u → s.arg.n1 = n → u < 260 → (s.unit u).sb[n]? = some e → e.rs = 2 → e.ctx < 65536 →
    (s.dirE e.ctx).st = 1 → (s.dirE e.ctx).place = .slot u k → (s.unit u).sfq.length < 16 →
    ∃ t, exec .storeFaultRecord s = .next t ∧ (t.unit u).sb = (s.unit u).sb.filter (fun f => f.id != e.id) ∧ t.mem = s.mem ∧
      let data : Word := if e.size < 4 then BitVec.ofNat 64 ((e.pieces.head?.map (·.data)).getD 0) else 0
      let r : Rec := { ctx := e.ctx, cause := 0x10, kind := 1, orig := e.cause, size := e.size, level := e.level, pc := e.pc, addr := e.fva, inH := e.inH, data := data, no := e.id }
      (t.unit u).sfq = (s.unit u).sfq ++ [r]) ∧
  (∀ (s : State) (c n : Nat) (e : LdqEnt), s.arg.n0 = c → s.arg.n1 = n → (s.dirE c).st = 1 → mfind s.ctxs c ≠ none → s.powered (s.unitOf c) = true →
    (mget (s.ctx c).ports n {}).ldq.find? (fun e => !e.arrived) = some e → (isAcrePad e.loc = true → isCroft (s.unitOf c) = true → s.acreOn = true) →
    e.loc % 8 = 0 → (∀ f ∈ (s.unit (s.unitOf c)).sb, f.ctx ≠ c ∧ (f.id ∈ (s.dirE c).sibRead → f.meets e.loc 8 = false)) →
    s.meshOpen (s.unitOf c) e.loc e.id = true → (isRemote (s.unitOf c) e.loc = true → s.pathClear (homeUnit (s.unitOf c) e.loc) (s.unitOf c) true = true) →
    (∀ f ∈ (s.dirE c).fenced, s.pendingBefore c f.2 = false) → s.cutOff (s.unitOf c) e.loc = false → sound s e.loc 8 →
    (isDram e.loc = true → (mget s.chans (chanOf e.loc) {}).st = 0) →
    ∃ t, exec .ldqEntryArrival s = .next t ∧ t.mem = s.mem ∧ (mget (t.ctx c).ports n {}).ldq = (mget (s.ctx c).ports n {}).ldq.map (fun f =>
      if f.id = e.id then { e with arrived := true, val := BitVec.ofNat 64 (leVal s.mem e.loc 8) } else f)) ∧
  (∀ (s x : State) (w : WaitEnt) (n : Nat) (y : Word), s.waits[s.arg.n0]? = some w → w.refused = true → w.watch = false →
    (s.acreOn = true ∨ isAcrePad w.req.loc = false) → let home := ({ s with waits := ldel s.waits s.arg.n0 } : State).atHome (s.reqUnit w.req) w.req
    (home = .done x y → exec .waitEntryRetry s = .next (x.finishReq (match w.req.op with | .stef => { w.req with rd := 0 } | _ => w.req) y)) ∧
    (home = .cause x n → exec .waitEntryRetry s = .next (x.trapReq w.req (w.req.trap n))) ∧
    (home = .wait x → ∃ t, exec .waitEntryRetry s = .next t ∧ t.mem = x.mem ∧ t.waits = x.waits ++ [{ req := w.req, refused := decide ((waitHome w.req.loc).2 ≤ (x.waits.filter (fun e => (waitHome e.req.loc).1 == (waitHome w.req.loc).1 && !e.refused && !e.watch)).length) }]))

/-- R19, R114, R384, R422, R423: accesses that cross the mesh, a packet the bridge holds, links that fail, and linked devices'
accesses. Which management core records a failure is log 42; which unit answers for a shared scratchpad is log 50. -/
def Obligations.MeshAndLinks : Prop :=
  (∀ (s : State) (p : Pkt) (r : MemReq) (n : Nat) (sg : Bool), accessAt s p r → r.op = .load n sg → 1 ≤ n → n ≤ 8 → r.ctx < 65536 → sound s r.loc n →
    ∃ t, exec .remoteWindowAccess s = .next t ∧ t.pkts = ldel s.pkts s.arg.n0 ∧ t.mem = s.mem ∧ (t.ctx r.ctx).pc = (s.ctx r.ctx).pc + 4 ∧
      (r.rd ≠ 0 → (t.ctx r.ctx).s r.rd = if sg = true then signedVal n (leVal s.mem r.loc n) else BitVec.ofNat 64 (leVal s.mem r.loc n)) ∧
      (∀ i, i ≠ r.rd → (t.ctx r.ctx).s i = (s.ctx r.ctx).s i)) ∧
  (∀ (s : State) (p : Pkt) (r : MemReq) (n : Nat), accessAt s p r → r.op = .elem n → 1 ≤ n → n ≤ 8 → r.ctx < 65536 → sound s r.loc n →
    ∃ t, exec .remoteWindowAccess s = .next t ∧ t.pkts = ldel s.pkts s.arg.n0 ∧ t.mem = s.mem ∧ (t.ctx r.ctx).wait = none ∧
      (t.ctx r.ctx).got = (s.ctx r.ctx).got ++ [{ loc := r.loc, n := n, val := BitVec.ofNat 64 (leVal s.mem r.loc n) }] ∧
      (t.ctx r.ctx).pc = (s.ctx r.ctx).pc ∧ (∀ i, (t.ctx r.ctx).s i = (s.ctx r.ctx).s i)) ∧
  (∀ (s : State) (p : Pkt), atBridge s s.arg.n0 p → exec .bridgeHold s =
    .next (({ s with ids := s.ids + 1, pkts := lset s.pkts s.arg.n0 { p with held := true, heldAt := s.ids + 1 } } : State).wakeAcre)) ∧
  (∀ (s : State) (a b : Nat), s.arg.n0 = a → s.arg.n1 = b → a < 260 → b < 260 → (∃ d, d < 4 ∧ neighbour a d = some b) → (min a b, max a b) ∉ s.badLinks →
    ∃ t, exec .meshLinkFailure s = .next t ∧ t.badLinks = s.badLinks ++ [(min a b, max a b)] ∧ t.mem = s.mem ∧
      ∃ e, (e ∈ (t.cluster (clusterOf a)).mbox ∨ e ∈ (t.cluster (clusterOf a)).waiting) ∧ (e.words.getD 0 0).toNat % 128 = 0x46 ∧ e.unit = none) ∧
  (∀ s : State, s.arg.n0 < 4 → bit s.linkcfg (16 + s.arg.n0) = true → ∃ t, exec .linkPortFailure s = .next t ∧ bit t.linkcfg (16 + s.arg.n0) = false ∧
    (∀ i, i ≠ 16 + s.arg.n0 → bit t.linkcfg i = bit s.linkcfg i) ∧ t.mem = s.mem ∧
    ∃ e, (e ∈ (t.cluster 16).mbox ∨ e ∈ (t.cluster 16).waiting) ∧ (e.words.getD 0 0).toNat % 128 = 0x46 ∧ e.unit = none) ∧
  (∀ s : State, let d := s.arg.n0
    let pa := s.arg.n1
    let n := s.arg.n2
    d < 8 → d ≠ s.linkcfg.toNat % 8 → s.power = true → bit s.linkcfg (8 + d) = true → (n = 1 ∨ n = 2 ∨ n = 4 ∨ n = 8) → pa % n = 0 →
    populated (pa + n - 1) = true → (mget s.chans (chanOf pa) {}).st = 0 → sound s pa n →
    (s.arg.op = .read → exec .apertureAccess s =
      .next { s.touch pa with reply := toBytes n (BitVec.ofNat 64 (leVal s.mem pa n) : Word).toNat, replyBad := false }) ∧
    (s.arg.op = .write → Memory.wf s.mem = true → ∃ t, exec .apertureAccess s = .next t ∧ leVal t.mem pa n = s.arg.v.toNat % 2 ^ (8 * n) ∧
      onlyAt s.mem t.mem pa n ∧ t.fe = s.fe ∧ t.replyBad = false))

/-- R39 to R42, R117: a channel's states, and the scrubber's corrections. That PASR is read at the exit is log 49; that what
partial self-refresh loses reads as an uncorrectable error is log 20. -/
def Obligations.ChannelsAndScrubbing : Prop :=
  (∀ s : State, s.arg.n0 < 32 → let c := mget s.chans s.arg.n0 {}
    (c.want = false → exec .dramChannelExit s = .next s) ∧
    (c.want = true → (c.st = 1 ∨ (c.st = 2 ∧ s.mempwr.toNat / 2 ^ 24 % 2 ^ 8 = 0)) →
      exec .dramChannelExit s = .next { s with chans := mset s.chans s.arg.n0 { st := 0, idle := s.time, want := false } }) ∧
    (c.want = true → c.st = 2 → ∃ t, exec .dramChannelExit s = .next t ∧ ∀ a, isDram a = true → chanOf a = s.arg.n0 → bit s.mempwr (24 + segOf a) = true → t.errAt a = 2) ∧
    (c.st = 0 → s.mempwr.toNat / 2 ^ 8 % 2 ^ 8 ≠ 0 → c.idle + s.mempwr.toNat / 2 ^ 8 % 2 ^ 8 * 16 ≤ s.time →
      exec .channelPowerDownEntry s = .next { s with chans := mset s.chans s.arg.n0 { c with st := 1 } }) ∧
    (c.st < 2 → s.island.st = 0 → bit s.mempwr 0 = true → s.mempwr.toNat / 2 ^ 16 % 2 ^ 8 ≠ 0 →
      c.idle + s.mempwr.toNat / 2 ^ 16 % 2 ^ 8 * 1000 ≤ s.time →
      exec .channelSelfRefreshEntry s = .next { s with chans := mset s.chans s.arg.n0 { c with st := 2 } })) ∧
  (∀ s : State, let a := s.arg.n0
    isUnitPad a = true → bit (s.unit (padUnit a)).segOn (a % 2 ^ 20 / 0x10000) = true → (isAcrePad a = true → s.acreOn = true) →
    (isAcrePad a = false → s.island.standby = false) → mget s.tagErr (a / 1024) 0 = 0 →
    (s.errAt a = 0 → exec .patrolScrub s = .next s) ∧
    (s.errAt a = 1 → ∃ t, exec .patrolScrub s = .next t ∧ t.mem = s.mem ∧ t.errAt a = 0 ∧
      ∃ e, (e ∈ (t.cluster (clusterOf (padUnit a))).mbox ∨ e ∈ (t.cluster (clusterOf (padUnit a))).waiting) ∧
        (e.words.getD 0 0).toNat % 128 = 0x40 ∧ e.words.getD 2 0 = BitVec.ofNat 64 a))

/-- R55 to R58, R416: the host's reads and writes of device memory and of registers, and the sharing map. That a read of a
private region gives what the device wrote last is log 65. -/
def Obligations.HostAccesses : Prop :=
  (∀ s : State, let a := s.arg.n0
    let n := s.arg.n1
    s.power = true → s.bootStage = 5 → s.bootErr = 0 → 1 ≤ n → n ≤ 4096 → isRegBlock a = false → populated (a + n - 1) = true →
    (∀ i, i < n + 128 → (mget s.chans (chanOf (a / 64 * 64 + i)) {}).st = 0 ∧ s.errAt (a / 64 * 64 + i) = 0) →
    ∃ t, exec .hostRead s = .next t ∧ ofBytes t.reply = leVal s.mem a n ∧ t.reply.length = n ∧ t.replyBad = false ∧ t.mem = s.mem ∧ t.ctxs = s.ctxs) ∧
  (∀ s : State, let a := s.arg.n0
    s.power = true → s.bootStage = 5 → s.bootErr = 0 → isRegBlock a = true → a % 8 = 0 →
    (s.arg.n1 = 8 → errcntAt (a - 0x7F0001000000) = none → exec .hostRead s = .next { s with reply := toBytes 8 (s.regRead a).toNat, replyBad := false }) ∧
    (s.arg.data.length = 8 → exec .hostWrite s = .next (s.regWrite a (BitVec.ofNat 64 (ofBytes s.arg.data))))) ∧
  (∀ s : State, let a := s.arg.n0
    let n := s.arg.data.length
    s.power = true → s.bootStage = 5 → s.bootErr = 0 → 1 ≤ n → isRegBlock a = false → populated (a + n - 1) = true → Memory.wf s.mem = true → noneWaits s a n →
    (∀ ch, (mget s.chans ch {}).st = 0) → s.partBad a n = [] →
    ∃ t, exec .hostWrite s = .next t ∧ leVal t.mem a n = ofBytes s.arg.data ∧ onlyAt s.mem t.mem a n ∧
      (∀ b, a ≤ b → b < a + n → t.feAt b = true) ∧ t.ctxs = s.ctxs) ∧
  (∀ (s : State) (i : Nat), 0x10000 ≤ s.arg.n0 → s.arg.n0 < 0x14000 → s.arg.n0 % 8 = 0 → i < 64 →
    let r := (s.arg.n0 - 0x10000) * 8 + i
    s.bootErr = 0 → populated (r * 0x200000) = true →
    ∃ t, exec .sharingMapWrite s = .next t ∧ (bit s.arg.v i = true → r ∈ t.sharing ∧ r ∉ t.sharingClear) ∧
      (bit s.arg.v i = false → (∀ l ∈ s.hostLines, l / 0x8000 ≠ r) → r ∉ t.sharing) ∧
      (bit s.arg.v i = false → (∃ l ∈ s.hostLines, l / 0x8000 = r) → r ∈ s.sharing → r ∈ t.sharing ∧ r ∈ t.sharingClear)) ∧
  (∀ s : State, s.sharingClear ≠ [] → ∃ t, exec .sharingMapClearDone s = .next t ∧ t.sharingClear = [] ∧ t.mem = s.mem ∧
    (∀ r ∈ s.sharingClear, r ∉ t.sharing ∧ ∀ l ∈ t.hostLines, l / 0x8000 ≠ r) ∧ ∀ r, r ∉ s.sharingClear → (r ∈ t.sharing ↔ r ∈ s.sharing))

/-- R27, R52 to R54, R177, R385: walks, invalidations, the logical unit map and the capability key. That a walk is one step is
log 11. -/
def Obligations.TranslationMaintained : Prop :=
  (∀ (s : State) (m : Miss), s.arg.n0 < 17 → s.misses.find? (fun m => !m.walking && m.failed.isNone && m.units.any (fun u => clusterOf u == s.arg.n0)) = some m →
    (s.misses.filter (fun x => x.walking && x.croft == m.croft)).length < (if m.croft then 4 else 64) →
    (s.arg.n0 = 16 ∨ ∃ i, i < 16 ∧ (s.walkLast + 1 + i) % 16 = s.arg.n0 ∧ ∀ j, j < i → s.missFrom ((s.walkLast + 1 + j) % 16) = none) →
    exec .tlbMissWalkStart s = .next { s with walkLast := (if s.arg.n0 = 16 then s.walkLast else s.arg.n0), misses := s.misses.map (fun x => if x = m then { x with walking := true } else x) }) ∧
  (∀ (s : State) (m : Miss), s.misses[s.arg.n0]? = some m → m.walking = true →
    (∀ l u q, m.units = [u] → m.failed = none → s.walk u m.part m.asn (m.vpn * 4096) = (.fail l, q) → m.ctxs ≠ [] →
      ∃ t, exec .walkComplete s = .next t ∧ { m with walking := false, failed := some l } ∈ t.misses ∧ t.mem = q.mem) ∧
    (∀ l pte pa u q, m.units = [u] → m.failed = none → s.walk u m.part m.asn (m.vpn * 4096) = (.leaf l pte pa, q) →
      ∃ t, exec .walkComplete s = .next t ∧ m ∉ t.misses ∧
        { part := m.part, asn := m.asn, level := l, vpn := m.vpn * 4096 / 2 ^ levelShift l, pte := putBit pte 5 true, ptePa := pa } ∈ (t.unit u).tlb)) ∧
  (∀ s : State, s.bootErr = 0 → s.arg.n0 < 16 → bit (s.part s.arg.n0).xltinv 63 = false →
    let p := s.arg.n0
    let clean := fun (t : State) (f : TlbEnt → Prop) => bit (t.part p).xltinv 63 = true ∧ t.mem = s.mem ∧
      (∀ x ∈ t.units, ∀ e ∈ x.2.tlb, ¬(e.part = p ∧ f e)) ∧ (∀ x ∈ t.clusters, ∀ e ∈ x.2.tlb, ¬(e.part = p ∧ f e)) ∧
      (∀ u e, e ∈ (s.unit u).tlb → ¬(e.part = p ∧ f e) → e ∈ (t.unit u).tlb) ∧ (∀ e ∈ t.walkAcre ++ t.walkCroft, e.part ≠ p)
    let asn := s.arg.n1 % 4096
    let page := fun (e : TlbEnt) => e.vpn = (s.part p).xltva.toNat / 2 ^ levelShift e.level
    (∃ t, exec .xltinvPartition s = .next t ∧ clean t (fun _ => True)) ∧
    (∃ t, exec .xltinvAsn s = .next t ∧ clean t (fun e => e.asn = asn ∧ bit e.pte 7 = false)) ∧
    (∃ t, exec .xltinvAsnPage s = .next t ∧ clean t (fun e => e.asn = asn ∧ bit e.pte 7 = false ∧ page e)) ∧
    (∃ t, exec .xltinvPageAllAsn s = .next t ∧ clean t page) ∧
    (∃ t, exec .xltinvWalkCaches s = .next t ∧ clean t (fun _ => False))) ∧
  (∀ s : State, s.arg.n0 < 16 → bit (s.part s.arg.n0).xltinv 63 = true → s.oldAccesses s.arg.n0 = false →
    exec .xltinvDone s = .next (s.modPart s.arg.n0 (fun x => { x with xltinv := BitVec.ofNat 64 (x.xltinv.toNat % 2 ^ 63) }))) ∧
  (∀ s : State, s.bootErr = 0 → s.arg.n0 < 16 → s.arg.n1 < 512 →
    let p := s.arg.n0
    let n := s.arg.n1
    let old := s.lumEntry p n
    let new : BitVec 32 := s.arg.v.setWidth 32 &&& 0xE00001FF
    ((old.toNat / 2 ^ 29 % 4 = 1 ∨ (bit old 31 = true ∧ s.heldBy p n ≠ [] ∧ (bit new 31 = false ∨ (old.toNat / 2 ^ 29 % 4 = 0 ∧ new.toNat % 512 ≠ old.toNat % 512)))) →
      exec .lumWrite s = .next s) ∧
    (old.toNat / 2 ^ 29 % 4 ≠ 1 → s.heldBy p n = [] → ∃ t, exec .lumWrite s = .next t ∧ t.lumEntry p n = new ∧ t.mem = s.mem ∧ t.ctxs = s.ctxs ∧
      (∀ q j, q ≠ p ∨ j ≠ n → t.lumEntry q j = s.lumEntry q j))) ∧
  (∀ s : State, s.bootErr = 0 → s.arg.n0 < 16 →
    exec .capkeyStageLow s = .next (s.modPart s.arg.n0 (fun x => { x with keyLow := some s.arg.v })) ∧
    (∀ low, (s.part s.arg.n0).keyLow = some low → exec .capkeyCommit s = .next (s.modPart s.arg.n0 (fun x =>
      { x with key := BitVec.ofNat 128 (s.arg.v.toNat * 2 ^ 64 + low.toNat), keyLow := none }))))

/-- R7, R36, R37, R46, R53, R329, R334, R356, R392, R401, R402, R408, R414, R420: what a write of each of these registers
changes. That a write to an offset nothing defines (0x900) changes nothing is the model's choice, log 17; that a command
ISLCTL does not list makes it ignore the whole write is read in log 64. -/
def Obligations.RegisterWrites : Prop :=
  (∀ s : State, s.power = true → s.bootErr = 0 → s.arg.n0 < 16 → let p := s.arg.n0
    let v := s.arg.v
    (s.arg.n1 = 0x400 → exec .registerWrite s = .next (s.modPart p (fun x => { x with astBase := v }))) ∧
    (s.arg.n1 = 0x408 → exec .registerWrite s = .next (s.modPart p (fun x => { x with xltva := BitVec.ofNat 64 (v.toNat / 4096 * 4096) }))) ∧
    (s.arg.n1 = 0x810 → exec .registerWrite s = .next (s.modPart p (fun x => { x with methBase := BitVec.ofNat 64 (v.toNat / 32 * 32) }))) ∧
    (s.arg.n1 = 0x818 → exec .registerWrite s = .next (s.modPart p (fun x => { x with methCnt := v.toNat % 2 ^ 16 }))) ∧
    (s.arg.n1 = 0x808 → exec .registerWrite s = .next (s.modPart p (fun x => { x with lOvf := x.lOvf && !bit v 1, lFail := x.lFail && !bit v 0 }))) ∧
    (s.arg.n1 = 0x900 → exec .registerWrite s = .next s)) ∧
  (∀ s : State, s.power = true → s.bootErr = 0 → s.arg.n0 = 16 → let v := s.arg.v
    (∀ p, p < 16 → s.arg.n1 = 0x210000 + 8 * p → exec .registerWrite s = .next (s.modPart p (fun x => { x with budget := v }))) ∧
    (∀ u, u < 256 → s.arg.n1 = 0x200008 + 0x40 * u →
      exec .registerWrite s = .next (s.modUnit u (fun x => { x with slotcfg := BitVec.ofNat 64 (v.toNat % 2 ^ 56) }))) ∧
    (∀ k, k < 4 → s.arg.n1 = 0x240600 + 8 * k → exec .registerWrite s = .next { s with cascDst := mset s.cascDst k (v &&& 0x80000000000001FF) }) ∧
    (s.arg.n1 = 0x240300 → exec .registerWrite s = .next (if v.toNat / 2 ^ 32 % 4 = 3 then s else { s with slew := v &&& 0x300FFFFFF })) ∧
    (s.arg.n1 = 0x240000 → let cmd := v.toNat / 2 ^ 60 % 8
      ((cmd = 0 ∨ 4 ≤ cmd) → exec .registerWrite s = .next s) ∧
      (1 ≤ cmd → cmd ≤ 3 → bit v 63 = false → exec .registerWrite s = .next { s with island := { s.island with
        cmd := cmd, offIdle := v.toNat / 2 ^ 32 % 2 ^ 16, retIdle := v.toNat / 2 ^ 16 % 2 ^ 16, auto := bit v 15, ref := s.island.ref && !bit v 7 } }) ∧
      (cmd = 1 → bit v 63 = true → exec .registerWrite s = exec .islctlWake s) ∧
      (cmd = 2 → bit v 63 = true → exec .registerWrite s = exec .islctlRetention s) ∧
      (cmd = 3 → bit v 63 = true → exec .registerWrite s = exec .islctlOff s)) ∧
    (s.arg.n1 = 0x240308 → exec .registerWrite s = .next { s with phase0 := v }) ∧
    (s.arg.n1 = 0x240310 → exec .registerWrite s = .next { s with phase1 := v }) ∧
    (s.arg.n1 = 0x240508 → exec .registerWrite s = .next { s with migTmo := v.toNat % 2 ^ 32 }) ∧
    (s.arg.n1 = 0x260008 → exec .registerWrite s = .next { s with lroute := BitVec.ofNat 64 (v.toNat % 2 ^ 32) }) ∧
    (s.arg.n1 = 0x240400 → exec .registerWrite s = .next (
      if 96 ≤ v.toNat / 2 ^ 16 % 256 ∧ v.toNat / 2 ^ 16 % 256 ≤ 108 ∧ 80 ≤ v.toNat % 256 ∧ v.toNat % 256 ≤ 100 ∧ v.toNat % 256 ≤ v.toNat / 2 ^ 8 % 256 ∧
        v.toNat / 2 ^ 8 % 256 < v.toNat / 2 ^ 16 % 256 then { s with therm := BitVec.ofNat 64 (v.toNat % 2 ^ 24) } else s)))

/-- R390 to R396: ISLCTL's commands, the automatic ones, entry, wake, gated units and Croft's standby. Which commands ISLCTL
refuses while it changes state is read from the words in log 34. -/
def Obligations.IslandStates : Prop :=
  (∀ s : State, s.bootErr = 0 → let w := ctlWritten s s.arg.v 1
    (s.island.st = 0 → exec .islctlWake s = .next { s with island := ctlEnded w }) ∧
    ((s.island.st = 1 ∨ s.island.st = 2 ∨ s.island.st = 3) → s.island.inh = false → s.island.emergency = false → ∃ t, exec .islctlWake s = .next t ∧
      t.island.st = 3 ∧ t.island.to_ = 0 ∧ t.island.busy = true ∧ t.island.request = true ∧ t.mem = s.mem) ∧
    (s.island.st ≠ 0 → (s.island.inh = true ∨ s.island.emergency = true) → ∃ t, exec .islctlWake s = .next t ∧
      t.island.st = s.island.st ∧ t.island.to_ = s.island.to_ ∧ t.island.busy = true ∧ t.island.request = true ∧ t.mem = s.mem)) ∧
  (∀ s : State, s.bootErr = 0 → let w := ctlWritten s s.arg.v 2
    let migrates := ∃ m ∈ s.migs, isCroft m.src = false ∨ isCroft m.dst = false
    (migrates → exec .islctlRetention s = .next (ctlRefused s)) ∧
    (¬migrates → s.island.st = 0 → exec .islctlRetention s = .next { s with island := goesDown w s.time 1 true }) ∧
    (¬migrates → s.island.st = 1 → exec .islctlRetention s = .next { s with island := ctlEnded w }) ∧
    ((s.island.st = 2 ∨ s.island.st = 3) → exec .islctlRetention s = .next (ctlRefused s))) ∧
  (∀ s : State, s.bootErr = 0 → let w := ctlWritten s s.arg.v 3
    let migrates := ∃ m ∈ s.migs, isCroft m.src = false ∨ isCroft m.dst = false
    (migrates → exec .islctlOff s = .next (ctlRefused s)) ∧
    (¬migrates → (s.island.st = 0 ∨ s.island.st = 1) → s.offBlocked = true → exec .islctlOff s = .next (ctlRefused s)) ∧
    (¬migrates → (s.island.st = 0 ∨ s.island.st = 1) → s.offBlocked = false → exec .islctlOff s = .next { s with island := goesDown w s.time 2 true }) ∧
    (¬migrates → s.island.st = 2 → exec .islctlOff s = .next { s with island := ctlEnded w }) ∧
    (s.island.st = 3 → exec .islctlOff s = .next (ctlRefused s))) ∧
  (∀ s : State, let i := s.island
    i.auto = true → i.request = false → (∀ m ∈ s.migs, isCroft m.src = true ∧ isCroft m.dst = true) →
    (i.st = 0 → i.lastActive + i.retIdle * 1000 ≤ s.time → s.acreUnits.any (fun (e : Nat × UnitSt) => e.2.cmds.any (·.started)) = false →
      exec .acreAutoRetention s = .next { s with island := goesDown i s.time 1 false }) ∧
    (i.st = 1 → i.offIdle ≠ 0 → i.since + i.offIdle * 1000000 ≤ s.time → s.offBlocked = false →
      exec .acreAutoOff s = .next { s with island := goesDown i s.time 2 false })) ∧
  (∀ s : State, let i := s.island
    i.st = 3 → s.acreHolds = false → (i.emergency = true ∨ s.acreBusy = false) →
    (i.to_ = 1 → ∃ t, exec .acreEntryDone s = .next t ∧ t.island = { i with st := 1, busy := false, since := s.time } ∧ noAcreTlb t ∧ t.mem = s.mem) ∧
    (i.to_ = 2 → i.emergency = false → s.offBlocked = true →
      exec .acreEntryDone s = .next { s with island := { i with st := i.from_, busy := false, ref := i.ref || i.busy } }) ∧
    (i.to_ = 2 → (i.emergency = true ∨ s.offBlocked = false) → (i.request = false ∨ i.inh = true) → ∃ t, exec .acreEntryDone s = .next t ∧
      t.island = { i with st := 2, busy := i.busy && i.waking, emergency := false, since := s.time } ∧ noAcreTlb t ∧
      (Memory.wf s.mem = true → ∀ a, (isAcrePad a = true → memGet t.mem a = 0) ∧ (isAcrePad a = false → memGet t.mem a = memGet s.mem a)))) ∧
  (∀ s : State, s.island.st = 3 → s.island.to_ = 0 → s.island.inh = false → s.island.emergency = false →
    ∃ t, exec .acreWakeDone s = .next t ∧ t.island.st = 0 ∧ t.island.busy = false ∧ t.island.request = false ∧ t.pkts = s.pkts ∧
      t.retRec = s.retRec ∧ t.retTell = [] ∧ ∀ c u, s.retTell = [(c, u)] → c ∈ s.retRec →
        ∃ e, (e ∈ (t.cluster (clusterOf u)).mbox ∨ e ∈ (t.cluster (clusterOf u)).waiting) ∧ (e.words.getD 0 0).toNat % 128 = 0x48 ∧ e.unit = some u) ∧
  (∀ (s : State) (u : Nat), s.arg.n0 = u → u < 260 → let x := s.unit u
    (s.powered u = true → s.homedOn u = [] → x.cmds = [] → x.sb = [] → x.rcq = [] → x.mbox = [] → x.slots = [] → x.tcc = [] →
      (∀ m ∈ s.migs, m.src ≠ u ∧ m.dst ≠ u) → ∃ t, exec .unitPowerGate s = .next t ∧ (t.unit u).gated = true ∧ (t.unit u).bars = x.bars ∧ (t.unit u).bt = x.bt ∧
        (t.unit u).rings = x.rings ∧ (t.unit u).rxq = x.rxq ∧ ∀ v, v ≠ u → t.unit v = s.unit v) ∧
    (x.gated = true → (isCroft u = true ∨ s.acreOn = true) → ∃ t, exec .unitWake s = .next t ∧ (t.unit u).gated = false)) ∧
  (∀ s : State, s.power = true → s.island.standby = false → s.island.stbyIdle ≠ 0 → s.island.croftActive + s.island.stbyIdle * 1000 ≤ s.time →
    s.croftCalled = false → s.units.any (fun (e : Nat × UnitSt) => isCroft e.1 && e.2.cmds.any (·.started)) = false →
    exec .croftStandbyEntry s = .next { s with island := { s.island with standby := true } }) ∧
  (∀ s : State, s.island.standby = true → s.croftCalled = true →
    exec .croftWake s = .next { s with island := { s.island with standby := false, croftActive := s.time } })

/-- R397 to R405: pulse counts, lending and recall, throttling, thermal requests, the emergency save and the trips. That a
count applies at once is log 38; what a trip leaves of requests, and that the shadow store and the reserve are lost with the
slots, is log 21. -/
def Obligations.PulsesAndHeat : Prop :=
  (∀ s : State, s.bootErr = 0 → s.arg.n0 < 16 → let k := s.arg.v.toNat % 32
    ((k = 0 ∨ 16 < k) → exec .pspatWrite s = .next s) ∧
    (1 ≤ k → k ≤ 16 → exec .pspatWrite s = .next (s.modCluster s.arg.n0 (fun x => { x with kreq := k, k := min k (min x.kgrant x.ktherm) })))) ∧
  (∀ s : State, s.time / 1024 ≠ s.lent → (∀ c, c < 16 → (s.cluster c).lst ≠ 3 ∧ lenderActive s c = false) →
    ∃ t, exec .lendingPeriod s = .next t ∧ t.lent = s.time / 1024 ∧ ∀ c, c < 16 → granted s t s.lendState c) ∧
  (∀ s : State, s.time / 1024 ≠ s.lent → ∃ t, exec .lendingPeriod s = .next t ∧ t.lent = s.time / 1024 ∧ t.mem = s.mem ∧
    ∀ c, c < 16 → ((s.cluster c).lst = 3 ∨ lenderActive s c = true) → recalled t c) ∧
  (∀ s : State, s.arg.n0 < 16 → let c := s.arg.n0
    (∀ d, d < 16 → d ≠ c → (s.cluster d).lst ≠ 3) →
    (lenderActive s c = true → ∃ t, exec .lenderRecall s = .next t ∧ t.mem = s.mem ∧ recalled t c ∧
      ∀ d, d < 16 → d ≠ c → granted s t (fun e => if e = c then 0 else (s.cluster e).lst) d) ∧
    ((s.cluster c).lst = 3 → ∃ t, exec .recallComplete s = .next t ∧ t.mem = s.mem ∧
      ∀ d, d < 16 → granted s t (fun e => if e = c then 0 else (s.cluster e).lst) d)) ∧
  (∀ s : State, s.arg.n0 < 16 → (s.cluster s.arg.n0).lastStep + 16000 ≤ s.time →
    let hot := (unitsOf s.arg.n0).any (fun u => s.thrT ≤ (s.unit u).temp)
    (hot = true → exec .throttleStep s = .next (s.modCluster s.arg.n0 (fun x =>
      { x with ktherm := max 1 (x.ktherm - 1), lastStep := s.time, k := min x.kreq (min x.kgrant (max 1 (x.ktherm - 1))) }))) ∧
    (hot = false → (∀ u ∈ unitsOf s.arg.n0, (s.unit u).temp + 5 < s.thrT) → exec .throttleStep s = .next (s.modCluster s.arg.n0 (fun x =>
      { x with ktherm := min 16 (x.ktherm + 1), lastStep := s.time, k := min x.kreq (min x.kgrant (min 16 (x.ktherm + 1))) })))) ∧
  (∀ (s : State) (u : Nat), s.arg.n0 = u → s.power = true → let now := s.arg.n1
    let q := s.modUnit u (fun x => { x with temp := min now 255 })
    (u < 256 → s.migT ≤ now → now < s.emgT → now < 110 → (∀ d, q.coolest u = some d →
      ∃ t, exec .thermalMigrationCrossing s = .next t ∧ (t.unit u).temp = now ∧ { src := u, dst := d, kind := 2, raised := s.time } ∈ t.migs) ∧
      (q.coolest u = none → exec .thermalMigrationCrossing s = .next q)) ∧
    (u < 256 → now + 3 < s.migT → now < s.emgT → now < 110 → (∀ m, s.pendingMig u = some m → m.kind = 2 →
      ∃ t, exec .thermalRequestWithdraw s = .next t ∧ (t.unit u).temp = now ∧ m ∉ t.migs ∧ t.mem = s.mem)) ∧
    (u < 256 → s.emgT ≤ now → now < 110 → s.island.st ≠ 2 → s.island.emergency = false → ∃ t, exec .emergencySave s = .next t ∧ t.island.emergency = true ∧ t.island.st = 3 ∧ t.island.to_ = 2) ∧
    (u < 256 → 110 ≤ now → s.allCmds.any (fun k => k.1 < 256 && k.2.started) = false → ∃ t, exec .thermalTrip s = .next t ∧ t.island.st = 2 ∧ t.island.inh = true ∧
      (∀ v, v < 256 → (t.unit v).sb = [] ∧ (t.unit v).slots = [] ∧ (t.unit v).tcc = []) ∧
      (∀ c, (s.dirE c).st = 1 → ((∃ v k, (s.dirE c).place = .slot v k ∧ v < 256) ∨ (∃ v, (s.dirE c).place = .tcc v ∧ v < 256) ∨
        (∃ q v k, (s.dirE c).place = .shadow q v k ∧ v < 256) ∨ (∃ q, (s.dirE c).place = .reserve q ∧ q < 16)) →
        (t.dirE c).st = 2 ∧ (t.dirE c).gens = (s.dirE c).gens ∧ c ∈ t.retRec ∧ ∃ e ∈ t.retTell, e.1 = c)) ∧
    (256 ≤ u → u < 260 → 110 ≤ now → ∃ t, exec .croftThermalTrip s = .next t ∧ t.power = false ∧ t.ctxs = [] ∧ t.dir = [] ∧
      ∀ a v, (a, v) ∈ t.mem ↔ (a, v) ∈ s.mem ∧ (isHostPa a = true ∨ isPeer a = true))) ∧
  (∀ s : State, s.island.inh = true → (∀ e ∈ s.units, e.1 < 256 → e.2.temp ≤ 90) → ∃ t, exec .inhibitClear s = .next t ∧ t.island.inh = false ∧ t.mem = s.mem) ∧
  (∀ s : State, s.bootErr = 0 → 0x242000 ≤ s.arg.n0 → s.arg.n0 < 0x244000 → s.arg.n0 % 8 = 0 → ∃ t, exec .retentionRecordClear s = .next t ∧
    (∀ c, c ∈ t.retRec ↔ c ∈ s.retRec ∧ ¬(c / 64 = (s.arg.n0 - 0x242000) / 8 ∧ bit s.arg.v (c % 64) = true)) ∧ t.mem = s.mem ∧ t.dir = s.dir) ∧
  (∀ s : State, ∃ t, exec .deviceOff s = .next t ∧ t.power = false ∧ t.ctxs = [] ∧ t.dir = [] ∧ t.flash = s.flash ∧ ∀ a v, (a, v) ∈ t.mem ↔ (a, v) ∈ s.mem ∧ (isHostPa a = true ∨ isPeer a = true))

/-- R417 to R419, R424 to R427: partition swap, a function's reset, boot, measurements. The outcome of boot rests on the fused
values and header places that are free constants, log 16; that a swap is made in one step is log 39; that a command PARTCTL
does not list makes it ignore the whole write is read in log 64. -/
def Obligations.PartitionsAndBoot : Prop :=
  (∀ (s : State) (p u k c : Nat), s.arg.n0 = p → p < 16 → s.bootErr = 0 → (s.part p).flr = false → (s.part p).pst = 0 → bit s.arg.v 63 = true →
    s.arg.v.toNat / 2 ^ 60 % 8 = 1 → s.swapTccs p = [] →
    (s.swapSlots p = [] → ∃ t, exec .partitionSwapOut s = .next t ∧ (t.part p).pst = 1 ∧ (t.part p).en = bit s.arg.v 0 ∧ t.mem = s.mem) ∧
    (s.swapSlots p = [(u, k, c)] → (s.dirE c).place = .slot u k → s.canSave c = true → u < 256 → s.swapUsed (clusterOf u) < 120 → s.ssu = [] →
      ∃ t, exec .partitionSwapOut s = .next t ∧ (t.part p).pst = 1 ∧ (t.dirE c).place = .shadow (clusterOf u) u k ∧ mfind (t.unit u).slots k = none ∧
        t.ctx c = { s.ctx c with wait := none } ∧ t.mem = s.mem) ∧
    (s.swapSlots p = [(u, k, c)] → (s.dirE c).place = .slot u k → s.canSave c = false → s.trapWaits c = false →
      ∃ t, exec .partitionSwapOut s = .next t ∧ (t.part p).pst = 2 ∧ (t.part p).pcmd = 1 ∧ t.ctxs = s.ctxs)) ∧
  (∀ (s : State) (p : Nat), s.arg.n0 = p → p < 16 → s.bootErr = 0 → let cmd := s.arg.v.toNat / 2 ^ 60 % 8
    ((s.part p).pst ≠ 2 → (cmd ≠ 1 ∧ cmd ≠ 2) ∨ (bit s.arg.v 63 = true ∧ ((cmd = 2 ∧ (s.part p).pst = 0) ∨ (cmd = 1 ∧ (s.part p).pst = 1))) →
      exec .partitionSwapOut s = .next s ∧ exec .partitionSwapIn s = .next s) ∧
    ((s.part p).pst = 1 → bit s.arg.v 63 = true → cmd = 2 → s.acreOn = true → ∀ c u k cl, s.dir = [(c, s.dirE c)] → (s.dirE c).st = 1 → (s.dirE c).part = p →
      (s.dirE c).place = .shadow cl u k → mfind (s.unit u).slots k = none → mget s.imgErr c 0 = 0 →
      ∃ t, exec .partitionSwapIn s = .next t ∧ (t.dirE c).place = .slot u k ∧ mfind (t.unit u).slots k = some c ∧ t.ctxs = s.ctxs ∧ t.mem = s.mem ∧
        ((s.part p).flr = false → (t.part p).pst = 0) ∧ ((s.part p).flr = true → (t.part p).pst = 2 ∧ (t.part p).pcmd = 1))) ∧
  (∀ (s : State) (p : Nat), s.arg.n0 = p → p < 16 → s.bootErr = 0 →
    let gone := fun (t : State) => (t.part p).pst = 1 ∧ (t.part p).flr = false ∧
      (∀ c, (s.dirE c).st = 1 → (s.dirE c).part = p → (s.dirE c).place ≠ .saved → (s.ctx c).grp ≠ 0 → (t.dirE c).st = 2) ∧
      ∀ c, s.dir = [(c, s.dirE c)] → (s.dirE c).st = 1 → (s.dirE c).part = p → s.grpOf c ≠ 0 → (t.dirE c).st = 2
    ((s.part p).pst = 1 → ∃ t, exec .vfFlr s = .next t ∧ gone t) ∧
    (s.swapTccs p = [] → s.swapSlots p = [] → ((s.part p).pst = 0 ∨ ((s.part p).pst = 2 ∧ (s.part p).pcmd = 1)) → ∃ t, exec .vfFlr s = .next t ∧ gone t) ∧
    (s.swapTccs p = [] → s.swapSlots p = [] → (s.part p).pst = 2 → (s.part p).pcmd = 1 → (s.part p).flr = true →
      ∃ t, exec .partitionSwapOut s = .next t ∧ gone t) ∧
    ((s.part p).pst = 0 → (∃ e ∈ s.swapSlots p, s.canSave e.2.2 = false) → (∀ e ∈ s.swapSlots p, s.trapWaits e.2.2 = false) → (∀ c ∈ s.swapTccs p, s.trapWaits c = false) →
      ∃ t, exec .vfFlr s = .next t ∧ (t.part p).pst = 2 ∧ (t.part p).pcmd = 1 ∧ (t.part p).flr = true ∧ t.dir = s.dir ∧ t.ctxs = s.ctxs) ∧
    ((s.part p).pst = 2 → (s.part p).pcmd = 2 → exec .vfFlr s = .next (s.modPart p (fun x => { x with flr := true })))) ∧
  (∀ s : State, s.power = false ∨ s.bootStage = 0 →
    (imageErr s.flash ≠ 0 → ∃ t, exec .powerOnBoot s = .next t ∧ t.power = true ∧ t.bootStage = 1 ∧ t.bootErr = imageErr s.flash ∧ t.island.st = 2 ∧ t.dir = []) ∧
    (imageErr s.flash = 0 → ∃ t, exec .powerOnBoot s = .next t ∧ t.power = true ∧ t.island.st = 2 ∧ t.dir = [] ∧
      ((t.bootStage = 5 ∧ t.bootErr = 0 ∧ t.pinRate ∈ [64, 96, 128]) ∨ (t.bootStage = 2 ∧ t.bootErr = 4) ∨ (t.bootStage = 3 ∧ t.bootErr = 5)))) ∧
  (∀ s : State, s.power = true → s.bootErr = 0 →
    (4 ≤ s.arg.n0 → s.arg.n0 < 8 → ∃ t, exec .measExtend s = .next t ∧ (∀ n, n ≠ s.arg.n0 → mget t.meas n 0 = mget s.meas n 0) ∧
      (mget t.meas s.arg.n0 0).toNat = beNat (sha384 (beBytes 48 (mget s.meas s.arg.n0 0).toNat ++ s.arg.data.map (·.toNat))) % 2 ^ 384) ∧
    (∃ t, exec .getMeasurements s = .next t ∧ t.reply.length = 480 ∧ t.meas = s.meas ∧
      t.reply.take 384 = ((List.range 8).flatMap (fun n => beBytes 48 (mget s.meas n 0).toNat)).map (BitVec.ofNat 8)))

/-- What an instruction on registers and queue ports leaves as it was, whenever it answers a next state without taking a trap: all
memory with its full/empty bits and tags, the partitions' registers; of its context every register, mask, accumulator, window, port and
control register but those named for it; of every other context all but a park that a place in a queue ends (R333); of every unit all
but what a named port pushes or pops, and the ages of its stores (R210); every packet. Emptying an m register may also let held values
enter, with their acknowledgements (R186). -/
def Obligations.RegisterInstructionsFrame : Prop :=
  ∀ (i : Instr) (s t : State) (d m : Nat) (l ps : List Nat), registerOnly i = some (d, m, l, ps) → exec i s = .next t → (s.ctx s.cur).held = false →
    (t.ctx s.cur).held = false → (t.ctx s.cur).csrGet 0x31 = (s.ctx s.cur).csrGet 0x31 →
    let x := s.ctx s.cur
    let y := t.ctx s.cur
    let named := fun (kind n : Nat) => n ∈ ps ∧ (mget x.ports n {}).kind = kind
    (∀ r, r ≠ d → (y.s r = x.s r ∧ bit y.sFull r = bit x.sFull r) ∨ entersFor s m 0 r) ∧
      (∀ r, r ≠ m → (mget y.mreg r 0 = mget x.mreg r 0 ∧ bit y.mFull r = bit x.mFull r) ∨ entersFor s m 1 r) ∧
      (∀ r, (mget y.vreg r 0 = mget x.vreg r 0 ∧ bit y.vFull r = bit x.vFull r) ∨ entersFor s m 2 r) ∧
      (∀ n, n ∉ l → y.csrGet n = x.csrGet n) ∧ (y.kreg = x.kreg ∨ ∃ c r, 3 ≤ c ∧ entersFor s m c r) ∧ y.areg = x.areg ∧ y.aFull = x.aFull ∧
      y.hreg = x.hreg ∧ y.cb = x.cb ∧ y.wins = x.wins ∧ y.outst = x.outst ∧ y.dq = x.dq ∧ y.trec = x.trec ∧ y.grp = x.grp ∧ y.asn = x.asn ∧ y.sup = x.sup ∧
      (∀ n, mget y.ports n {} = mget x.ports n {} ∨ named 1 n) ∧
      (∀ c, c ≠ s.cur → t.ctx c = s.ctx c ∨ (ps ≠ [] ∧ t.ctx c = { s.ctx c with wait := none }) ∨ enters s m c) ∧
      (∀ v, let f := s.unit v
        let g := t.unit v
        g = { f with sb := g.sb, mbox := g.mbox, rings := g.rings, rxq := g.rxq } ∧
          g.sb.map (fun e => { e with age := 0 }) = f.sb.map (fun e => { e with age := 0 }) ∧ (g.mbox = f.mbox ∨ m ≠ 16) ∧
          (∀ r, mget g.rings r {} = mget f.rings r {} ∨ (v = s.unitOf s.cur ∧ ∃ n, named 4 n ∧ (mget x.ports n {}).ring = r)) ∧
          (∀ r, mget g.rxq r [] = mget f.rxq r [] ∨ (v = s.unitOf s.cur ∧ ∃ n, named 3 n ∧ (mget x.ports n {}).dir = r))) ∧
      (∃ more, t.pkts = s.pkts ++ more ∧ (more = [] ∨ m ≠ 16 ∨ ∃ n, named 2 n)) ∧
      t.mem = s.mem ∧ t.fe = s.fe ∧ t.tags = s.tags ∧ t.parts = s.parts ∧ t.island = s.island ∧ t.ssu = s.ssu

/-- R72 to R74, R332: at a unit's turn the one context that can issue executes the instruction its word decodes to; a word
that breaks a rule of R72 takes the cause of that rule; an event of the agenda is executed with its operands, and the
management core may set a context's event bit (R348). That the agenda says whose turn it is, and when the core writes the bit,
is the model's choice, logs 1 and 48. -/
def Obligations.StepRunsDecodedInstruction : Prop :=
  (∀ (s q r t : State) (u k c : Nat) (w : BitVec 32) (i : Instr), onlyRuns s q u k c → wordAt q r c w → decode w = .instr i →
    exec i r = .next t → (t.ctx c).wait = none → step s = .next (t.charge u c)) ∧
  (∀ (s q r : State) (u k c : Nat) (w : BitVec 32) (e : DecodeErr), onlyRuns s q u k c → wordAt q r c w → decode w = .illegal e → r.cur = c →
    ((r.issuedTrap { cause := e.cause } w).ctx c).wait = none → step s = .next ((r.issuedTrap { cause := e.cause } w).charge u c)) ∧
  (∀ (s : State) (dt : Nat) (i : Instr) (a : Arg) (rest : List Turn), s.agenda = { dt := dt, act := .event i a } :: rest →
    step s = exec i { s with agenda := rest, time := s.time + dt, steps := s.steps + 1, arg := a }) ∧
  (∀ (s : State) (dt c : Nat) (rest : List Turn), s.agenda = { dt := dt, act := .setEvent c } :: rest →
    step s = .next (({ s with agenda := rest, time := s.time + dt, steps := s.steps + 1 } : State).cmcEvent c))

/-- For every well-formed instruction that has a word, the decoder reads that word back as the instruction, every operand at every
value the encoding admits. -/
def Obligations.EncodeThenDecode : Prop := ∀ (i : Instr) (w : BitVec 32), i.WellFormed → encode i = some w → decode w = .instr i

/-- Example words of the instruction chapters, one or more for each format, and words that R72 refuses. -/
def Obligations.ExampleWordsDecode : Prop :=
  decode 0x004A9602 = .instr (.sub 9 10 11 0 0) ∧ decode 0x014ABFFF = .instr (.addi 9 10 0x3FFF) ∧ decode 0x0A480003 = .instr (.lui 9 3) ∧
  decode 0x0D4A8005 = .instr (.fsqrt 9 10 0 0) ∧ decode 0x0E481402 = .instr (.randBnd 9 10) ∧ decode 0x144ABFFF = .instr (.bltu 9 10 0x3FFF) ∧
  decode 0x16000040 = .instr (.jal 64) ∧ decode 0x1701C000 = .instr (.jalr 0 7 0) ∧ decode 0x33480010 = .instr (.csrr 9 16) ∧
  decode 0xD8028003 = .instr (.trap 10 3) ∧ decode 0xD9000000 = .instr .eret ∧ decode 0xDA624001 = .instr (.ckpt 12 9 1) ∧
  decode 0xDB480001 = .instr (.step 9 1) ∧ decode 0x00000000 = .illegal .unassigned ∧ decode 0xFFFFFFFF = .illegal .unassigned

/-- A step keeps memory in canonical form: addresses strictly rising, nothing listed that an unlisted address reads as. The
canonical form and what an unlisted byte reads as are the model's, log 3. -/
def Obligations.StepKeepsMemoryCanonical : Prop := ∀ s t : State, Memory.wf s.mem = true → step s = .next t → Memory.wf t.mem = true

/-- The state right after reset, at the values the register tables give, with no context and nothing in memory. That nothing
is listed in memory is log 3, and the value of a register whose rule gives none is log 4. -/
def Obligations.ResetState : Prop :=
  let s := State.reset
  Memory.wf s.mem = true ∧ s.mem = [] ∧ s.ctxs = [] ∧ s.dir = [] ∧ s.pkts = [] ∧ s.island.st = 2 ∧ s.island.standby = false ∧ s.bootStage = 0 ∧ s.bootErr = 0 ∧
    (∀ u, (s.unit u).slotcfg = 0x000020FF00000000 ∧ (∀ t, t < 16 → (s.unit u).rot.toNat / 16 ^ t % 16 = t % 8) ∧ (s.unit u).cmds = [] ∧ (s.unit u).sb = []) ∧
    (∀ p, (s.part p).astBase = 0 ∧ (s.part p).methBase = 0 ∧ (s.part p).methCnt = 0 ∧ (s.part p).en = false ∧ (s.part p).budget = 0xFFFFFFFFFFFFFFFF) ∧
    (∀ c, (s.ctx c).csrGet 0x10 = 0x3F800000 ∧ ∀ n, n ≠ 0x10 → (s.ctx c).csrGet n = 0) ∧ (∀ c, (s.cluster c).kreq = 16 ∧ (s.cluster c).allow = 0xFFFF ∧ (s.cluster c).pmax = 0x50) ∧
    s.therm = 105 * 2 ^ 16 + 100 * 2 ^ 8 + 95 ∧ s.slew = 4 * 2 ^ 16 ∧ s.island.ctl = 0x0000000001000002 ∧ s.migReg = 0 ∧ s.retRec = []

/-- R195: quotient and remainder satisfy dividend = quotient × divisor + remainder with the quotient truncated towards zero, save
in the cases of its table, none of which traps; with its worked results and encodings. -/
def Obligations.DivisionCases : Prop :=
  (∃ f g : Word → Word → Word, Sr2 .div f ∧ Sr2 .rem g ∧
    (∀ x y, y = 0 → f x y = 0xFFFFFFFFFFFFFFFF ∧ g x y = x) ∧
    (f 0x8000000000000000 (-1) = 0x8000000000000000 ∧ g 0x8000000000000000 (-1) = 0) ∧
    (∀ x y, y ≠ 0 → ¬(x = 0x8000000000000000 ∧ y = -1) → x.toInt = (f x y).toInt * y.toInt + (g x y).toInt ∧
      (f x y).toInt.natAbs = x.toInt.natAbs / y.toInt.natAbs ∧ (g x y).toInt.natAbs < y.toInt.natAbs ∧ (0 ≤ x.toInt → 0 ≤ (g x y).toInt) ∧
      (x.toInt ≤ 0 → (g x y).toInt ≤ 0)) ∧
    f 7 (-2) = -3 ∧ g 7 (-2) = 1 ∧ g (-7) 2 = -1 ∧ g (-9) 0 = -9) ∧
  (∃ f g : Word → Word → Word, Sr2 .divu f ∧ Sr2 .remu g ∧
    (∀ x y, y = 0 → f x y = 0xFFFFFFFFFFFFFFFF ∧ g x y = x) ∧
    (∀ x y, y ≠ 0 → x.toNat = (f x y).toNat * y.toNat + (g x y).toNat ∧ (g x y).toNat < y.toNat) ∧ f 5 0 = 0xFFFFFFFFFFFFFFFF) ∧
  (∃ f, Sr2 .mulhu f ∧ f 0xFFFFFFFFFFFFFFFF 0xFFFFFFFFFFFFFFFF = 0xFFFFFFFFFFFFFFFE) ∧ (∃ f, Sr2 .mulh f ∧ f (-1) (-1) = 0) ∧
  (∃ f, Sr2 .sra f ∧ f 0x8000000000000000 63 = 0xFFFFFFFFFFFFFFFF) ∧ (∃ f, Sr2 .sll f ∧ f 1 64 = 1) ∧ (∃ f, Sr1 .clz f ∧ f 0 = 64) ∧
  decode 0x004A9602 = .instr (.sub 9 10 11 0 0) ∧ decode 0x00635C0E = .instr (.divu 12 13 14 0 0) ∧ decode 0x004A8019 = .instr (.popc 9 10 0 0)
end

