-- ==== Sys2Proof/Laws/Decode.lean ====
section
/-! SUPPORT. Fields of a word written as a concatenation, the reserved bits of a row, and what one decoding comes to: the
steps from which each constructor's round trip follows. -/

namespace Sys2Proof.Laws

/-- A field above the last part lies in the parts before it. -/
theorem ext_hi {a b lo len : Nat} (x : BitVec a) (y : BitVec b) (h : b ≤ lo) :
    (x ++ y).extractLsb' lo len = x.extractLsb' (lo - b) len := by
  apply BitVec.eq_of_getLsbD_eq
  intro i hi
  simp only [BitVec.getLsbD_extractLsb', BitVec.getLsbD_append, hi, decide_true, Bool.true_and]
  rw [if_neg (by omega)]
  congr 1; omega

/-- A field within the last part is a field of it. -/
theorem ext_lo {a b lo len : Nat} (x : BitVec a) (y : BitVec b) (h : lo + len ≤ b) :
    (x ++ y).extractLsb' lo len = y.extractLsb' lo len := by
  apply BitVec.eq_of_getLsbD_eq
  intro i hi
  simp only [BitVec.getLsbD_extractLsb', BitVec.getLsbD_append, hi, decide_true, Bool.true_and]
  rw [if_pos (by omega)]

/-- The field of all bits is the word. -/
theorem ext_all {a : Nat} (x : BitVec a) : x.extractLsb' 0 a = x := by
  apply BitVec.eq_of_getLsbD_eq
  intro i hi
  simp [hi]

/-- The fields of a word are those of the concatenation it equals. -/
theorem fld_of {n : Nat} {w : BitVec 32} {x : BitVec n} (hn : n = 32) (h : x.toNat = w.toNat) (lo len : Nat) :
    fld w lo len = x.extractLsb' lo len := by
  subst hn; rw [BitVec.eq_of_toNat_eq h]

/-- A two-bit field whose high bit is zero is 0 or 1. -/
theorem low_of_high {w : BitVec 32} (h : fld w 4 1 = 0) : fld w 3 2 = 0 ∨ fld w 3 2 = 1 := by
  have e : (fld w 3 2).extractLsb' 1 1 = fld w 4 1 := by
    apply BitVec.eq_of_getLsbD_eq
    intro i hi
    have : i = 0 := by omega
    simp [this]
  rw [h] at e
  revert e
  generalize fld w 3 2 = x
  revert x
  decide

/-- A field that is zero meets no mask over its bits. -/
theorem and_run {w : BitVec 32} {lo len : Nat} (h : fld w lo len = 0) : w.toNat &&& ((2 ^ len - 1) <<< lo) = 0 := by
  apply Nat.eq_of_testBit_eq
  intro i
  simp only [Nat.testBit_and, Nat.testBit_shiftLeft, Nat.testBit_two_pow_sub_one, Nat.zero_testBit, Bool.and_eq_false_imp,
    decide_eq_false_iff_not, Nat.not_lt, decide_eq_true_eq]
  intro hi
  by_cases hl : lo ≤ i
  · by_cases hu : i - lo < len
    · have := congrArg (fun x => x.getLsbD (i - lo)) h
      simp [hu, Nat.add_sub_cancel' hl, BitVec.getLsbD] at this
      rw [this] at hi
      cases hi
    · intro _; omega
  · intro hl'; omega

/-- A mask that is a union of runs of zero fields meets nothing. -/
theorem mask_runs {w : BitVec 32} {i : Instr} (l : List (Nat × Nat))
    (hm : reservedMask i = l.foldr (fun r m => ((2 ^ r.2 - 1) <<< r.1) ||| m) 0)
    (h : ∀ r ∈ l, fld w r.1 r.2 = 0) : w.toNat &&& reservedMask i = 0 := by
  rw [hm]
  clear hm
  induction l with
  | nil => exact Nat.and_zero _
  | cons r t ih =>
    rw [List.foldr_cons, Nat.and_or_distrib_left, and_run (h r (by simp)), ih (fun r hr => h r (by simp [hr]))]
    rfl

/-- A row without reserved bits. -/
theorem mask_none {w : BitVec 32} {i : Instr} (h : reservedMask i = 0) : w.toNat &&& reservedMask i = 0 := by
  rw [h]; exact Nat.and_zero _

theorem select_scalar {w : BitVec 32} (h : fld w 30 2 = 0) : select w = selectScalar w := by unfold select; rw [h]; rfl
theorem select_vector {w : BitVec 32} (h : fld w 30 2 = 1) : select w = selectVector w := by unfold select; rw [h]; rfl
theorem select_engine {w : BitVec 32} (h : fld w 30 2 = 2) : select w = selectEngine w := by unfold select; rw [h]; rfl
theorem select_control {w : BitVec 32} (h : fld w 30 2 = 3) : select w = selectControl w := by unfold select; rw [h]; rfl

/-- A word that selects a well-formed instruction and has its reserved bits zero decodes to it. -/
theorem decode_of {w : BitVec 32} {i : Instr} (hs : select w = some i) (hr : w.toNat &&& reservedMask i = 0) (h : i.WellFormed) :
    decode w = .instr i := by
  unfold Instr.WellFormed Instr.wellFormed at h
  simp only [Bool.and_eq_true, Bool.not_eq_true'] at h
  unfold decode decodeTo4
  simp only [hs, h.1.1, h.1.2, h.2, hr, Bool.false_eq_true, if_false, ne_eq, not_true_eq_false, decide_false, Bool.or_self]

/-- A word that decodes selects its instruction, which is well formed, and has its reserved bits zero. -/
theorem of_decode {w : BitVec 32} {i : Instr} (h : decode w = .instr i) :
    select w = some i ∧ w.toNat &&& reservedMask i = 0 ∧ i.WellFormed := by
  unfold decode decodeTo4 at h
  cases hs : select w with
  | none => rw [hs] at h; cases h
  | some j =>
    rw [hs] at h
    by_cases h1 : unassignedIn j = true
    · simp [h1] at h
    · by_cases h2 : w.toNat &&& reservedMask j = 0
      · by_cases h3 : reservedIn j = true
        · simp [h1, h3] at h
        · by_cases h4 : overlapIn j = true
          · simp [h1, h2, h3, h4] at h
          · simp [h1, h2, h3, h4] at h
            subst h
            exact ⟨rfl, h2, by simp [Instr.WellFormed, Instr.wellFormed, h1, h3, h4]⟩
      · simp [h1, h2] at h

/-- The family: a well-formed instruction's word decodes to it; a device step has no word. -/
def RoundTrip.Statement (i : Instr) : Prop := i.WellFormed → ∀ w, encode i = some w → decode w = .instr i

/-- The round trip of an instruction written as a concatenation, from the fields of its word. -/
theorem roundTrip_via {n : Nat} {i : Instr} (x : BitVec n) (hn : n = 32) (he : encode i = some (x.cast hn))
    (h : ∀ w : BitVec 32, (∀ lo len, fld w lo len = x.extractLsb' lo len) → select w = some i ∧ w.toNat &&& reservedMask i = 0) :
    RoundTrip.Statement i := by
  intro hi w hw
  rw [he] at hw
  cases hw
  obtain ⟨hs, hr⟩ := h (x.cast hn) (fld_of hn rfl)
  exact decode_of hs hr hi

/-- A device step has no word. -/
theorem device {i : Instr} (h : encode i = none) : RoundTrip.Statement i := by
  intro _ w hw
  rw [h] at hw
  cases hw

end Sys2Proof.Laws
end

