-- ==== Sys2Proof/Laws/Mem.lean ====
section
/-! SUPPORT. Memory: what a read finds after a write, and that every operation on it keeps the canonical form. -/

namespace Sys2Proof.Laws

open Sys2Proof.Machine

/-- Where a canonical memory starts above an address, the address reads as nothing written. -/
theorem memGet_below {m : List Host.Cell} {lo a : Nat} (h : memOkFrom lo m = true) (ha : a < lo) : memGet m a = emptyByte := by
  cases m with
  | nil => rfl
  | cons c t =>
    obtain ⟨b, v⟩ := c
    simp only [memOkFrom, Bool.and_eq_true, decide_eq_true_eq] at h
    have : b ≠ a := by omega
    have h2 : a < b := by omega
    simp [memGet, this, h2]

/-- A canonical memory from one address up is one from any lower address up. -/
theorem memOk_mono {m : List Host.Cell} {lo lo' : Nat} (h : memOkFrom lo m = true) (hl : lo' ≤ lo) : memOkFrom lo' m = true := by
  cases m with
  | nil => rfl
  | cons c t =>
    simp only [memOkFrom, Bool.and_eq_true, decide_eq_true_eq] at h ⊢
    exact ⟨⟨by omega, h.1.2⟩, h.2⟩

/-- Removing entries keeps the canonical form. -/
theorem memOk_filter {p : Host.Cell → Bool} {m : List Host.Cell} {lo : Nat} (h : memOkFrom lo m = true) :
    memOkFrom lo (m.filter p) = true := by
  induction m generalizing lo with
  | nil => rfl
  | cons c t ih =>
    simp only [memOkFrom, Bool.and_eq_true, decide_eq_true_eq] at h
    by_cases hp : p c = true
    · simp only [List.filter_cons_of_pos hp, memOkFrom, Bool.and_eq_true, decide_eq_true_eq]
      exact ⟨h.1, ih h.2⟩
    · rw [List.filter_cons_of_neg hp]
      exact memOk_mono (ih h.2) (by omega)

/-- Keeping only entries at and above an address gives a memory from that address up. -/
theorem memOk_above {m : List Host.Cell} {lo a : Nat} (h : memOkFrom lo m = true) :
    memOkFrom a (m.filter (fun c => a ≤ c.1)) = true := by
  induction m generalizing lo with
  | nil => rfl
  | cons c t ih =>
    simp only [memOkFrom, Bool.and_eq_true, decide_eq_true_eq] at h
    by_cases hp : a ≤ c.1
    · rw [List.filter_cons_of_pos (by simpa using hp)]
      simp only [memOkFrom, Bool.and_eq_true, decide_eq_true_eq]
      exact ⟨⟨hp, h.1.2⟩, memOk_filter h.2⟩
    · rw [List.filter_cons_of_neg (by simpa using hp)]
      exact ih h.2

/-- The entries of a run of bytes, followed by entries above it, are in canonical form. -/
theorem memOk_cells {l : List Byte} {a : Nat} {t : List Host.Cell} (h : memOkFrom (a + l.length) t = true) :
    memOkFrom a (cellsFrom a l ++ t) = true := by
  induction l generalizing a with
  | nil => exact memOk_mono h (by simp)
  | cons b l ih =>
    have h' : memOkFrom (a + 1) (cellsFrom (a + 1) l ++ t) = true := ih (by simpa [Nat.add_assoc, Nat.add_comm 1] using h)
    unfold cellsFrom
    by_cases hb : b = emptyByte
    · rw [if_pos hb]; exact memOk_mono h' (by omega)
    · rw [if_neg hb]
      simp only [List.cons_append, memOkFrom, Bool.and_eq_true, decide_eq_true_eq, bne_iff_ne, ne_eq]
      exact ⟨⟨Nat.le_refl _, hb⟩, h'⟩

/-- Entries below an address, then a canonical memory from there up. -/
theorem memOk_append {m t : List Host.Cell} {lo a : Nat} (h : memOkFrom lo m = true) (hlt : ∀ c ∈ m, c.1 < a) (ht : memOkFrom a t = true)
    (hlo : lo ≤ a) : memOkFrom lo (m ++ t) = true := by
  induction m generalizing lo with
  | nil => exact memOk_mono ht hlo
  | cons c m ih =>
    simp only [memOkFrom, Bool.and_eq_true, decide_eq_true_eq] at h
    simp only [List.cons_append, memOkFrom, Bool.and_eq_true, decide_eq_true_eq]
    exact ⟨h.1, ih h.2 (fun d hd => hlt d (by simp [hd])) (hlt c (by simp))⟩

/-- A write keeps the canonical form. -/
theorem memWrite_wf {m : List Host.Cell} (a : Nat) (l : List Byte) (h : Memory.wf m = true) : Memory.wf (memWrite m a l) = true := by
  unfold memWrite
  rw [List.append_assoc]
  refine memOk_append (memOk_filter h) (fun c hc => ?_) (memOk_cells (memOk_above h)) (Nat.zero_le _)
  simpa using (List.mem_filter.mp hc).2

theorem memSet_wf {m : List Host.Cell} (a : Nat) (x : Byte) (h : Memory.wf m = true) : Memory.wf (memSet m a x) = true :=
  memWrite_wf a [x] h

/-- Removing a range keeps the canonical form. -/
theorem memDrop_wf {m : List Host.Cell} (lo hi : Nat) (h : Memory.wf m = true) : Memory.wf (memDrop m lo hi) = true :=
  memOk_filter h

/-- Any filter of the entries keeps the canonical form. -/
theorem memFilter_wf {m : List Host.Cell} (p : Host.Cell → Bool) (h : Memory.wf m = true) : Memory.wf (m.filter p) = true :=
  memOk_filter h

/-- An address read past entries that all lie below it. -/
theorem memGet_append_below {m t : List Host.Cell} {lo a : Nat} (h : memOkFrom lo m = true) (hlt : ∀ c ∈ m, c.1 < a) :
    memGet (m ++ t) a = memGet t a := by
  induction m generalizing lo with
  | nil => rfl
  | cons c m ih =>
    obtain ⟨b, v⟩ := c
    have hb : b < a := hlt (b, v) (by simp)
    simp only [memOkFrom, Bool.and_eq_true, decide_eq_true_eq] at h
    have h1 : b ≠ a := by omega
    have h2 : ¬a < b := by omega
    simp only [List.cons_append, memGet, h1, h2, if_false]
    exact ih h.2 (fun d hd => hlt d (by simp [hd]))

/-- A byte below a run of entries does not see it. -/
theorem memGet_append_above {m t : List Host.Cell} {lo a b : Nat} (h : memOkFrom lo m = true) (ha : a < b) (ht : memOkFrom b t = true) :
    memGet (m ++ t) a = memGet m a := by
  induction m generalizing lo with
  | nil => exact memGet_below ht ha
  | cons c m ih =>
    obtain ⟨d, v⟩ := c
    simp only [memOkFrom, Bool.and_eq_true, decide_eq_true_eq] at h
    simp only [List.cons_append, memGet]
    split
    · rfl
    · split
      · rfl
      · exact ih h.2

/-- What a read finds in the entries of a run of bytes. -/
theorem memGet_cells {l : List Byte} {a b : Nat} {t : List Host.Cell} (ht : memOkFrom (a + l.length) t = true) (hb : a ≤ b)
    (hl : b < a + l.length) : memGet (cellsFrom a l ++ t) b = l.getD (b - a) 0 := by
  induction l generalizing a with
  | nil => simp at hl; omega
  | cons x l ih =>
    simp only [List.length_cons] at ht hl
    have ht' : memOkFrom (a + 1 + l.length) t = true := by simpa [Nat.add_assoc, Nat.add_comm 1] using ht
    have htail : memOkFrom (a + 1) (cellsFrom (a + 1) l ++ t) = true := memOk_cells ht'
    unfold cellsFrom
    by_cases hba : b = a
    · subst hba
      by_cases hx : x = emptyByte
      · rw [if_pos hx, memGet_below htail (by omega)]; simp [hx]
      · rw [if_neg hx]; simp [memGet]
    · have hstep : memGet (cellsFrom (a + 1) l ++ t) b = (x :: l).getD (b - a) 0 := by
        rw [ih ht' (by omega) (by omega)]
        have : b - a = (b - (a + 1)) + 1 := by omega
        rw [this, List.getD_cons_succ]
      by_cases hx : x = emptyByte
      · rw [if_pos hx]; exact hstep
      · rw [if_neg hx]
        have h1 : a ≠ b := by omega
        have h2 : ¬b < a := by omega
        simp only [List.cons_append, memGet, h1, h2, if_false]
        exact hstep

/-- Removing the entries at and above an address leaves the bytes below it. -/
theorem memGet_filter_lt {m : List Host.Cell} {lo a b : Nat} (h : memOkFrom lo m = true) (hb : b < a) :
    memGet (m.filter (fun c => c.1 < a)) b = memGet m b := by
  induction m generalizing lo with
  | nil => rfl
  | cons c m ih =>
    obtain ⟨d, v⟩ := c
    have h0 := h
    simp only [memOkFrom, Bool.and_eq_true, decide_eq_true_eq] at h
    by_cases hd : d < a
    · rw [List.filter_cons_of_pos (by simpa using hd)]
      simp only [memGet]
      split
      · rfl
      · split
        · rfl
        · exact ih h.2
    · rw [List.filter_cons_of_neg (by simpa using hd), ih h.2]
      have h1 : d ≠ b := by omega
      have h2 : b < d := by omega
      simp only [memGet, h1, h2, if_false, if_true]
      exact memGet_below h.2 (by omega)

/-- Removing the entries below an address leaves the bytes from it up. -/
theorem memGet_filter_ge {m : List Host.Cell} {lo a b : Nat} (h : memOkFrom lo m = true) (hb : a ≤ b) :
    memGet (m.filter (fun c => a ≤ c.1)) b = memGet m b := by
  induction m generalizing lo with
  | nil => rfl
  | cons c m ih =>
    obtain ⟨d, v⟩ := c
    simp only [memOkFrom, Bool.and_eq_true, decide_eq_true_eq] at h
    by_cases hd : a ≤ d
    · rw [List.filter_cons_of_pos (by simpa using hd)]
      simp only [memGet]
      split
      · rfl
      · split
        · rfl
        · exact ih h.2
    · rw [List.filter_cons_of_neg (by simpa using hd), ih h.2]
      have h1 : d ≠ b := by omega
      have h2 : ¬b < d := by omega
      simp only [memGet, h1, h2, if_false]

/-- A byte outside a write reads as before. -/
theorem memGet_memWrite_out {m : List Host.Cell} {a b : Nat} {l : List Byte} (h : Memory.wf m = true)
    (hb : b < a ∨ a + l.length ≤ b) : memGet (memWrite m a l) b = memGet m b := by
  have hab := memOk_above (a := a + l.length) h
  unfold memWrite
  rw [List.append_assoc]
  rcases hb with hb | hb
  · rw [memGet_append_above (memOk_filter h) hb (memOk_cells hab), memGet_filter_lt h hb]
  · rw [memGet_append_below (a := b) (memOk_filter h) (fun c hc => ?_)]
    · rw [memGet_append_below (lo := a) (a := b) (by simpa using memOk_cells (t := []) (l := l) (a := a) rfl) (fun c hc => ?_)]
      · exact memGet_filter_ge h hb
      · have hlt : ∀ (l : List Byte) (a : Nat), ∀ c ∈ cellsFrom a l, c.1 < a + l.length := by
          intro l
          induction l with
          | nil => intro a c hc; simp [cellsFrom] at hc
          | cons x l ih =>
            intro a c hc
            unfold cellsFrom at hc
            split at hc
            · have := ih (a + 1) c hc; simp only [List.length_cons]; omega
            · rcases List.mem_cons.mp hc with rfl | hc
              · simp
              · have := ih (a + 1) c hc; simp only [List.length_cons]; omega
        have := hlt l a c hc
        omega
    · have := (List.mem_filter.mp hc).2
      simp only [decide_eq_true_eq] at this
      omega

/-- A byte within a write reads as written. -/
theorem memGet_memWrite_in {m : List Host.Cell} {a b : Nat} {l : List Byte} (h : Memory.wf m = true)
    (hb : a ≤ b) (hl : b < a + l.length) : memGet (memWrite m a l) b = l.getD (b - a) 0 := by
  unfold memWrite
  rw [List.append_assoc, memGet_append_below (a := b) (memOk_filter h) (fun c hc => ?_)]
  · exact memGet_cells (memOk_above h) hb hl
  · have := (List.mem_filter.mp hc).2
    simp only [decide_eq_true_eq] at this
    omega

/-- Passing over the entries below an address changes no byte from it up. -/
theorem memGet_dropWhile {m : List Host.Cell} {a b : Nat} (hb : a ≤ b) : memGet (m.dropWhile (fun c => c.1 < a)) b = memGet m b := by
  induction m with
  | nil => rfl
  | cons c m ih =>
    obtain ⟨d, v⟩ := c
    by_cases hd : d < a
    · have h1 : d ≠ b := by omega
      have h2 : ¬b < d := by omega
      simp only [List.dropWhile_cons, hd, decide_true, if_true, memGet, h1, h2, if_false]
      exact ih
    · simp [hd]

/-- A run of bytes is the bytes one by one. -/
theorem memRead_eq (m : List Host.Cell) (a n : Nat) : memRead m a n = memBytes m a n := by
  have h : ∀ n b, a ≤ b → memBytes (m.dropWhile (fun c => c.1 < a)) b n = memBytes m b n := by
    intro n
    induction n with
    | zero => intro b _; rfl
    | succ n ih => intro b hb; simp only [memBytes]; rw [memGet_dropWhile hb, ih (b + 1) (by omega)]
  exact h n a (Nat.le_refl _)

/-- Bytes of equal memories are equal. -/
theorem memBytes_congr {m m' : List Host.Cell} {a n : Nat} (h : ∀ b, a ≤ b → b < a + n → memGet m b = memGet m' b) :
    memBytes m a n = memBytes m' a n := by
  induction n generalizing a with
  | zero => rfl
  | succ n ih =>
    simp only [memBytes]
    rw [h a (Nat.le_refl _) (by omega), ih (fun b h1 h2 => h b (by omega) (by omega))]

@[simp] theorem toBytes_length (n x : Nat) : (toBytes n x).length = n := by
  induction n generalizing x with
  | zero => rfl
  | succ n ih => simp [toBytes, ih]

/-- A number's bytes make the number again, modulo 256 to their count. -/
theorem ofBytes_toBytes (n x : Nat) : ofBytes (toBytes n x) = x % 256 ^ n := by
  induction n generalizing x with
  | zero => simp [toBytes, ofBytes, Nat.mod_one]
  | succ n ih =>
    simp only [toBytes, ofBytes, ih, BitVec.toNat_ofNat]
    have : (256 : Nat) ^ (n + 1) = 256 * 256 ^ n := by rw [Nat.pow_succ, Nat.mul_comm]
    rw [this, Nat.mod_mul]

/-- A run of bytes read where it was written is the run. -/
theorem memBytes_memWrite {m : List Host.Cell} {a : Nat} {l : List Byte} (h : Memory.wf m = true) :
    memBytes (memWrite m a l) a l.length = l := by
  have key : ∀ (n i : Nat), i + n = l.length → memBytes (memWrite m a l) (a + i) n = l.drop i := by
    intro n
    induction n with
    | zero => intro i hi; simp [memBytes, List.drop_eq_nil_of_le (show l.length ≤ i by omega)]
    | succ n ih =>
      intro i hi
      simp only [memBytes]
      rw [memGet_memWrite_in h (by omega) (by omega), show a + i + 1 = a + (i + 1) by omega, ih (i + 1) (by omega),
        show a + i - a = i by omega]
      have hi' : i < l.length := by omega
      rw [List.drop_eq_getElem_cons hi', List.getD_eq_getElem?_getD, List.getElem?_eq_getElem hi', Option.getD_some]
  simpa using key l.length 0 (by omega)

/-- Reading what was written gives it back. -/
theorem memRead_memWrite {m : List Host.Cell} {a : Nat} {l : List Byte} (h : Memory.wf m = true) :
    memRead (memWrite m a l) a l.length = l := by
  rw [memRead_eq, memBytes_memWrite h]

/-- A run of bytes apart from a write reads as before. -/
theorem memRead_memWrite_out {m : List Host.Cell} {a b n : Nat} {l : List Byte} (h : Memory.wf m = true)
    (hb : b + n ≤ a ∨ a + l.length ≤ b) : memRead (memWrite m a l) b n = memRead m b n := by
  rw [memRead_eq, memRead_eq]
  exact memBytes_congr (fun c h1 h2 => memGet_memWrite_out h (by omega))

/-- The value read at a home just written: the low bytes of the value. -/
theorem peek_pokeRaw {s : State} {a n x : Nat} (h : Memory.wf s.mem = true) : (s.pokeRaw a n x).peek a n = x % 256 ^ n := by
  have := memRead_memWrite (m := s.mem) (a := a) (l := toBytes n x) h
  rw [toBytes_length] at this
  show ofBytes (memRead (memWrite s.mem a (toBytes n x)) a n) = _
  rw [this, ofBytes_toBytes]

end Sys2Proof.Laws
end

