-- ==== Sys2Proof/Laws/State.lean ====
section
/-! SUPPORT. Tables and the state's updates: what a read finds after an update, and that each update changes its own field
alone. -/

namespace Sys2Proof.Laws

open Sys2Proof.Machine

/-- A table reads what was set last. -/
@[simp] theorem mget_mset {α : Type} (m : Map α) (k : Nat) (v d : α) : mget (mset m k v) k d = v := by
  induction m with
  | nil => simp [mset, mget]
  | cons e t ih =>
    obtain ⟨j, w⟩ := e
    by_cases h : j = k
    · simp [mset, mget, h]
    · by_cases h2 : k < j
      · simp [mset, mget, h, h2]
      · simp [mset, mget, h, h2, ih]

/-- Other keys read as before. -/
theorem mget_mset_ne {α : Type} {m : Map α} {k j : Nat} {v d : α} (h : j ≠ k) : mget (mset m k v) j d = mget m j d := by
  have h' : k ≠ j := fun e => h e.symm
  induction m with
  | nil => simp [mset, mget, h']
  | cons e t ih =>
    obtain ⟨i, w⟩ := e
    by_cases hi : i = k
    · subst hi; simp [mset, mget, h']
    · by_cases h2 : k < i
      · simp [mset, mget, hi, h2, h']
      · simp only [mset, hi, h2, if_false, mget, ih]

@[simp] theorem mfind_mset {α : Type} (m : Map α) (k : Nat) (v : α) : mfind (mset m k v) k = some v := by
  induction m with
  | nil => simp [mset, mfind]
  | cons e t ih =>
    obtain ⟨j, w⟩ := e
    by_cases h : j = k
    · simp [mset, mfind, h]
    · by_cases h2 : k < j
      · simp [mset, mfind, h, h2]
      · simp [mset, mfind, h, h2, ih]

@[simp] theorem ctx_setCtx (s : State) (c : Nat) (x : Ctx) : (s.setCtx c x).ctx c = x := mget_mset ..
theorem ctx_setCtx_ne {s : State} {c d : Nat} {x : Ctx} (h : d ≠ c) : (s.setCtx c x).ctx d = s.ctx d := mget_mset_ne h
@[simp] theorem ctx_modCtx (s : State) (c : Nat) (f : Ctx → Ctx) : (s.modCtx c f).ctx c = f (s.ctx c) := mget_mset ..
theorem ctx_modCtx_ne {s : State} {c d : Nat} {f : Ctx → Ctx} (h : d ≠ c) : (s.modCtx c f).ctx d = s.ctx d := mget_mset_ne h
@[simp] theorem dirE_modDir (s : State) (c : Nat) (f : Dir → Dir) : (s.modDir c f).dirE c = f (s.dirE c) := mget_mset ..
theorem dirE_modDir_ne {s : State} {c d : Nat} {f : Dir → Dir} (h : d ≠ c) : (s.modDir c f).dirE d = s.dirE d := mget_mset_ne h
@[simp] theorem unit_modUnit (s : State) (c : Nat) (f : UnitSt → UnitSt) : (s.modUnit c f).unit c = f (s.unit c) := mget_mset ..
theorem unit_modUnit_ne {s : State} {c d : Nat} {f : UnitSt → UnitSt} (h : d ≠ c) : (s.modUnit c f).unit d = s.unit d := mget_mset_ne h
@[simp] theorem cluster_modCluster (s : State) (c : Nat) (f : ClusterSt → ClusterSt) : (s.modCluster c f).cluster c = f (s.cluster c) := mget_mset ..
theorem cluster_modCluster_ne {s : State} {c d : Nat} {f : ClusterSt → ClusterSt} (h : d ≠ c) :
    (s.modCluster c f).cluster d = s.cluster d := mget_mset_ne h
@[simp] theorem part_modPart (s : State) (c : Nat) (f : PartSt → PartSt) : (s.modPart c f).part c = f (s.part c) := mget_mset ..
theorem part_modPart_ne {s : State} {c d : Nat} {f : PartSt → PartSt} (h : d ≠ c) : (s.modPart c f).part d = s.part d := mget_mset_ne h

/-! ### The state's updates, field by field -/

@[simp] theorem setCtx_halted (s : State) (c : Nat) (x : Ctx) : (s.setCtx c x).halted = s.halted := rfl
@[simp] theorem setCtx_dir (s : State) (c : Nat) (x : Ctx) : (s.setCtx c x).dir = s.dir := rfl
@[simp] theorem setCtx_units (s : State) (c : Nat) (x : Ctx) : (s.setCtx c x).units = s.units := rfl
@[simp] theorem setCtx_clusters (s : State) (c : Nat) (x : Ctx) : (s.setCtx c x).clusters = s.clusters := rfl
@[simp] theorem setCtx_parts (s : State) (c : Nat) (x : Ctx) : (s.setCtx c x).parts = s.parts := rfl
@[simp] theorem setCtx_launches (s : State) (c : Nat) (x : Ctx) : (s.setCtx c x).launches = s.launches := rfl
@[simp] theorem setCtx_mem (s : State) (c : Nat) (x : Ctx) : (s.setCtx c x).mem = s.mem := rfl
@[simp] theorem setCtx_fe (s : State) (c : Nat) (x : Ctx) : (s.setCtx c x).fe = s.fe := rfl
@[simp] theorem setCtx_tags (s : State) (c : Nat) (x : Ctx) : (s.setCtx c x).tags = s.tags := rfl
@[simp] theorem setCtx_faded (s : State) (c : Nat) (x : Ctx) : (s.setCtx c x).faded = s.faded := rfl
@[simp] theorem setCtx_memErr (s : State) (c : Nat) (x : Ctx) : (s.setCtx c x).memErr = s.memErr := rfl
@[simp] theorem setCtx_tagErr (s : State) (c : Nat) (x : Ctx) : (s.setCtx c x).tagErr = s.tagErr := rfl
@[simp] theorem setCtx_regErr (s : State) (c : Nat) (x : Ctx) : (s.setCtx c x).regErr = s.regErr := rfl
@[simp] theorem setCtx_imgErr (s : State) (c : Nat) (x : Ctx) : (s.setCtx c x).imgErr = s.imgErr := rfl
@[simp] theorem setCtx_sharing (s : State) (c : Nat) (x : Ctx) : (s.setCtx c x).sharing = s.sharing := rfl
@[simp] theorem setCtx_sharingClear (s : State) (c : Nat) (x : Ctx) : (s.setCtx c x).sharingClear = s.sharingClear := rfl
@[simp] theorem setCtx_hostLines (s : State) (c : Nat) (x : Ctx) : (s.setCtx c x).hostLines = s.hostLines := rfl
@[simp] theorem setCtx_chans (s : State) (c : Nat) (x : Ctx) : (s.setCtx c x).chans = s.chans := rfl
@[simp] theorem setCtx_scrap (s : State) (c : Nat) (x : Ctx) : (s.setCtx c x).scrap = s.scrap := rfl
@[simp] theorem setCtx_mended (s : State) (c : Nat) (x : Ctx) : (s.setCtx c x).mended = s.mended := rfl
@[simp] theorem setCtx_pinRate (s : State) (c : Nat) (x : Ctx) : (s.setCtx c x).pinRate = s.pinRate := rfl
@[simp] theorem setCtx_mempwr (s : State) (c : Nat) (x : Ctx) : (s.setCtx c x).mempwr = s.mempwr := rfl
@[simp] theorem setCtx_misses (s : State) (c : Nat) (x : Ctx) : (s.setCtx c x).misses = s.misses := rfl
@[simp] theorem setCtx_walkAcre (s : State) (c : Nat) (x : Ctx) : (s.setCtx c x).walkAcre = s.walkAcre := rfl
@[simp] theorem setCtx_walkCroft (s : State) (c : Nat) (x : Ctx) : (s.setCtx c x).walkCroft = s.walkCroft := rfl
@[simp] theorem setCtx_walkLast (s : State) (c : Nat) (x : Ctx) : (s.setCtx c x).walkLast = s.walkLast := rfl
@[simp] theorem setCtx_pkts (s : State) (c : Nat) (x : Ctx) : (s.setCtx c x).pkts = s.pkts := rfl
@[simp] theorem setCtx_waits (s : State) (c : Nat) (x : Ctx) : (s.setCtx c x).waits = s.waits := rfl
@[simp] theorem setCtx_staggers (s : State) (c : Nat) (x : Ctx) : (s.setCtx c x).staggers = s.staggers := rfl
@[simp] theorem setCtx_ssu (s : State) (c : Nat) (x : Ctx) : (s.setCtx c x).ssu = s.ssu := rfl
@[simp] theorem setCtx_migs (s : State) (c : Nat) (x : Ctx) : (s.setCtx c x).migs = s.migs := rfl
@[simp] theorem setCtx_island (s : State) (c : Nat) (x : Ctx) : (s.setCtx c x).island = s.island := rfl
@[simp] theorem setCtx_migReg (s : State) (c : Nat) (x : Ctx) : (s.setCtx c x).migReg = s.migReg := rfl
@[simp] theorem setCtx_migTmo (s : State) (c : Nat) (x : Ctx) : (s.setCtx c x).migTmo = s.migTmo := rfl
@[simp] theorem setCtx_cascDst (s : State) (c : Nat) (x : Ctx) : (s.setCtx c x).cascDst = s.cascDst := rfl
@[simp] theorem setCtx_slew (s : State) (c : Nat) (x : Ctx) : (s.setCtx c x).slew = s.slew := rfl
@[simp] theorem setCtx_phase0 (s : State) (c : Nat) (x : Ctx) : (s.setCtx c x).phase0 = s.phase0 := rfl
@[simp] theorem setCtx_phase1 (s : State) (c : Nat) (x : Ctx) : (s.setCtx c x).phase1 = s.phase1 := rfl
@[simp] theorem setCtx_therm (s : State) (c : Nat) (x : Ctx) : (s.setCtx c x).therm = s.therm := rfl
@[simp] theorem setCtx_retRec (s : State) (c : Nat) (x : Ctx) : (s.setCtx c x).retRec = s.retRec := rfl
@[simp] theorem setCtx_retTell (s : State) (c : Nat) (x : Ctx) : (s.setCtx c x).retTell = s.retTell := rfl
@[simp] theorem setCtx_linkcfg (s : State) (c : Nat) (x : Ctx) : (s.setCtx c x).linkcfg = s.linkcfg := rfl
@[simp] theorem setCtx_lroute (s : State) (c : Nat) (x : Ctx) : (s.setCtx c x).lroute = s.lroute := rfl
@[simp] theorem setCtx_badLinks (s : State) (c : Nat) (x : Ctx) : (s.setCtx c x).badLinks = s.badLinks := rfl
@[simp] theorem setCtx_bootStage (s : State) (c : Nat) (x : Ctx) : (s.setCtx c x).bootStage = s.bootStage := rfl
@[simp] theorem setCtx_bootErr (s : State) (c : Nat) (x : Ctx) : (s.setCtx c x).bootErr = s.bootErr := rfl
@[simp] theorem setCtx_meas (s : State) (c : Nat) (x : Ctx) : (s.setCtx c x).meas = s.meas := rfl
@[simp] theorem setCtx_flash (s : State) (c : Nat) (x : Ctx) : (s.setCtx c x).flash = s.flash := rfl
@[simp] theorem setCtx_power (s : State) (c : Nat) (x : Ctx) : (s.setCtx c x).power = s.power := rfl
@[simp] theorem setCtx_time (s : State) (c : Nat) (x : Ctx) : (s.setCtx c x).time = s.time := rfl
@[simp] theorem setCtx_reply (s : State) (c : Nat) (x : Ctx) : (s.setCtx c x).reply = s.reply := rfl
@[simp] theorem setCtx_replyBad (s : State) (c : Nat) (x : Ctx) : (s.setCtx c x).replyBad = s.replyBad := rfl
@[simp] theorem setCtx_agenda (s : State) (c : Nat) (x : Ctx) : (s.setCtx c x).agenda = s.agenda := rfl
@[simp] theorem setCtx_steps (s : State) (c : Nat) (x : Ctx) : (s.setCtx c x).steps = s.steps := rfl
@[simp] theorem setCtx_period (s : State) (c : Nat) (x : Ctx) : (s.setCtx c x).period = s.period := rfl
@[simp] theorem setCtx_lent (s : State) (c : Nat) (x : Ctx) : (s.setCtx c x).lent = s.lent := rfl
@[simp] theorem setCtx_nextUnit (s : State) (c : Nat) (x : Ctx) : (s.setCtx c x).nextUnit = s.nextUnit := rfl
@[simp] theorem setCtx_cur (s : State) (c : Nat) (x : Ctx) : (s.setCtx c x).cur = s.cur := rfl
@[simp] theorem setCtx_npc (s : State) (c : Nat) (x : Ctx) : (s.setCtx c x).npc = s.npc := rfl
@[simp] theorem setCtx_fresh (s : State) (c : Nat) (x : Ctx) : (s.setCtx c x).fresh = s.fresh := rfl
@[simp] theorem setCtx_ids (s : State) (c : Nat) (x : Ctx) : (s.setCtx c x).ids = s.ids := rfl
@[simp] theorem setCtx_insn (s : State) (c : Nat) (x : Ctx) : (s.setCtx c x).insn = s.insn := rfl
@[simp] theorem setCtx_arg (s : State) (c : Nat) (x : Ctx) : (s.setCtx c x).arg = s.arg := rfl

@[simp] theorem modCtx_halted (s : State) (c : Nat) (f : Ctx → Ctx) : (s.modCtx c f).halted = s.halted := rfl
@[simp] theorem modCtx_dir (s : State) (c : Nat) (f : Ctx → Ctx) : (s.modCtx c f).dir = s.dir := rfl
@[simp] theorem modCtx_units (s : State) (c : Nat) (f : Ctx → Ctx) : (s.modCtx c f).units = s.units := rfl
@[simp] theorem modCtx_clusters (s : State) (c : Nat) (f : Ctx → Ctx) : (s.modCtx c f).clusters = s.clusters := rfl
@[simp] theorem modCtx_parts (s : State) (c : Nat) (f : Ctx → Ctx) : (s.modCtx c f).parts = s.parts := rfl
@[simp] theorem modCtx_launches (s : State) (c : Nat) (f : Ctx → Ctx) : (s.modCtx c f).launches = s.launches := rfl
@[simp] theorem modCtx_mem (s : State) (c : Nat) (f : Ctx → Ctx) : (s.modCtx c f).mem = s.mem := rfl
@[simp] theorem modCtx_fe (s : State) (c : Nat) (f : Ctx → Ctx) : (s.modCtx c f).fe = s.fe := rfl
@[simp] theorem modCtx_tags (s : State) (c : Nat) (f : Ctx → Ctx) : (s.modCtx c f).tags = s.tags := rfl
@[simp] theorem modCtx_faded (s : State) (c : Nat) (f : Ctx → Ctx) : (s.modCtx c f).faded = s.faded := rfl
@[simp] theorem modCtx_memErr (s : State) (c : Nat) (f : Ctx → Ctx) : (s.modCtx c f).memErr = s.memErr := rfl
@[simp] theorem modCtx_tagErr (s : State) (c : Nat) (f : Ctx → Ctx) : (s.modCtx c f).tagErr = s.tagErr := rfl
@[simp] theorem modCtx_regErr (s : State) (c : Nat) (f : Ctx → Ctx) : (s.modCtx c f).regErr = s.regErr := rfl
@[simp] theorem modCtx_imgErr (s : State) (c : Nat) (f : Ctx → Ctx) : (s.modCtx c f).imgErr = s.imgErr := rfl
@[simp] theorem modCtx_sharing (s : State) (c : Nat) (f : Ctx → Ctx) : (s.modCtx c f).sharing = s.sharing := rfl
@[simp] theorem modCtx_sharingClear (s : State) (c : Nat) (f : Ctx → Ctx) : (s.modCtx c f).sharingClear = s.sharingClear := rfl
@[simp] theorem modCtx_hostLines (s : State) (c : Nat) (f : Ctx → Ctx) : (s.modCtx c f).hostLines = s.hostLines := rfl
@[simp] theorem modCtx_chans (s : State) (c : Nat) (f : Ctx → Ctx) : (s.modCtx c f).chans = s.chans := rfl
@[simp] theorem modCtx_scrap (s : State) (c : Nat) (f : Ctx → Ctx) : (s.modCtx c f).scrap = s.scrap := rfl
@[simp] theorem modCtx_mended (s : State) (c : Nat) (f : Ctx → Ctx) : (s.modCtx c f).mended = s.mended := rfl
@[simp] theorem modCtx_pinRate (s : State) (c : Nat) (f : Ctx → Ctx) : (s.modCtx c f).pinRate = s.pinRate := rfl
@[simp] theorem modCtx_mempwr (s : State) (c : Nat) (f : Ctx → Ctx) : (s.modCtx c f).mempwr = s.mempwr := rfl
@[simp] theorem modCtx_misses (s : State) (c : Nat) (f : Ctx → Ctx) : (s.modCtx c f).misses = s.misses := rfl
@[simp] theorem modCtx_walkAcre (s : State) (c : Nat) (f : Ctx → Ctx) : (s.modCtx c f).walkAcre = s.walkAcre := rfl
@[simp] theorem modCtx_walkCroft (s : State) (c : Nat) (f : Ctx → Ctx) : (s.modCtx c f).walkCroft = s.walkCroft := rfl
@[simp] theorem modCtx_walkLast (s : State) (c : Nat) (f : Ctx → Ctx) : (s.modCtx c f).walkLast = s.walkLast := rfl
@[simp] theorem modCtx_pkts (s : State) (c : Nat) (f : Ctx → Ctx) : (s.modCtx c f).pkts = s.pkts := rfl
@[simp] theorem modCtx_waits (s : State) (c : Nat) (f : Ctx → Ctx) : (s.modCtx c f).waits = s.waits := rfl
@[simp] theorem modCtx_staggers (s : State) (c : Nat) (f : Ctx → Ctx) : (s.modCtx c f).staggers = s.staggers := rfl
@[simp] theorem modCtx_ssu (s : State) (c : Nat) (f : Ctx → Ctx) : (s.modCtx c f).ssu = s.ssu := rfl
@[simp] theorem modCtx_migs (s : State) (c : Nat) (f : Ctx → Ctx) : (s.modCtx c f).migs = s.migs := rfl
@[simp] theorem modCtx_island (s : State) (c : Nat) (f : Ctx → Ctx) : (s.modCtx c f).island = s.island := rfl
@[simp] theorem modCtx_migReg (s : State) (c : Nat) (f : Ctx → Ctx) : (s.modCtx c f).migReg = s.migReg := rfl
@[simp] theorem modCtx_migTmo (s : State) (c : Nat) (f : Ctx → Ctx) : (s.modCtx c f).migTmo = s.migTmo := rfl
@[simp] theorem modCtx_cascDst (s : State) (c : Nat) (f : Ctx → Ctx) : (s.modCtx c f).cascDst = s.cascDst := rfl
@[simp] theorem modCtx_slew (s : State) (c : Nat) (f : Ctx → Ctx) : (s.modCtx c f).slew = s.slew := rfl
@[simp] theorem modCtx_phase0 (s : State) (c : Nat) (f : Ctx → Ctx) : (s.modCtx c f).phase0 = s.phase0 := rfl
@[simp] theorem modCtx_phase1 (s : State) (c : Nat) (f : Ctx → Ctx) : (s.modCtx c f).phase1 = s.phase1 := rfl
@[simp] theorem modCtx_therm (s : State) (c : Nat) (f : Ctx → Ctx) : (s.modCtx c f).therm = s.therm := rfl
@[simp] theorem modCtx_retRec (s : State) (c : Nat) (f : Ctx → Ctx) : (s.modCtx c f).retRec = s.retRec := rfl
@[simp] theorem modCtx_retTell (s : State) (c : Nat) (f : Ctx → Ctx) : (s.modCtx c f).retTell = s.retTell := rfl
@[simp] theorem modCtx_linkcfg (s : State) (c : Nat) (f : Ctx → Ctx) : (s.modCtx c f).linkcfg = s.linkcfg := rfl
@[simp] theorem modCtx_lroute (s : State) (c : Nat) (f : Ctx → Ctx) : (s.modCtx c f).lroute = s.lroute := rfl
@[simp] theorem modCtx_badLinks (s : State) (c : Nat) (f : Ctx → Ctx) : (s.modCtx c f).badLinks = s.badLinks := rfl
@[simp] theorem modCtx_bootStage (s : State) (c : Nat) (f : Ctx → Ctx) : (s.modCtx c f).bootStage = s.bootStage := rfl
@[simp] theorem modCtx_bootErr (s : State) (c : Nat) (f : Ctx → Ctx) : (s.modCtx c f).bootErr = s.bootErr := rfl
@[simp] theorem modCtx_meas (s : State) (c : Nat) (f : Ctx → Ctx) : (s.modCtx c f).meas = s.meas := rfl
@[simp] theorem modCtx_flash (s : State) (c : Nat) (f : Ctx → Ctx) : (s.modCtx c f).flash = s.flash := rfl
@[simp] theorem modCtx_power (s : State) (c : Nat) (f : Ctx → Ctx) : (s.modCtx c f).power = s.power := rfl
@[simp] theorem modCtx_time (s : State) (c : Nat) (f : Ctx → Ctx) : (s.modCtx c f).time = s.time := rfl
@[simp] theorem modCtx_reply (s : State) (c : Nat) (f : Ctx → Ctx) : (s.modCtx c f).reply = s.reply := rfl
@[simp] theorem modCtx_replyBad (s : State) (c : Nat) (f : Ctx → Ctx) : (s.modCtx c f).replyBad = s.replyBad := rfl
@[simp] theorem modCtx_agenda (s : State) (c : Nat) (f : Ctx → Ctx) : (s.modCtx c f).agenda = s.agenda := rfl
@[simp] theorem modCtx_steps (s : State) (c : Nat) (f : Ctx → Ctx) : (s.modCtx c f).steps = s.steps := rfl
@[simp] theorem modCtx_period (s : State) (c : Nat) (f : Ctx → Ctx) : (s.modCtx c f).period = s.period := rfl
@[simp] theorem modCtx_lent (s : State) (c : Nat) (f : Ctx → Ctx) : (s.modCtx c f).lent = s.lent := rfl
@[simp] theorem modCtx_nextUnit (s : State) (c : Nat) (f : Ctx → Ctx) : (s.modCtx c f).nextUnit = s.nextUnit := rfl
@[simp] theorem modCtx_cur (s : State) (c : Nat) (f : Ctx → Ctx) : (s.modCtx c f).cur = s.cur := rfl
@[simp] theorem modCtx_npc (s : State) (c : Nat) (f : Ctx → Ctx) : (s.modCtx c f).npc = s.npc := rfl
@[simp] theorem modCtx_fresh (s : State) (c : Nat) (f : Ctx → Ctx) : (s.modCtx c f).fresh = s.fresh := rfl
@[simp] theorem modCtx_ids (s : State) (c : Nat) (f : Ctx → Ctx) : (s.modCtx c f).ids = s.ids := rfl
@[simp] theorem modCtx_insn (s : State) (c : Nat) (f : Ctx → Ctx) : (s.modCtx c f).insn = s.insn := rfl
@[simp] theorem modCtx_arg (s : State) (c : Nat) (f : Ctx → Ctx) : (s.modCtx c f).arg = s.arg := rfl

@[simp] theorem modDir_ctxs (s : State) (c : Nat) (f : Dir → Dir) : (s.modDir c f).ctxs = s.ctxs := rfl
@[simp] theorem modDir_halted (s : State) (c : Nat) (f : Dir → Dir) : (s.modDir c f).halted = s.halted := rfl
@[simp] theorem modDir_units (s : State) (c : Nat) (f : Dir → Dir) : (s.modDir c f).units = s.units := rfl
@[simp] theorem modDir_clusters (s : State) (c : Nat) (f : Dir → Dir) : (s.modDir c f).clusters = s.clusters := rfl
@[simp] theorem modDir_parts (s : State) (c : Nat) (f : Dir → Dir) : (s.modDir c f).parts = s.parts := rfl
@[simp] theorem modDir_launches (s : State) (c : Nat) (f : Dir → Dir) : (s.modDir c f).launches = s.launches := rfl
@[simp] theorem modDir_mem (s : State) (c : Nat) (f : Dir → Dir) : (s.modDir c f).mem = s.mem := rfl
@[simp] theorem modDir_fe (s : State) (c : Nat) (f : Dir → Dir) : (s.modDir c f).fe = s.fe := rfl
@[simp] theorem modDir_tags (s : State) (c : Nat) (f : Dir → Dir) : (s.modDir c f).tags = s.tags := rfl
@[simp] theorem modDir_faded (s : State) (c : Nat) (f : Dir → Dir) : (s.modDir c f).faded = s.faded := rfl
@[simp] theorem modDir_memErr (s : State) (c : Nat) (f : Dir → Dir) : (s.modDir c f).memErr = s.memErr := rfl
@[simp] theorem modDir_tagErr (s : State) (c : Nat) (f : Dir → Dir) : (s.modDir c f).tagErr = s.tagErr := rfl
@[simp] theorem modDir_regErr (s : State) (c : Nat) (f : Dir → Dir) : (s.modDir c f).regErr = s.regErr := rfl
@[simp] theorem modDir_imgErr (s : State) (c : Nat) (f : Dir → Dir) : (s.modDir c f).imgErr = s.imgErr := rfl
@[simp] theorem modDir_sharing (s : State) (c : Nat) (f : Dir → Dir) : (s.modDir c f).sharing = s.sharing := rfl
@[simp] theorem modDir_sharingClear (s : State) (c : Nat) (f : Dir → Dir) : (s.modDir c f).sharingClear = s.sharingClear := rfl
@[simp] theorem modDir_hostLines (s : State) (c : Nat) (f : Dir → Dir) : (s.modDir c f).hostLines = s.hostLines := rfl
@[simp] theorem modDir_chans (s : State) (c : Nat) (f : Dir → Dir) : (s.modDir c f).chans = s.chans := rfl
@[simp] theorem modDir_scrap (s : State) (c : Nat) (f : Dir → Dir) : (s.modDir c f).scrap = s.scrap := rfl
@[simp] theorem modDir_mended (s : State) (c : Nat) (f : Dir → Dir) : (s.modDir c f).mended = s.mended := rfl
@[simp] theorem modDir_pinRate (s : State) (c : Nat) (f : Dir → Dir) : (s.modDir c f).pinRate = s.pinRate := rfl
@[simp] theorem modDir_mempwr (s : State) (c : Nat) (f : Dir → Dir) : (s.modDir c f).mempwr = s.mempwr := rfl
@[simp] theorem modDir_misses (s : State) (c : Nat) (f : Dir → Dir) : (s.modDir c f).misses = s.misses := rfl
@[simp] theorem modDir_walkAcre (s : State) (c : Nat) (f : Dir → Dir) : (s.modDir c f).walkAcre = s.walkAcre := rfl
@[simp] theorem modDir_walkCroft (s : State) (c : Nat) (f : Dir → Dir) : (s.modDir c f).walkCroft = s.walkCroft := rfl
@[simp] theorem modDir_walkLast (s : State) (c : Nat) (f : Dir → Dir) : (s.modDir c f).walkLast = s.walkLast := rfl
@[simp] theorem modDir_pkts (s : State) (c : Nat) (f : Dir → Dir) : (s.modDir c f).pkts = s.pkts := rfl
@[simp] theorem modDir_waits (s : State) (c : Nat) (f : Dir → Dir) : (s.modDir c f).waits = s.waits := rfl
@[simp] theorem modDir_staggers (s : State) (c : Nat) (f : Dir → Dir) : (s.modDir c f).staggers = s.staggers := rfl
@[simp] theorem modDir_ssu (s : State) (c : Nat) (f : Dir → Dir) : (s.modDir c f).ssu = s.ssu := rfl
@[simp] theorem modDir_migs (s : State) (c : Nat) (f : Dir → Dir) : (s.modDir c f).migs = s.migs := rfl
@[simp] theorem modDir_island (s : State) (c : Nat) (f : Dir → Dir) : (s.modDir c f).island = s.island := rfl
@[simp] theorem modDir_migReg (s : State) (c : Nat) (f : Dir → Dir) : (s.modDir c f).migReg = s.migReg := rfl
@[simp] theorem modDir_migTmo (s : State) (c : Nat) (f : Dir → Dir) : (s.modDir c f).migTmo = s.migTmo := rfl
@[simp] theorem modDir_cascDst (s : State) (c : Nat) (f : Dir → Dir) : (s.modDir c f).cascDst = s.cascDst := rfl
@[simp] theorem modDir_slew (s : State) (c : Nat) (f : Dir → Dir) : (s.modDir c f).slew = s.slew := rfl
@[simp] theorem modDir_phase0 (s : State) (c : Nat) (f : Dir → Dir) : (s.modDir c f).phase0 = s.phase0 := rfl
@[simp] theorem modDir_phase1 (s : State) (c : Nat) (f : Dir → Dir) : (s.modDir c f).phase1 = s.phase1 := rfl
@[simp] theorem modDir_therm (s : State) (c : Nat) (f : Dir → Dir) : (s.modDir c f).therm = s.therm := rfl
@[simp] theorem modDir_retRec (s : State) (c : Nat) (f : Dir → Dir) : (s.modDir c f).retRec = s.retRec := rfl
@[simp] theorem modDir_retTell (s : State) (c : Nat) (f : Dir → Dir) : (s.modDir c f).retTell = s.retTell := rfl
@[simp] theorem modDir_linkcfg (s : State) (c : Nat) (f : Dir → Dir) : (s.modDir c f).linkcfg = s.linkcfg := rfl
@[simp] theorem modDir_lroute (s : State) (c : Nat) (f : Dir → Dir) : (s.modDir c f).lroute = s.lroute := rfl
@[simp] theorem modDir_badLinks (s : State) (c : Nat) (f : Dir → Dir) : (s.modDir c f).badLinks = s.badLinks := rfl
@[simp] theorem modDir_bootStage (s : State) (c : Nat) (f : Dir → Dir) : (s.modDir c f).bootStage = s.bootStage := rfl
@[simp] theorem modDir_bootErr (s : State) (c : Nat) (f : Dir → Dir) : (s.modDir c f).bootErr = s.bootErr := rfl
@[simp] theorem modDir_meas (s : State) (c : Nat) (f : Dir → Dir) : (s.modDir c f).meas = s.meas := rfl
@[simp] theorem modDir_flash (s : State) (c : Nat) (f : Dir → Dir) : (s.modDir c f).flash = s.flash := rfl
@[simp] theorem modDir_power (s : State) (c : Nat) (f : Dir → Dir) : (s.modDir c f).power = s.power := rfl
@[simp] theorem modDir_time (s : State) (c : Nat) (f : Dir → Dir) : (s.modDir c f).time = s.time := rfl
@[simp] theorem modDir_reply (s : State) (c : Nat) (f : Dir → Dir) : (s.modDir c f).reply = s.reply := rfl
@[simp] theorem modDir_replyBad (s : State) (c : Nat) (f : Dir → Dir) : (s.modDir c f).replyBad = s.replyBad := rfl
@[simp] theorem modDir_agenda (s : State) (c : Nat) (f : Dir → Dir) : (s.modDir c f).agenda = s.agenda := rfl
@[simp] theorem modDir_steps (s : State) (c : Nat) (f : Dir → Dir) : (s.modDir c f).steps = s.steps := rfl
@[simp] theorem modDir_period (s : State) (c : Nat) (f : Dir → Dir) : (s.modDir c f).period = s.period := rfl
@[simp] theorem modDir_lent (s : State) (c : Nat) (f : Dir → Dir) : (s.modDir c f).lent = s.lent := rfl
@[simp] theorem modDir_nextUnit (s : State) (c : Nat) (f : Dir → Dir) : (s.modDir c f).nextUnit = s.nextUnit := rfl
@[simp] theorem modDir_cur (s : State) (c : Nat) (f : Dir → Dir) : (s.modDir c f).cur = s.cur := rfl
@[simp] theorem modDir_npc (s : State) (c : Nat) (f : Dir → Dir) : (s.modDir c f).npc = s.npc := rfl
@[simp] theorem modDir_fresh (s : State) (c : Nat) (f : Dir → Dir) : (s.modDir c f).fresh = s.fresh := rfl
@[simp] theorem modDir_ids (s : State) (c : Nat) (f : Dir → Dir) : (s.modDir c f).ids = s.ids := rfl
@[simp] theorem modDir_insn (s : State) (c : Nat) (f : Dir → Dir) : (s.modDir c f).insn = s.insn := rfl
@[simp] theorem modDir_arg (s : State) (c : Nat) (f : Dir → Dir) : (s.modDir c f).arg = s.arg := rfl

@[simp] theorem modUnit_ctxs (s : State) (c : Nat) (f : UnitSt → UnitSt) : (s.modUnit c f).ctxs = s.ctxs := rfl
@[simp] theorem modUnit_halted (s : State) (c : Nat) (f : UnitSt → UnitSt) : (s.modUnit c f).halted = s.halted := rfl
@[simp] theorem modUnit_dir (s : State) (c : Nat) (f : UnitSt → UnitSt) : (s.modUnit c f).dir = s.dir := rfl
@[simp] theorem modUnit_clusters (s : State) (c : Nat) (f : UnitSt → UnitSt) : (s.modUnit c f).clusters = s.clusters := rfl
@[simp] theorem modUnit_parts (s : State) (c : Nat) (f : UnitSt → UnitSt) : (s.modUnit c f).parts = s.parts := rfl
@[simp] theorem modUnit_launches (s : State) (c : Nat) (f : UnitSt → UnitSt) : (s.modUnit c f).launches = s.launches := rfl
@[simp] theorem modUnit_mem (s : State) (c : Nat) (f : UnitSt → UnitSt) : (s.modUnit c f).mem = s.mem := rfl
@[simp] theorem modUnit_fe (s : State) (c : Nat) (f : UnitSt → UnitSt) : (s.modUnit c f).fe = s.fe := rfl
@[simp] theorem modUnit_tags (s : State) (c : Nat) (f : UnitSt → UnitSt) : (s.modUnit c f).tags = s.tags := rfl
@[simp] theorem modUnit_faded (s : State) (c : Nat) (f : UnitSt → UnitSt) : (s.modUnit c f).faded = s.faded := rfl
@[simp] theorem modUnit_memErr (s : State) (c : Nat) (f : UnitSt → UnitSt) : (s.modUnit c f).memErr = s.memErr := rfl
@[simp] theorem modUnit_tagErr (s : State) (c : Nat) (f : UnitSt → UnitSt) : (s.modUnit c f).tagErr = s.tagErr := rfl
@[simp] theorem modUnit_regErr (s : State) (c : Nat) (f : UnitSt → UnitSt) : (s.modUnit c f).regErr = s.regErr := rfl
@[simp] theorem modUnit_imgErr (s : State) (c : Nat) (f : UnitSt → UnitSt) : (s.modUnit c f).imgErr = s.imgErr := rfl
@[simp] theorem modUnit_sharing (s : State) (c : Nat) (f : UnitSt → UnitSt) : (s.modUnit c f).sharing = s.sharing := rfl
@[simp] theorem modUnit_sharingClear (s : State) (c : Nat) (f : UnitSt → UnitSt) : (s.modUnit c f).sharingClear = s.sharingClear := rfl
@[simp] theorem modUnit_hostLines (s : State) (c : Nat) (f : UnitSt → UnitSt) : (s.modUnit c f).hostLines = s.hostLines := rfl
@[simp] theorem modUnit_chans (s : State) (c : Nat) (f : UnitSt → UnitSt) : (s.modUnit c f).chans = s.chans := rfl
@[simp] theorem modUnit_scrap (s : State) (c : Nat) (f : UnitSt → UnitSt) : (s.modUnit c f).scrap = s.scrap := rfl
@[simp] theorem modUnit_mended (s : State) (c : Nat) (f : UnitSt → UnitSt) : (s.modUnit c f).mended = s.mended := rfl
@[simp] theorem modUnit_pinRate (s : State) (c : Nat) (f : UnitSt → UnitSt) : (s.modUnit c f).pinRate = s.pinRate := rfl
@[simp] theorem modUnit_mempwr (s : State) (c : Nat) (f : UnitSt → UnitSt) : (s.modUnit c f).mempwr = s.mempwr := rfl
@[simp] theorem modUnit_misses (s : State) (c : Nat) (f : UnitSt → UnitSt) : (s.modUnit c f).misses = s.misses := rfl
@[simp] theorem modUnit_walkAcre (s : State) (c : Nat) (f : UnitSt → UnitSt) : (s.modUnit c f).walkAcre = s.walkAcre := rfl
@[simp] theorem modUnit_walkCroft (s : State) (c : Nat) (f : UnitSt → UnitSt) : (s.modUnit c f).walkCroft = s.walkCroft := rfl
@[simp] theorem modUnit_walkLast (s : State) (c : Nat) (f : UnitSt → UnitSt) : (s.modUnit c f).walkLast = s.walkLast := rfl
@[simp] theorem modUnit_pkts (s : State) (c : Nat) (f : UnitSt → UnitSt) : (s.modUnit c f).pkts = s.pkts := rfl
@[simp] theorem modUnit_waits (s : State) (c : Nat) (f : UnitSt → UnitSt) : (s.modUnit c f).waits = s.waits := rfl
@[simp] theorem modUnit_staggers (s : State) (c : Nat) (f : UnitSt → UnitSt) : (s.modUnit c f).staggers = s.staggers := rfl
@[simp] theorem modUnit_ssu (s : State) (c : Nat) (f : UnitSt → UnitSt) : (s.modUnit c f).ssu = s.ssu := rfl
@[simp] theorem modUnit_migs (s : State) (c : Nat) (f : UnitSt → UnitSt) : (s.modUnit c f).migs = s.migs := rfl
@[simp] theorem modUnit_island (s : State) (c : Nat) (f : UnitSt → UnitSt) : (s.modUnit c f).island = s.island := rfl
@[simp] theorem modUnit_migReg (s : State) (c : Nat) (f : UnitSt → UnitSt) : (s.modUnit c f).migReg = s.migReg := rfl
@[simp] theorem modUnit_migTmo (s : State) (c : Nat) (f : UnitSt → UnitSt) : (s.modUnit c f).migTmo = s.migTmo := rfl
@[simp] theorem modUnit_cascDst (s : State) (c : Nat) (f : UnitSt → UnitSt) : (s.modUnit c f).cascDst = s.cascDst := rfl
@[simp] theorem modUnit_slew (s : State) (c : Nat) (f : UnitSt → UnitSt) : (s.modUnit c f).slew = s.slew := rfl
@[simp] theorem modUnit_phase0 (s : State) (c : Nat) (f : UnitSt → UnitSt) : (s.modUnit c f).phase0 = s.phase0 := rfl
@[simp] theorem modUnit_phase1 (s : State) (c : Nat) (f : UnitSt → UnitSt) : (s.modUnit c f).phase1 = s.phase1 := rfl
@[simp] theorem modUnit_therm (s : State) (c : Nat) (f : UnitSt → UnitSt) : (s.modUnit c f).therm = s.therm := rfl
@[simp] theorem modUnit_retRec (s : State) (c : Nat) (f : UnitSt → UnitSt) : (s.modUnit c f).retRec = s.retRec := rfl
@[simp] theorem modUnit_retTell (s : State) (c : Nat) (f : UnitSt → UnitSt) : (s.modUnit c f).retTell = s.retTell := rfl
@[simp] theorem modUnit_linkcfg (s : State) (c : Nat) (f : UnitSt → UnitSt) : (s.modUnit c f).linkcfg = s.linkcfg := rfl
@[simp] theorem modUnit_lroute (s : State) (c : Nat) (f : UnitSt → UnitSt) : (s.modUnit c f).lroute = s.lroute := rfl
@[simp] theorem modUnit_badLinks (s : State) (c : Nat) (f : UnitSt → UnitSt) : (s.modUnit c f).badLinks = s.badLinks := rfl
@[simp] theorem modUnit_bootStage (s : State) (c : Nat) (f : UnitSt → UnitSt) : (s.modUnit c f).bootStage = s.bootStage := rfl
@[simp] theorem modUnit_bootErr (s : State) (c : Nat) (f : UnitSt → UnitSt) : (s.modUnit c f).bootErr = s.bootErr := rfl
@[simp] theorem modUnit_meas (s : State) (c : Nat) (f : UnitSt → UnitSt) : (s.modUnit c f).meas = s.meas := rfl
@[simp] theorem modUnit_flash (s : State) (c : Nat) (f : UnitSt → UnitSt) : (s.modUnit c f).flash = s.flash := rfl
@[simp] theorem modUnit_power (s : State) (c : Nat) (f : UnitSt → UnitSt) : (s.modUnit c f).power = s.power := rfl
@[simp] theorem modUnit_time (s : State) (c : Nat) (f : UnitSt → UnitSt) : (s.modUnit c f).time = s.time := rfl
@[simp] theorem modUnit_reply (s : State) (c : Nat) (f : UnitSt → UnitSt) : (s.modUnit c f).reply = s.reply := rfl
@[simp] theorem modUnit_replyBad (s : State) (c : Nat) (f : UnitSt → UnitSt) : (s.modUnit c f).replyBad = s.replyBad := rfl
@[simp] theorem modUnit_agenda (s : State) (c : Nat) (f : UnitSt → UnitSt) : (s.modUnit c f).agenda = s.agenda := rfl
@[simp] theorem modUnit_steps (s : State) (c : Nat) (f : UnitSt → UnitSt) : (s.modUnit c f).steps = s.steps := rfl
@[simp] theorem modUnit_period (s : State) (c : Nat) (f : UnitSt → UnitSt) : (s.modUnit c f).period = s.period := rfl
@[simp] theorem modUnit_lent (s : State) (c : Nat) (f : UnitSt → UnitSt) : (s.modUnit c f).lent = s.lent := rfl
@[simp] theorem modUnit_nextUnit (s : State) (c : Nat) (f : UnitSt → UnitSt) : (s.modUnit c f).nextUnit = s.nextUnit := rfl
@[simp] theorem modUnit_cur (s : State) (c : Nat) (f : UnitSt → UnitSt) : (s.modUnit c f).cur = s.cur := rfl
@[simp] theorem modUnit_npc (s : State) (c : Nat) (f : UnitSt → UnitSt) : (s.modUnit c f).npc = s.npc := rfl
@[simp] theorem modUnit_fresh (s : State) (c : Nat) (f : UnitSt → UnitSt) : (s.modUnit c f).fresh = s.fresh := rfl
@[simp] theorem modUnit_ids (s : State) (c : Nat) (f : UnitSt → UnitSt) : (s.modUnit c f).ids = s.ids := rfl
@[simp] theorem modUnit_insn (s : State) (c : Nat) (f : UnitSt → UnitSt) : (s.modUnit c f).insn = s.insn := rfl
@[simp] theorem modUnit_arg (s : State) (c : Nat) (f : UnitSt → UnitSt) : (s.modUnit c f).arg = s.arg := rfl

@[simp] theorem modCluster_ctxs (s : State) (c : Nat) (f : ClusterSt → ClusterSt) : (s.modCluster c f).ctxs = s.ctxs := rfl
@[simp] theorem modCluster_halted (s : State) (c : Nat) (f : ClusterSt → ClusterSt) : (s.modCluster c f).halted = s.halted := rfl
@[simp] theorem modCluster_dir (s : State) (c : Nat) (f : ClusterSt → ClusterSt) : (s.modCluster c f).dir = s.dir := rfl
@[simp] theorem modCluster_units (s : State) (c : Nat) (f : ClusterSt → ClusterSt) : (s.modCluster c f).units = s.units := rfl
@[simp] theorem modCluster_parts (s : State) (c : Nat) (f : ClusterSt → ClusterSt) : (s.modCluster c f).parts = s.parts := rfl
@[simp] theorem modCluster_launches (s : State) (c : Nat) (f : ClusterSt → ClusterSt) : (s.modCluster c f).launches = s.launches := rfl
@[simp] theorem modCluster_mem (s : State) (c : Nat) (f : ClusterSt → ClusterSt) : (s.modCluster c f).mem = s.mem := rfl
@[simp] theorem modCluster_fe (s : State) (c : Nat) (f : ClusterSt → ClusterSt) : (s.modCluster c f).fe = s.fe := rfl
@[simp] theorem modCluster_tags (s : State) (c : Nat) (f : ClusterSt → ClusterSt) : (s.modCluster c f).tags = s.tags := rfl
@[simp] theorem modCluster_faded (s : State) (c : Nat) (f : ClusterSt → ClusterSt) : (s.modCluster c f).faded = s.faded := rfl
@[simp] theorem modCluster_memErr (s : State) (c : Nat) (f : ClusterSt → ClusterSt) : (s.modCluster c f).memErr = s.memErr := rfl
@[simp] theorem modCluster_tagErr (s : State) (c : Nat) (f : ClusterSt → ClusterSt) : (s.modCluster c f).tagErr = s.tagErr := rfl
@[simp] theorem modCluster_regErr (s : State) (c : Nat) (f : ClusterSt → ClusterSt) : (s.modCluster c f).regErr = s.regErr := rfl
@[simp] theorem modCluster_imgErr (s : State) (c : Nat) (f : ClusterSt → ClusterSt) : (s.modCluster c f).imgErr = s.imgErr := rfl
@[simp] theorem modCluster_sharing (s : State) (c : Nat) (f : ClusterSt → ClusterSt) : (s.modCluster c f).sharing = s.sharing := rfl
@[simp] theorem modCluster_sharingClear (s : State) (c : Nat) (f : ClusterSt → ClusterSt) : (s.modCluster c f).sharingClear = s.sharingClear := rfl
@[simp] theorem modCluster_hostLines (s : State) (c : Nat) (f : ClusterSt → ClusterSt) : (s.modCluster c f).hostLines = s.hostLines := rfl
@[simp] theorem modCluster_chans (s : State) (c : Nat) (f : ClusterSt → ClusterSt) : (s.modCluster c f).chans = s.chans := rfl
@[simp] theorem modCluster_scrap (s : State) (c : Nat) (f : ClusterSt → ClusterSt) : (s.modCluster c f).scrap = s.scrap := rfl
@[simp] theorem modCluster_mended (s : State) (c : Nat) (f : ClusterSt → ClusterSt) : (s.modCluster c f).mended = s.mended := rfl
@[simp] theorem modCluster_pinRate (s : State) (c : Nat) (f : ClusterSt → ClusterSt) : (s.modCluster c f).pinRate = s.pinRate := rfl
@[simp] theorem modCluster_mempwr (s : State) (c : Nat) (f : ClusterSt → ClusterSt) : (s.modCluster c f).mempwr = s.mempwr := rfl
@[simp] theorem modCluster_misses (s : State) (c : Nat) (f : ClusterSt → ClusterSt) : (s.modCluster c f).misses = s.misses := rfl
@[simp] theorem modCluster_walkAcre (s : State) (c : Nat) (f : ClusterSt → ClusterSt) : (s.modCluster c f).walkAcre = s.walkAcre := rfl
@[simp] theorem modCluster_walkCroft (s : State) (c : Nat) (f : ClusterSt → ClusterSt) : (s.modCluster c f).walkCroft = s.walkCroft := rfl
@[simp] theorem modCluster_walkLast (s : State) (c : Nat) (f : ClusterSt → ClusterSt) : (s.modCluster c f).walkLast = s.walkLast := rfl
@[simp] theorem modCluster_pkts (s : State) (c : Nat) (f : ClusterSt → ClusterSt) : (s.modCluster c f).pkts = s.pkts := rfl
@[simp] theorem modCluster_waits (s : State) (c : Nat) (f : ClusterSt → ClusterSt) : (s.modCluster c f).waits = s.waits := rfl
@[simp] theorem modCluster_staggers (s : State) (c : Nat) (f : ClusterSt → ClusterSt) : (s.modCluster c f).staggers = s.staggers := rfl
@[simp] theorem modCluster_ssu (s : State) (c : Nat) (f : ClusterSt → ClusterSt) : (s.modCluster c f).ssu = s.ssu := rfl
@[simp] theorem modCluster_migs (s : State) (c : Nat) (f : ClusterSt → ClusterSt) : (s.modCluster c f).migs = s.migs := rfl
@[simp] theorem modCluster_island (s : State) (c : Nat) (f : ClusterSt → ClusterSt) : (s.modCluster c f).island = s.island := rfl
@[simp] theorem modCluster_migReg (s : State) (c : Nat) (f : ClusterSt → ClusterSt) : (s.modCluster c f).migReg = s.migReg := rfl
@[simp] theorem modCluster_migTmo (s : State) (c : Nat) (f : ClusterSt → ClusterSt) : (s.modCluster c f).migTmo = s.migTmo := rfl
@[simp] theorem modCluster_cascDst (s : State) (c : Nat) (f : ClusterSt → ClusterSt) : (s.modCluster c f).cascDst = s.cascDst := rfl
@[simp] theorem modCluster_slew (s : State) (c : Nat) (f : ClusterSt → ClusterSt) : (s.modCluster c f).slew = s.slew := rfl
@[simp] theorem modCluster_phase0 (s : State) (c : Nat) (f : ClusterSt → ClusterSt) : (s.modCluster c f).phase0 = s.phase0 := rfl
@[simp] theorem modCluster_phase1 (s : State) (c : Nat) (f : ClusterSt → ClusterSt) : (s.modCluster c f).phase1 = s.phase1 := rfl
@[simp] theorem modCluster_therm (s : State) (c : Nat) (f : ClusterSt → ClusterSt) : (s.modCluster c f).therm = s.therm := rfl
@[simp] theorem modCluster_retRec (s : State) (c : Nat) (f : ClusterSt → ClusterSt) : (s.modCluster c f).retRec = s.retRec := rfl
@[simp] theorem modCluster_retTell (s : State) (c : Nat) (f : ClusterSt → ClusterSt) : (s.modCluster c f).retTell = s.retTell := rfl
@[simp] theorem modCluster_linkcfg (s : State) (c : Nat) (f : ClusterSt → ClusterSt) : (s.modCluster c f).linkcfg = s.linkcfg := rfl
@[simp] theorem modCluster_lroute (s : State) (c : Nat) (f : ClusterSt → ClusterSt) : (s.modCluster c f).lroute = s.lroute := rfl
@[simp] theorem modCluster_badLinks (s : State) (c : Nat) (f : ClusterSt → ClusterSt) : (s.modCluster c f).badLinks = s.badLinks := rfl
@[simp] theorem modCluster_bootStage (s : State) (c : Nat) (f : ClusterSt → ClusterSt) : (s.modCluster c f).bootStage = s.bootStage := rfl
@[simp] theorem modCluster_bootErr (s : State) (c : Nat) (f : ClusterSt → ClusterSt) : (s.modCluster c f).bootErr = s.bootErr := rfl
@[simp] theorem modCluster_meas (s : State) (c : Nat) (f : ClusterSt → ClusterSt) : (s.modCluster c f).meas = s.meas := rfl
@[simp] theorem modCluster_flash (s : State) (c : Nat) (f : ClusterSt → ClusterSt) : (s.modCluster c f).flash = s.flash := rfl
@[simp] theorem modCluster_power (s : State) (c : Nat) (f : ClusterSt → ClusterSt) : (s.modCluster c f).power = s.power := rfl
@[simp] theorem modCluster_time (s : State) (c : Nat) (f : ClusterSt → ClusterSt) : (s.modCluster c f).time = s.time := rfl
@[simp] theorem modCluster_reply (s : State) (c : Nat) (f : ClusterSt → ClusterSt) : (s.modCluster c f).reply = s.reply := rfl
@[simp] theorem modCluster_replyBad (s : State) (c : Nat) (f : ClusterSt → ClusterSt) : (s.modCluster c f).replyBad = s.replyBad := rfl
@[simp] theorem modCluster_agenda (s : State) (c : Nat) (f : ClusterSt → ClusterSt) : (s.modCluster c f).agenda = s.agenda := rfl
@[simp] theorem modCluster_steps (s : State) (c : Nat) (f : ClusterSt → ClusterSt) : (s.modCluster c f).steps = s.steps := rfl
@[simp] theorem modCluster_period (s : State) (c : Nat) (f : ClusterSt → ClusterSt) : (s.modCluster c f).period = s.period := rfl
@[simp] theorem modCluster_lent (s : State) (c : Nat) (f : ClusterSt → ClusterSt) : (s.modCluster c f).lent = s.lent := rfl
@[simp] theorem modCluster_nextUnit (s : State) (c : Nat) (f : ClusterSt → ClusterSt) : (s.modCluster c f).nextUnit = s.nextUnit := rfl
@[simp] theorem modCluster_cur (s : State) (c : Nat) (f : ClusterSt → ClusterSt) : (s.modCluster c f).cur = s.cur := rfl
@[simp] theorem modCluster_npc (s : State) (c : Nat) (f : ClusterSt → ClusterSt) : (s.modCluster c f).npc = s.npc := rfl
@[simp] theorem modCluster_fresh (s : State) (c : Nat) (f : ClusterSt → ClusterSt) : (s.modCluster c f).fresh = s.fresh := rfl
@[simp] theorem modCluster_ids (s : State) (c : Nat) (f : ClusterSt → ClusterSt) : (s.modCluster c f).ids = s.ids := rfl
@[simp] theorem modCluster_insn (s : State) (c : Nat) (f : ClusterSt → ClusterSt) : (s.modCluster c f).insn = s.insn := rfl
@[simp] theorem modCluster_arg (s : State) (c : Nat) (f : ClusterSt → ClusterSt) : (s.modCluster c f).arg = s.arg := rfl

@[simp] theorem modPart_ctxs (s : State) (c : Nat) (f : PartSt → PartSt) : (s.modPart c f).ctxs = s.ctxs := rfl
@[simp] theorem modPart_halted (s : State) (c : Nat) (f : PartSt → PartSt) : (s.modPart c f).halted = s.halted := rfl
@[simp] theorem modPart_dir (s : State) (c : Nat) (f : PartSt → PartSt) : (s.modPart c f).dir = s.dir := rfl
@[simp] theorem modPart_units (s : State) (c : Nat) (f : PartSt → PartSt) : (s.modPart c f).units = s.units := rfl
@[simp] theorem modPart_clusters (s : State) (c : Nat) (f : PartSt → PartSt) : (s.modPart c f).clusters = s.clusters := rfl
@[simp] theorem modPart_launches (s : State) (c : Nat) (f : PartSt → PartSt) : (s.modPart c f).launches = s.launches := rfl
@[simp] theorem modPart_mem (s : State) (c : Nat) (f : PartSt → PartSt) : (s.modPart c f).mem = s.mem := rfl
@[simp] theorem modPart_fe (s : State) (c : Nat) (f : PartSt → PartSt) : (s.modPart c f).fe = s.fe := rfl
@[simp] theorem modPart_tags (s : State) (c : Nat) (f : PartSt → PartSt) : (s.modPart c f).tags = s.tags := rfl
@[simp] theorem modPart_faded (s : State) (c : Nat) (f : PartSt → PartSt) : (s.modPart c f).faded = s.faded := rfl
@[simp] theorem modPart_memErr (s : State) (c : Nat) (f : PartSt → PartSt) : (s.modPart c f).memErr = s.memErr := rfl
@[simp] theorem modPart_tagErr (s : State) (c : Nat) (f : PartSt → PartSt) : (s.modPart c f).tagErr = s.tagErr := rfl
@[simp] theorem modPart_regErr (s : State) (c : Nat) (f : PartSt → PartSt) : (s.modPart c f).regErr = s.regErr := rfl
@[simp] theorem modPart_imgErr (s : State) (c : Nat) (f : PartSt → PartSt) : (s.modPart c f).imgErr = s.imgErr := rfl
@[simp] theorem modPart_sharing (s : State) (c : Nat) (f : PartSt → PartSt) : (s.modPart c f).sharing = s.sharing := rfl
@[simp] theorem modPart_sharingClear (s : State) (c : Nat) (f : PartSt → PartSt) : (s.modPart c f).sharingClear = s.sharingClear := rfl
@[simp] theorem modPart_hostLines (s : State) (c : Nat) (f : PartSt → PartSt) : (s.modPart c f).hostLines = s.hostLines := rfl
@[simp] theorem modPart_chans (s : State) (c : Nat) (f : PartSt → PartSt) : (s.modPart c f).chans = s.chans := rfl
@[simp] theorem modPart_scrap (s : State) (c : Nat) (f : PartSt → PartSt) : (s.modPart c f).scrap = s.scrap := rfl
@[simp] theorem modPart_mended (s : State) (c : Nat) (f : PartSt → PartSt) : (s.modPart c f).mended = s.mended := rfl
@[simp] theorem modPart_pinRate (s : State) (c : Nat) (f : PartSt → PartSt) : (s.modPart c f).pinRate = s.pinRate := rfl
@[simp] theorem modPart_mempwr (s : State) (c : Nat) (f : PartSt → PartSt) : (s.modPart c f).mempwr = s.mempwr := rfl
@[simp] theorem modPart_misses (s : State) (c : Nat) (f : PartSt → PartSt) : (s.modPart c f).misses = s.misses := rfl
@[simp] theorem modPart_walkAcre (s : State) (c : Nat) (f : PartSt → PartSt) : (s.modPart c f).walkAcre = s.walkAcre := rfl
@[simp] theorem modPart_walkCroft (s : State) (c : Nat) (f : PartSt → PartSt) : (s.modPart c f).walkCroft = s.walkCroft := rfl
@[simp] theorem modPart_walkLast (s : State) (c : Nat) (f : PartSt → PartSt) : (s.modPart c f).walkLast = s.walkLast := rfl
@[simp] theorem modPart_pkts (s : State) (c : Nat) (f : PartSt → PartSt) : (s.modPart c f).pkts = s.pkts := rfl
@[simp] theorem modPart_waits (s : State) (c : Nat) (f : PartSt → PartSt) : (s.modPart c f).waits = s.waits := rfl
@[simp] theorem modPart_staggers (s : State) (c : Nat) (f : PartSt → PartSt) : (s.modPart c f).staggers = s.staggers := rfl
@[simp] theorem modPart_ssu (s : State) (c : Nat) (f : PartSt → PartSt) : (s.modPart c f).ssu = s.ssu := rfl
@[simp] theorem modPart_migs (s : State) (c : Nat) (f : PartSt → PartSt) : (s.modPart c f).migs = s.migs := rfl
@[simp] theorem modPart_island (s : State) (c : Nat) (f : PartSt → PartSt) : (s.modPart c f).island = s.island := rfl
@[simp] theorem modPart_migReg (s : State) (c : Nat) (f : PartSt → PartSt) : (s.modPart c f).migReg = s.migReg := rfl
@[simp] theorem modPart_migTmo (s : State) (c : Nat) (f : PartSt → PartSt) : (s.modPart c f).migTmo = s.migTmo := rfl
@[simp] theorem modPart_cascDst (s : State) (c : Nat) (f : PartSt → PartSt) : (s.modPart c f).cascDst = s.cascDst := rfl
@[simp] theorem modPart_slew (s : State) (c : Nat) (f : PartSt → PartSt) : (s.modPart c f).slew = s.slew := rfl
@[simp] theorem modPart_phase0 (s : State) (c : Nat) (f : PartSt → PartSt) : (s.modPart c f).phase0 = s.phase0 := rfl
@[simp] theorem modPart_phase1 (s : State) (c : Nat) (f : PartSt → PartSt) : (s.modPart c f).phase1 = s.phase1 := rfl
@[simp] theorem modPart_therm (s : State) (c : Nat) (f : PartSt → PartSt) : (s.modPart c f).therm = s.therm := rfl
@[simp] theorem modPart_retRec (s : State) (c : Nat) (f : PartSt → PartSt) : (s.modPart c f).retRec = s.retRec := rfl
@[simp] theorem modPart_retTell (s : State) (c : Nat) (f : PartSt → PartSt) : (s.modPart c f).retTell = s.retTell := rfl
@[simp] theorem modPart_linkcfg (s : State) (c : Nat) (f : PartSt → PartSt) : (s.modPart c f).linkcfg = s.linkcfg := rfl
@[simp] theorem modPart_lroute (s : State) (c : Nat) (f : PartSt → PartSt) : (s.modPart c f).lroute = s.lroute := rfl
@[simp] theorem modPart_badLinks (s : State) (c : Nat) (f : PartSt → PartSt) : (s.modPart c f).badLinks = s.badLinks := rfl
@[simp] theorem modPart_bootStage (s : State) (c : Nat) (f : PartSt → PartSt) : (s.modPart c f).bootStage = s.bootStage := rfl
@[simp] theorem modPart_bootErr (s : State) (c : Nat) (f : PartSt → PartSt) : (s.modPart c f).bootErr = s.bootErr := rfl
@[simp] theorem modPart_meas (s : State) (c : Nat) (f : PartSt → PartSt) : (s.modPart c f).meas = s.meas := rfl
@[simp] theorem modPart_flash (s : State) (c : Nat) (f : PartSt → PartSt) : (s.modPart c f).flash = s.flash := rfl
@[simp] theorem modPart_power (s : State) (c : Nat) (f : PartSt → PartSt) : (s.modPart c f).power = s.power := rfl
@[simp] theorem modPart_time (s : State) (c : Nat) (f : PartSt → PartSt) : (s.modPart c f).time = s.time := rfl
@[simp] theorem modPart_reply (s : State) (c : Nat) (f : PartSt → PartSt) : (s.modPart c f).reply = s.reply := rfl
@[simp] theorem modPart_replyBad (s : State) (c : Nat) (f : PartSt → PartSt) : (s.modPart c f).replyBad = s.replyBad := rfl
@[simp] theorem modPart_agenda (s : State) (c : Nat) (f : PartSt → PartSt) : (s.modPart c f).agenda = s.agenda := rfl
@[simp] theorem modPart_steps (s : State) (c : Nat) (f : PartSt → PartSt) : (s.modPart c f).steps = s.steps := rfl
@[simp] theorem modPart_period (s : State) (c : Nat) (f : PartSt → PartSt) : (s.modPart c f).period = s.period := rfl
@[simp] theorem modPart_lent (s : State) (c : Nat) (f : PartSt → PartSt) : (s.modPart c f).lent = s.lent := rfl
@[simp] theorem modPart_nextUnit (s : State) (c : Nat) (f : PartSt → PartSt) : (s.modPart c f).nextUnit = s.nextUnit := rfl
@[simp] theorem modPart_cur (s : State) (c : Nat) (f : PartSt → PartSt) : (s.modPart c f).cur = s.cur := rfl
@[simp] theorem modPart_npc (s : State) (c : Nat) (f : PartSt → PartSt) : (s.modPart c f).npc = s.npc := rfl
@[simp] theorem modPart_fresh (s : State) (c : Nat) (f : PartSt → PartSt) : (s.modPart c f).fresh = s.fresh := rfl
@[simp] theorem modPart_ids (s : State) (c : Nat) (f : PartSt → PartSt) : (s.modPart c f).ids = s.ids := rfl
@[simp] theorem modPart_insn (s : State) (c : Nat) (f : PartSt → PartSt) : (s.modPart c f).insn = s.insn := rfl
@[simp] theorem modPart_arg (s : State) (c : Nat) (f : PartSt → PartSt) : (s.modPart c f).arg = s.arg := rfl

@[simp] theorem dirE_setCtx (s : State) (c : Nat) (x : Ctx) (k : Nat) : (s.setCtx c x).dirE k = s.dirE k := rfl
@[simp] theorem unit_setCtx (s : State) (c : Nat) (x : Ctx) (k : Nat) : (s.setCtx c x).unit k = s.unit k := rfl
@[simp] theorem cluster_setCtx (s : State) (c : Nat) (x : Ctx) (k : Nat) : (s.setCtx c x).cluster k = s.cluster k := rfl
@[simp] theorem part_setCtx (s : State) (c : Nat) (x : Ctx) (k : Nat) : (s.setCtx c x).part k = s.part k := rfl
@[simp] theorem dirE_modCtx (s : State) (c : Nat) (f : Ctx → Ctx) (k : Nat) : (s.modCtx c f).dirE k = s.dirE k := rfl
@[simp] theorem unit_modCtx (s : State) (c : Nat) (f : Ctx → Ctx) (k : Nat) : (s.modCtx c f).unit k = s.unit k := rfl
@[simp] theorem cluster_modCtx (s : State) (c : Nat) (f : Ctx → Ctx) (k : Nat) : (s.modCtx c f).cluster k = s.cluster k := rfl
@[simp] theorem part_modCtx (s : State) (c : Nat) (f : Ctx → Ctx) (k : Nat) : (s.modCtx c f).part k = s.part k := rfl
@[simp] theorem ctx_modDir (s : State) (c : Nat) (f : Dir → Dir) (k : Nat) : (s.modDir c f).ctx k = s.ctx k := rfl
@[simp] theorem unit_modDir (s : State) (c : Nat) (f : Dir → Dir) (k : Nat) : (s.modDir c f).unit k = s.unit k := rfl
@[simp] theorem cluster_modDir (s : State) (c : Nat) (f : Dir → Dir) (k : Nat) : (s.modDir c f).cluster k = s.cluster k := rfl
@[simp] theorem part_modDir (s : State) (c : Nat) (f : Dir → Dir) (k : Nat) : (s.modDir c f).part k = s.part k := rfl
@[simp] theorem ctx_modUnit (s : State) (c : Nat) (f : UnitSt → UnitSt) (k : Nat) : (s.modUnit c f).ctx k = s.ctx k := rfl
@[simp] theorem dirE_modUnit (s : State) (c : Nat) (f : UnitSt → UnitSt) (k : Nat) : (s.modUnit c f).dirE k = s.dirE k := rfl
@[simp] theorem cluster_modUnit (s : State) (c : Nat) (f : UnitSt → UnitSt) (k : Nat) : (s.modUnit c f).cluster k = s.cluster k := rfl
@[simp] theorem part_modUnit (s : State) (c : Nat) (f : UnitSt → UnitSt) (k : Nat) : (s.modUnit c f).part k = s.part k := rfl
@[simp] theorem ctx_modCluster (s : State) (c : Nat) (f : ClusterSt → ClusterSt) (k : Nat) : (s.modCluster c f).ctx k = s.ctx k := rfl
@[simp] theorem dirE_modCluster (s : State) (c : Nat) (f : ClusterSt → ClusterSt) (k : Nat) : (s.modCluster c f).dirE k = s.dirE k := rfl
@[simp] theorem unit_modCluster (s : State) (c : Nat) (f : ClusterSt → ClusterSt) (k : Nat) : (s.modCluster c f).unit k = s.unit k := rfl
@[simp] theorem part_modCluster (s : State) (c : Nat) (f : ClusterSt → ClusterSt) (k : Nat) : (s.modCluster c f).part k = s.part k := rfl
@[simp] theorem ctx_modPart (s : State) (c : Nat) (f : PartSt → PartSt) (k : Nat) : (s.modPart c f).ctx k = s.ctx k := rfl
@[simp] theorem dirE_modPart (s : State) (c : Nat) (f : PartSt → PartSt) (k : Nat) : (s.modPart c f).dirE k = s.dirE k := rfl
@[simp] theorem unit_modPart (s : State) (c : Nat) (f : PartSt → PartSt) (k : Nat) : (s.modPart c f).unit k = s.unit k := rfl
@[simp] theorem cluster_modPart (s : State) (c : Nat) (f : PartSt → PartSt) (k : Nat) : (s.modPart c f).cluster k = s.cluster k := rfl

/-! ### A context's updates, field by field -/

@[simp] theorem csrSet_sreg (x : Ctx) (n : Nat) (v : Word) : (x.csrSet n v).sreg = x.sreg := rfl
@[simp] theorem csrSet_sFull (x : Ctx) (n : Nat) (v : Word) : (x.csrSet n v).sFull = x.sFull := rfl
@[simp] theorem csrSet_wins (x : Ctx) (n : Nat) (v : Word) : (x.csrSet n v).wins = x.wins := rfl
@[simp] theorem csrSet_mreg (x : Ctx) (n : Nat) (v : Word) : (x.csrSet n v).mreg = x.mreg := rfl
@[simp] theorem csrSet_mFull (x : Ctx) (n : Nat) (v : Word) : (x.csrSet n v).mFull = x.mFull := rfl
@[simp] theorem csrSet_vreg (x : Ctx) (n : Nat) (v : Word) : (x.csrSet n v).vreg = x.vreg := rfl
@[simp] theorem csrSet_vFull (x : Ctx) (n : Nat) (v : Word) : (x.csrSet n v).vFull = x.vFull := rfl
@[simp] theorem csrSet_kreg (x : Ctx) (n : Nat) (v : Word) : (x.csrSet n v).kreg = x.kreg := rfl
@[simp] theorem csrSet_areg (x : Ctx) (n : Nat) (v : Word) : (x.csrSet n v).areg = x.areg := rfl
@[simp] theorem csrSet_aInt (x : Ctx) (n : Nat) (v : Word) : (x.csrSet n v).aInt = x.aInt := rfl
@[simp] theorem csrSet_aFull (x : Ctx) (n : Nat) (v : Word) : (x.csrSet n v).aFull = x.aFull := rfl
@[simp] theorem csrSet_hreg (x : Ctx) (n : Nat) (v : Word) : (x.csrSet n v).hreg = x.hreg := rfl
@[simp] theorem csrSet_cb (x : Ctx) (n : Nat) (v : Word) : (x.csrSet n v).cb = x.cb := rfl
@[simp] theorem csrSet_ports (x : Ctx) (n : Nat) (v : Word) : (x.csrSet n v).ports = x.ports := rfl
@[simp] theorem csrSet_pc (x : Ctx) (n : Nat) (v : Word) : (x.csrSet n v).pc = x.pc := rfl
@[simp] theorem csrSet_grp (x : Ctx) (n : Nat) (v : Word) : (x.csrSet n v).grp = x.grp := rfl
@[simp] theorem csrSet_asn (x : Ctx) (n : Nat) (v : Word) : (x.csrSet n v).asn = x.asn := rfl
@[simp] theorem csrSet_sup (x : Ctx) (n : Nat) (v : Word) : (x.csrSet n v).sup = x.sup := rfl
@[simp] theorem csrSet_ovr (x : Ctx) (n : Nat) (v : Word) : (x.csrSet n v).ovr = x.ovr := rfl
@[simp] theorem csrSet_dq (x : Ctx) (n : Nat) (v : Word) : (x.csrSet n v).dq = x.dq := rfl
@[simp] theorem csrSet_outst (x : Ctx) (n : Nat) (v : Word) : (x.csrSet n v).outst = x.outst := rfl
@[simp] theorem csrSet_results (x : Ctx) (n : Nat) (v : Word) : (x.csrSet n v).results = x.results := rfl
@[simp] theorem csrSet_trec (x : Ctx) (n : Nat) (v : Word) : (x.csrSet n v).trec = x.trec := rfl
@[simp] theorem csrSet_held (x : Ctx) (n : Nat) (v : Word) : (x.csrSet n v).held = x.held := rfl
@[simp] theorem csrSet_frozen (x : Ctx) (n : Nat) (v : Word) : (x.csrSet n v).frozen = x.frozen := rfl
@[simp] theorem csrSet_task (x : Ctx) (n : Nat) (v : Word) : (x.csrSet n v).task = x.task := rfl
@[simp] theorem csrSet_barr (x : Ctx) (n : Nat) (v : Word) : (x.csrSet n v).barr = x.barr := rfl
@[simp] theorem csrSet_wdcnt (x : Ctx) (n : Nat) (v : Word) : (x.csrSet n v).wdcnt = x.wdcnt := rfl
@[simp] theorem csrSet_lcka (x : Ctx) (n : Nat) (v : Word) : (x.csrSet n v).lcka = x.lcka := rfl
@[simp] theorem csrSet_ckdue (x : Ctx) (n : Nat) (v : Word) : (x.csrSet n v).ckdue = x.ckdue := rfl
@[simp] theorem csrSet_ckseq (x : Ctx) (n : Nat) (v : Word) : (x.csrSet n v).ckseq = x.ckseq := rfl
@[simp] theorem csrSet_wait (x : Ctx) (n : Nat) (v : Word) : (x.csrSet n v).wait = x.wait := rfl
@[simp] theorem csrSet_got (x : Ctx) (n : Nat) (v : Word) : (x.csrSet n v).got = x.got := rfl
@[simp] theorem csrGet_csrSet (x : Ctx) (n : Nat) (v : Word) : (x.csrSet n v).csrGet n = v := mget_mset ..
theorem csrGet_csrSet_ne {x : Ctx} {n k : Nat} {v : Word} (h : k ≠ n) : (x.csrSet n v).csrGet k = x.csrGet k := mget_mset_ne h

@[simp] theorem setS_wins (x : Ctx) (i : Nat) (v : Word) : (x.setS i v).wins = x.wins := by unfold Ctx.setS; split <;> rfl
@[simp] theorem setS_mreg (x : Ctx) (i : Nat) (v : Word) : (x.setS i v).mreg = x.mreg := by unfold Ctx.setS; split <;> rfl
@[simp] theorem setS_mFull (x : Ctx) (i : Nat) (v : Word) : (x.setS i v).mFull = x.mFull := by unfold Ctx.setS; split <;> rfl
@[simp] theorem setS_vreg (x : Ctx) (i : Nat) (v : Word) : (x.setS i v).vreg = x.vreg := by unfold Ctx.setS; split <;> rfl
@[simp] theorem setS_vFull (x : Ctx) (i : Nat) (v : Word) : (x.setS i v).vFull = x.vFull := by unfold Ctx.setS; split <;> rfl
@[simp] theorem setS_kreg (x : Ctx) (i : Nat) (v : Word) : (x.setS i v).kreg = x.kreg := by unfold Ctx.setS; split <;> rfl
@[simp] theorem setS_areg (x : Ctx) (i : Nat) (v : Word) : (x.setS i v).areg = x.areg := by unfold Ctx.setS; split <;> rfl
@[simp] theorem setS_aInt (x : Ctx) (i : Nat) (v : Word) : (x.setS i v).aInt = x.aInt := by unfold Ctx.setS; split <;> rfl
@[simp] theorem setS_aFull (x : Ctx) (i : Nat) (v : Word) : (x.setS i v).aFull = x.aFull := by unfold Ctx.setS; split <;> rfl
@[simp] theorem setS_hreg (x : Ctx) (i : Nat) (v : Word) : (x.setS i v).hreg = x.hreg := by unfold Ctx.setS; split <;> rfl
@[simp] theorem setS_cb (x : Ctx) (i : Nat) (v : Word) : (x.setS i v).cb = x.cb := by unfold Ctx.setS; split <;> rfl
@[simp] theorem setS_ports (x : Ctx) (i : Nat) (v : Word) : (x.setS i v).ports = x.ports := by unfold Ctx.setS; split <;> rfl
@[simp] theorem setS_pc (x : Ctx) (i : Nat) (v : Word) : (x.setS i v).pc = x.pc := by unfold Ctx.setS; split <;> rfl
@[simp] theorem setS_grp (x : Ctx) (i : Nat) (v : Word) : (x.setS i v).grp = x.grp := by unfold Ctx.setS; split <;> rfl
@[simp] theorem setS_asn (x : Ctx) (i : Nat) (v : Word) : (x.setS i v).asn = x.asn := by unfold Ctx.setS; split <;> rfl
@[simp] theorem setS_sup (x : Ctx) (i : Nat) (v : Word) : (x.setS i v).sup = x.sup := by unfold Ctx.setS; split <;> rfl
@[simp] theorem setS_csr (x : Ctx) (i : Nat) (v : Word) : (x.setS i v).csr = x.csr := by unfold Ctx.setS; split <;> rfl
@[simp] theorem setS_ovr (x : Ctx) (i : Nat) (v : Word) : (x.setS i v).ovr = x.ovr := by unfold Ctx.setS; split <;> rfl
@[simp] theorem setS_dq (x : Ctx) (i : Nat) (v : Word) : (x.setS i v).dq = x.dq := by unfold Ctx.setS; split <;> rfl
@[simp] theorem setS_outst (x : Ctx) (i : Nat) (v : Word) : (x.setS i v).outst = x.outst := by unfold Ctx.setS; split <;> rfl
@[simp] theorem setS_results (x : Ctx) (i : Nat) (v : Word) : (x.setS i v).results = x.results := by unfold Ctx.setS; split <;> rfl
@[simp] theorem setS_trec (x : Ctx) (i : Nat) (v : Word) : (x.setS i v).trec = x.trec := by unfold Ctx.setS; split <;> rfl
@[simp] theorem setS_held (x : Ctx) (i : Nat) (v : Word) : (x.setS i v).held = x.held := by unfold Ctx.setS; split <;> rfl
@[simp] theorem setS_frozen (x : Ctx) (i : Nat) (v : Word) : (x.setS i v).frozen = x.frozen := by unfold Ctx.setS; split <;> rfl
@[simp] theorem setS_task (x : Ctx) (i : Nat) (v : Word) : (x.setS i v).task = x.task := by unfold Ctx.setS; split <;> rfl
@[simp] theorem setS_barr (x : Ctx) (i : Nat) (v : Word) : (x.setS i v).barr = x.barr := by unfold Ctx.setS; split <;> rfl
@[simp] theorem setS_wdcnt (x : Ctx) (i : Nat) (v : Word) : (x.setS i v).wdcnt = x.wdcnt := by unfold Ctx.setS; split <;> rfl
@[simp] theorem setS_lcka (x : Ctx) (i : Nat) (v : Word) : (x.setS i v).lcka = x.lcka := by unfold Ctx.setS; split <;> rfl
@[simp] theorem setS_ckdue (x : Ctx) (i : Nat) (v : Word) : (x.setS i v).ckdue = x.ckdue := by unfold Ctx.setS; split <;> rfl
@[simp] theorem setS_ckseq (x : Ctx) (i : Nat) (v : Word) : (x.setS i v).ckseq = x.ckseq := by unfold Ctx.setS; split <;> rfl
@[simp] theorem setS_wait (x : Ctx) (i : Nat) (v : Word) : (x.setS i v).wait = x.wait := by unfold Ctx.setS; split <;> rfl
@[simp] theorem setS_got (x : Ctx) (i : Nat) (v : Word) : (x.setS i v).got = x.got := by unfold Ctx.setS; split <;> rfl
/-- A written register reads as written; s0 reads zero. -/
theorem s_setS (x : Ctx) (i : Nat) (v : Word) : (x.setS i v).s i = if i = 0 then 0 else v := by
  unfold Ctx.s Ctx.setS
  split
  · rfl
  · simp
theorem s_setS_ne {x : Ctx} {i j : Nat} {v : Word} (h : j ≠ i) : (x.setS i v).s j = x.s j := by
  unfold Ctx.s Ctx.setS
  by_cases hj : j = 0
  · simp [hj]
  · by_cases hi : i = 0
    · simp [hi]
    · simp [hi, hj, mget_mset_ne h]
@[simp] theorem setS_csrGet (x : Ctx) (i : Nat) (v : Word) (n : Nat) : (x.setS i v).csrGet n = x.csrGet n := by simp [Ctx.csrGet]
@[simp] theorem accrue_s (x : Ctx) (f i : Nat) : (x.accrue f).s i = x.s i := by unfold Ctx.accrue; split <;> rfl
@[simp] theorem accrue_sreg (x : Ctx) (f : Nat) : (x.accrue f).sreg = x.sreg := by unfold Ctx.accrue; split <;> rfl
@[simp] theorem accrue_sFull (x : Ctx) (f : Nat) : (x.accrue f).sFull = x.sFull := by unfold Ctx.accrue; split <;> rfl
@[simp] theorem accrue_wins (x : Ctx) (f : Nat) : (x.accrue f).wins = x.wins := by unfold Ctx.accrue; split <;> rfl
@[simp] theorem accrue_mreg (x : Ctx) (f : Nat) : (x.accrue f).mreg = x.mreg := by unfold Ctx.accrue; split <;> rfl
@[simp] theorem accrue_mFull (x : Ctx) (f : Nat) : (x.accrue f).mFull = x.mFull := by unfold Ctx.accrue; split <;> rfl
@[simp] theorem accrue_vreg (x : Ctx) (f : Nat) : (x.accrue f).vreg = x.vreg := by unfold Ctx.accrue; split <;> rfl
@[simp] theorem accrue_vFull (x : Ctx) (f : Nat) : (x.accrue f).vFull = x.vFull := by unfold Ctx.accrue; split <;> rfl
@[simp] theorem accrue_kreg (x : Ctx) (f : Nat) : (x.accrue f).kreg = x.kreg := by unfold Ctx.accrue; split <;> rfl
@[simp] theorem accrue_areg (x : Ctx) (f : Nat) : (x.accrue f).areg = x.areg := by unfold Ctx.accrue; split <;> rfl
@[simp] theorem accrue_aInt (x : Ctx) (f : Nat) : (x.accrue f).aInt = x.aInt := by unfold Ctx.accrue; split <;> rfl
@[simp] theorem accrue_aFull (x : Ctx) (f : Nat) : (x.accrue f).aFull = x.aFull := by unfold Ctx.accrue; split <;> rfl
@[simp] theorem accrue_hreg (x : Ctx) (f : Nat) : (x.accrue f).hreg = x.hreg := by unfold Ctx.accrue; split <;> rfl
@[simp] theorem accrue_cb (x : Ctx) (f : Nat) : (x.accrue f).cb = x.cb := by unfold Ctx.accrue; split <;> rfl
@[simp] theorem accrue_ports (x : Ctx) (f : Nat) : (x.accrue f).ports = x.ports := by unfold Ctx.accrue; split <;> rfl
@[simp] theorem accrue_pc (x : Ctx) (f : Nat) : (x.accrue f).pc = x.pc := by unfold Ctx.accrue; split <;> rfl
@[simp] theorem accrue_grp (x : Ctx) (f : Nat) : (x.accrue f).grp = x.grp := by unfold Ctx.accrue; split <;> rfl
@[simp] theorem accrue_asn (x : Ctx) (f : Nat) : (x.accrue f).asn = x.asn := by unfold Ctx.accrue; split <;> rfl
@[simp] theorem accrue_sup (x : Ctx) (f : Nat) : (x.accrue f).sup = x.sup := by unfold Ctx.accrue; split <;> rfl
@[simp] theorem accrue_ovr (x : Ctx) (f : Nat) : (x.accrue f).ovr = x.ovr := by unfold Ctx.accrue; split <;> rfl
@[simp] theorem accrue_dq (x : Ctx) (f : Nat) : (x.accrue f).dq = x.dq := by unfold Ctx.accrue; split <;> rfl
@[simp] theorem accrue_outst (x : Ctx) (f : Nat) : (x.accrue f).outst = x.outst := by unfold Ctx.accrue; split <;> rfl
@[simp] theorem accrue_results (x : Ctx) (f : Nat) : (x.accrue f).results = x.results := by unfold Ctx.accrue; split <;> rfl
@[simp] theorem accrue_trec (x : Ctx) (f : Nat) : (x.accrue f).trec = x.trec := by unfold Ctx.accrue; split <;> rfl
@[simp] theorem accrue_held (x : Ctx) (f : Nat) : (x.accrue f).held = x.held := by unfold Ctx.accrue; split <;> rfl
@[simp] theorem accrue_frozen (x : Ctx) (f : Nat) : (x.accrue f).frozen = x.frozen := by unfold Ctx.accrue; split <;> rfl
@[simp] theorem accrue_task (x : Ctx) (f : Nat) : (x.accrue f).task = x.task := by unfold Ctx.accrue; split <;> rfl
@[simp] theorem accrue_barr (x : Ctx) (f : Nat) : (x.accrue f).barr = x.barr := by unfold Ctx.accrue; split <;> rfl
@[simp] theorem accrue_wdcnt (x : Ctx) (f : Nat) : (x.accrue f).wdcnt = x.wdcnt := by unfold Ctx.accrue; split <;> rfl
@[simp] theorem accrue_lcka (x : Ctx) (f : Nat) : (x.accrue f).lcka = x.lcka := by unfold Ctx.accrue; split <;> rfl
@[simp] theorem accrue_ckdue (x : Ctx) (f : Nat) : (x.accrue f).ckdue = x.ckdue := by unfold Ctx.accrue; split <;> rfl
@[simp] theorem accrue_ckseq (x : Ctx) (f : Nat) : (x.accrue f).ckseq = x.ckseq := by unfold Ctx.accrue; split <;> rfl
@[simp] theorem accrue_wait (x : Ctx) (f : Nat) : (x.accrue f).wait = x.wait := by unfold Ctx.accrue; split <;> rfl
@[simp] theorem accrue_got (x : Ctx) (f : Nat) : (x.accrue f).got = x.got := by unfold Ctx.accrue; split <;> rfl

/-! ### Memory's updates, field by field -/

@[simp] theorem dropHost_ctxs (s : State) (a n : Nat) : (s.dropHost a n).ctxs = s.ctxs := by unfold State.dropHost; split <;> rfl
@[simp] theorem dropHost_halted (s : State) (a n : Nat) : (s.dropHost a n).halted = s.halted := by unfold State.dropHost; split <;> rfl
@[simp] theorem dropHost_dir (s : State) (a n : Nat) : (s.dropHost a n).dir = s.dir := by unfold State.dropHost; split <;> rfl
@[simp] theorem dropHost_units (s : State) (a n : Nat) : (s.dropHost a n).units = s.units := by unfold State.dropHost; split <;> rfl
@[simp] theorem dropHost_clusters (s : State) (a n : Nat) : (s.dropHost a n).clusters = s.clusters := by unfold State.dropHost; split <;> rfl
@[simp] theorem dropHost_parts (s : State) (a n : Nat) : (s.dropHost a n).parts = s.parts := by unfold State.dropHost; split <;> rfl
@[simp] theorem dropHost_launches (s : State) (a n : Nat) : (s.dropHost a n).launches = s.launches := by unfold State.dropHost; split <;> rfl
@[simp] theorem dropHost_mem (s : State) (a n : Nat) : (s.dropHost a n).mem = s.mem := by unfold State.dropHost; split <;> rfl
@[simp] theorem dropHost_fe (s : State) (a n : Nat) : (s.dropHost a n).fe = s.fe := by unfold State.dropHost; split <;> rfl
@[simp] theorem dropHost_tags (s : State) (a n : Nat) : (s.dropHost a n).tags = s.tags := by unfold State.dropHost; split <;> rfl
@[simp] theorem dropHost_faded (s : State) (a n : Nat) : (s.dropHost a n).faded = s.faded := by unfold State.dropHost; split <;> rfl
@[simp] theorem dropHost_memErr (s : State) (a n : Nat) : (s.dropHost a n).memErr = s.memErr := by unfold State.dropHost; split <;> rfl
@[simp] theorem dropHost_tagErr (s : State) (a n : Nat) : (s.dropHost a n).tagErr = s.tagErr := by unfold State.dropHost; split <;> rfl
@[simp] theorem dropHost_regErr (s : State) (a n : Nat) : (s.dropHost a n).regErr = s.regErr := by unfold State.dropHost; split <;> rfl
@[simp] theorem dropHost_imgErr (s : State) (a n : Nat) : (s.dropHost a n).imgErr = s.imgErr := by unfold State.dropHost; split <;> rfl
@[simp] theorem dropHost_sharing (s : State) (a n : Nat) : (s.dropHost a n).sharing = s.sharing := by unfold State.dropHost; split <;> rfl
@[simp] theorem dropHost_sharingClear (s : State) (a n : Nat) : (s.dropHost a n).sharingClear = s.sharingClear := by unfold State.dropHost; split <;> rfl
@[simp] theorem dropHost_chans (s : State) (a n : Nat) : (s.dropHost a n).chans = s.chans := by unfold State.dropHost; split <;> rfl
@[simp] theorem dropHost_scrap (s : State) (a n : Nat) : (s.dropHost a n).scrap = s.scrap := by unfold State.dropHost; split <;> rfl
@[simp] theorem dropHost_mended (s : State) (a n : Nat) : (s.dropHost a n).mended = s.mended := by unfold State.dropHost; split <;> rfl
@[simp] theorem dropHost_pinRate (s : State) (a n : Nat) : (s.dropHost a n).pinRate = s.pinRate := by unfold State.dropHost; split <;> rfl
@[simp] theorem dropHost_mempwr (s : State) (a n : Nat) : (s.dropHost a n).mempwr = s.mempwr := by unfold State.dropHost; split <;> rfl
@[simp] theorem dropHost_misses (s : State) (a n : Nat) : (s.dropHost a n).misses = s.misses := by unfold State.dropHost; split <;> rfl
@[simp] theorem dropHost_walkAcre (s : State) (a n : Nat) : (s.dropHost a n).walkAcre = s.walkAcre := by unfold State.dropHost; split <;> rfl
@[simp] theorem dropHost_walkCroft (s : State) (a n : Nat) : (s.dropHost a n).walkCroft = s.walkCroft := by unfold State.dropHost; split <;> rfl
@[simp] theorem dropHost_walkLast (s : State) (a n : Nat) : (s.dropHost a n).walkLast = s.walkLast := by unfold State.dropHost; split <;> rfl
@[simp] theorem dropHost_pkts (s : State) (a n : Nat) : (s.dropHost a n).pkts = s.pkts := by unfold State.dropHost; split <;> rfl
@[simp] theorem dropHost_waits (s : State) (a n : Nat) : (s.dropHost a n).waits = s.waits := by unfold State.dropHost; split <;> rfl
@[simp] theorem dropHost_staggers (s : State) (a n : Nat) : (s.dropHost a n).staggers = s.staggers := by unfold State.dropHost; split <;> rfl
@[simp] theorem dropHost_ssu (s : State) (a n : Nat) : (s.dropHost a n).ssu = s.ssu := by unfold State.dropHost; split <;> rfl
@[simp] theorem dropHost_migs (s : State) (a n : Nat) : (s.dropHost a n).migs = s.migs := by unfold State.dropHost; split <;> rfl
@[simp] theorem dropHost_island (s : State) (a n : Nat) : (s.dropHost a n).island = s.island := by unfold State.dropHost; split <;> rfl
@[simp] theorem dropHost_migReg (s : State) (a n : Nat) : (s.dropHost a n).migReg = s.migReg := by unfold State.dropHost; split <;> rfl
@[simp] theorem dropHost_migTmo (s : State) (a n : Nat) : (s.dropHost a n).migTmo = s.migTmo := by unfold State.dropHost; split <;> rfl
@[simp] theorem dropHost_cascDst (s : State) (a n : Nat) : (s.dropHost a n).cascDst = s.cascDst := by unfold State.dropHost; split <;> rfl
@[simp] theorem dropHost_slew (s : State) (a n : Nat) : (s.dropHost a n).slew = s.slew := by unfold State.dropHost; split <;> rfl
@[simp] theorem dropHost_phase0 (s : State) (a n : Nat) : (s.dropHost a n).phase0 = s.phase0 := by unfold State.dropHost; split <;> rfl
@[simp] theorem dropHost_phase1 (s : State) (a n : Nat) : (s.dropHost a n).phase1 = s.phase1 := by unfold State.dropHost; split <;> rfl
@[simp] theorem dropHost_therm (s : State) (a n : Nat) : (s.dropHost a n).therm = s.therm := by unfold State.dropHost; split <;> rfl
@[simp] theorem dropHost_retRec (s : State) (a n : Nat) : (s.dropHost a n).retRec = s.retRec := by unfold State.dropHost; split <;> rfl
@[simp] theorem dropHost_retTell (s : State) (a n : Nat) : (s.dropHost a n).retTell = s.retTell := by unfold State.dropHost; split <;> rfl
@[simp] theorem dropHost_linkcfg (s : State) (a n : Nat) : (s.dropHost a n).linkcfg = s.linkcfg := by unfold State.dropHost; split <;> rfl
@[simp] theorem dropHost_lroute (s : State) (a n : Nat) : (s.dropHost a n).lroute = s.lroute := by unfold State.dropHost; split <;> rfl
@[simp] theorem dropHost_badLinks (s : State) (a n : Nat) : (s.dropHost a n).badLinks = s.badLinks := by unfold State.dropHost; split <;> rfl
@[simp] theorem dropHost_bootStage (s : State) (a n : Nat) : (s.dropHost a n).bootStage = s.bootStage := by unfold State.dropHost; split <;> rfl
@[simp] theorem dropHost_bootErr (s : State) (a n : Nat) : (s.dropHost a n).bootErr = s.bootErr := by unfold State.dropHost; split <;> rfl
@[simp] theorem dropHost_meas (s : State) (a n : Nat) : (s.dropHost a n).meas = s.meas := by unfold State.dropHost; split <;> rfl
@[simp] theorem dropHost_flash (s : State) (a n : Nat) : (s.dropHost a n).flash = s.flash := by unfold State.dropHost; split <;> rfl
@[simp] theorem dropHost_power (s : State) (a n : Nat) : (s.dropHost a n).power = s.power := by unfold State.dropHost; split <;> rfl
@[simp] theorem dropHost_time (s : State) (a n : Nat) : (s.dropHost a n).time = s.time := by unfold State.dropHost; split <;> rfl
@[simp] theorem dropHost_reply (s : State) (a n : Nat) : (s.dropHost a n).reply = s.reply := by unfold State.dropHost; split <;> rfl
@[simp] theorem dropHost_replyBad (s : State) (a n : Nat) : (s.dropHost a n).replyBad = s.replyBad := by unfold State.dropHost; split <;> rfl
@[simp] theorem dropHost_agenda (s : State) (a n : Nat) : (s.dropHost a n).agenda = s.agenda := by unfold State.dropHost; split <;> rfl
@[simp] theorem dropHost_steps (s : State) (a n : Nat) : (s.dropHost a n).steps = s.steps := by unfold State.dropHost; split <;> rfl
@[simp] theorem dropHost_period (s : State) (a n : Nat) : (s.dropHost a n).period = s.period := by unfold State.dropHost; split <;> rfl
@[simp] theorem dropHost_lent (s : State) (a n : Nat) : (s.dropHost a n).lent = s.lent := by unfold State.dropHost; split <;> rfl
@[simp] theorem dropHost_nextUnit (s : State) (a n : Nat) : (s.dropHost a n).nextUnit = s.nextUnit := by unfold State.dropHost; split <;> rfl
@[simp] theorem dropHost_cur (s : State) (a n : Nat) : (s.dropHost a n).cur = s.cur := by unfold State.dropHost; split <;> rfl
@[simp] theorem dropHost_npc (s : State) (a n : Nat) : (s.dropHost a n).npc = s.npc := by unfold State.dropHost; split <;> rfl
@[simp] theorem dropHost_fresh (s : State) (a n : Nat) : (s.dropHost a n).fresh = s.fresh := by unfold State.dropHost; split <;> rfl
@[simp] theorem dropHost_ids (s : State) (a n : Nat) : (s.dropHost a n).ids = s.ids := by unfold State.dropHost; split <;> rfl
@[simp] theorem dropHost_insn (s : State) (a n : Nat) : (s.dropHost a n).insn = s.insn := by unfold State.dropHost; split <;> rfl
@[simp] theorem dropHost_arg (s : State) (a n : Nat) : (s.dropHost a n).arg = s.arg := by unfold State.dropHost; split <;> rfl
@[simp] theorem pokeRaw_ctxs (s : State) (a n x : Nat) : (s.pokeRaw a n x).ctxs = s.ctxs := dropHost_ctxs ..
@[simp] theorem pokeRaw_halted (s : State) (a n x : Nat) : (s.pokeRaw a n x).halted = s.halted := dropHost_halted ..
@[simp] theorem pokeRaw_dir (s : State) (a n x : Nat) : (s.pokeRaw a n x).dir = s.dir := dropHost_dir ..
@[simp] theorem pokeRaw_units (s : State) (a n x : Nat) : (s.pokeRaw a n x).units = s.units := dropHost_units ..
@[simp] theorem pokeRaw_clusters (s : State) (a n x : Nat) : (s.pokeRaw a n x).clusters = s.clusters := dropHost_clusters ..
@[simp] theorem pokeRaw_parts (s : State) (a n x : Nat) : (s.pokeRaw a n x).parts = s.parts := dropHost_parts ..
@[simp] theorem pokeRaw_launches (s : State) (a n x : Nat) : (s.pokeRaw a n x).launches = s.launches := dropHost_launches ..
@[simp] theorem pokeRaw_fe (s : State) (a n x : Nat) : (s.pokeRaw a n x).fe = s.fe := dropHost_fe ..
@[simp] theorem pokeRaw_tags (s : State) (a n x : Nat) : (s.pokeRaw a n x).tags = s.tags := dropHost_tags ..
@[simp] theorem pokeRaw_faded (s : State) (a n x : Nat) : (s.pokeRaw a n x).faded = s.faded := dropHost_faded ..
@[simp] theorem pokeRaw_memErr (s : State) (a n x : Nat) : (s.pokeRaw a n x).memErr = s.memErr := dropHost_memErr ..
@[simp] theorem pokeRaw_tagErr (s : State) (a n x : Nat) : (s.pokeRaw a n x).tagErr = s.tagErr := dropHost_tagErr ..
@[simp] theorem pokeRaw_regErr (s : State) (a n x : Nat) : (s.pokeRaw a n x).regErr = s.regErr := dropHost_regErr ..
@[simp] theorem pokeRaw_imgErr (s : State) (a n x : Nat) : (s.pokeRaw a n x).imgErr = s.imgErr := dropHost_imgErr ..
@[simp] theorem pokeRaw_sharing (s : State) (a n x : Nat) : (s.pokeRaw a n x).sharing = s.sharing := dropHost_sharing ..
@[simp] theorem pokeRaw_sharingClear (s : State) (a n x : Nat) : (s.pokeRaw a n x).sharingClear = s.sharingClear := dropHost_sharingClear ..
@[simp] theorem pokeRaw_chans (s : State) (a n x : Nat) : (s.pokeRaw a n x).chans = s.chans := dropHost_chans ..
@[simp] theorem pokeRaw_scrap (s : State) (a n x : Nat) : (s.pokeRaw a n x).scrap = s.scrap := dropHost_scrap ..
@[simp] theorem pokeRaw_mended (s : State) (a n x : Nat) : (s.pokeRaw a n x).mended = s.mended := dropHost_mended ..
@[simp] theorem pokeRaw_pinRate (s : State) (a n x : Nat) : (s.pokeRaw a n x).pinRate = s.pinRate := dropHost_pinRate ..
@[simp] theorem pokeRaw_mempwr (s : State) (a n x : Nat) : (s.pokeRaw a n x).mempwr = s.mempwr := dropHost_mempwr ..
@[simp] theorem pokeRaw_misses (s : State) (a n x : Nat) : (s.pokeRaw a n x).misses = s.misses := dropHost_misses ..
@[simp] theorem pokeRaw_walkAcre (s : State) (a n x : Nat) : (s.pokeRaw a n x).walkAcre = s.walkAcre := dropHost_walkAcre ..
@[simp] theorem pokeRaw_walkCroft (s : State) (a n x : Nat) : (s.pokeRaw a n x).walkCroft = s.walkCroft := dropHost_walkCroft ..
@[simp] theorem pokeRaw_walkLast (s : State) (a n x : Nat) : (s.pokeRaw a n x).walkLast = s.walkLast := dropHost_walkLast ..
@[simp] theorem pokeRaw_pkts (s : State) (a n x : Nat) : (s.pokeRaw a n x).pkts = s.pkts := dropHost_pkts ..
@[simp] theorem pokeRaw_waits (s : State) (a n x : Nat) : (s.pokeRaw a n x).waits = s.waits := dropHost_waits ..
@[simp] theorem pokeRaw_staggers (s : State) (a n x : Nat) : (s.pokeRaw a n x).staggers = s.staggers := dropHost_staggers ..
@[simp] theorem pokeRaw_ssu (s : State) (a n x : Nat) : (s.pokeRaw a n x).ssu = s.ssu := dropHost_ssu ..
@[simp] theorem pokeRaw_migs (s : State) (a n x : Nat) : (s.pokeRaw a n x).migs = s.migs := dropHost_migs ..
@[simp] theorem pokeRaw_island (s : State) (a n x : Nat) : (s.pokeRaw a n x).island = s.island := dropHost_island ..
@[simp] theorem pokeRaw_migReg (s : State) (a n x : Nat) : (s.pokeRaw a n x).migReg = s.migReg := dropHost_migReg ..
@[simp] theorem pokeRaw_migTmo (s : State) (a n x : Nat) : (s.pokeRaw a n x).migTmo = s.migTmo := dropHost_migTmo ..
@[simp] theorem pokeRaw_cascDst (s : State) (a n x : Nat) : (s.pokeRaw a n x).cascDst = s.cascDst := dropHost_cascDst ..
@[simp] theorem pokeRaw_slew (s : State) (a n x : Nat) : (s.pokeRaw a n x).slew = s.slew := dropHost_slew ..
@[simp] theorem pokeRaw_phase0 (s : State) (a n x : Nat) : (s.pokeRaw a n x).phase0 = s.phase0 := dropHost_phase0 ..
@[simp] theorem pokeRaw_phase1 (s : State) (a n x : Nat) : (s.pokeRaw a n x).phase1 = s.phase1 := dropHost_phase1 ..
@[simp] theorem pokeRaw_therm (s : State) (a n x : Nat) : (s.pokeRaw a n x).therm = s.therm := dropHost_therm ..
@[simp] theorem pokeRaw_retRec (s : State) (a n x : Nat) : (s.pokeRaw a n x).retRec = s.retRec := dropHost_retRec ..
@[simp] theorem pokeRaw_retTell (s : State) (a n x : Nat) : (s.pokeRaw a n x).retTell = s.retTell := dropHost_retTell ..
@[simp] theorem pokeRaw_linkcfg (s : State) (a n x : Nat) : (s.pokeRaw a n x).linkcfg = s.linkcfg := dropHost_linkcfg ..
@[simp] theorem pokeRaw_lroute (s : State) (a n x : Nat) : (s.pokeRaw a n x).lroute = s.lroute := dropHost_lroute ..
@[simp] theorem pokeRaw_badLinks (s : State) (a n x : Nat) : (s.pokeRaw a n x).badLinks = s.badLinks := dropHost_badLinks ..
@[simp] theorem pokeRaw_bootStage (s : State) (a n x : Nat) : (s.pokeRaw a n x).bootStage = s.bootStage := dropHost_bootStage ..
@[simp] theorem pokeRaw_bootErr (s : State) (a n x : Nat) : (s.pokeRaw a n x).bootErr = s.bootErr := dropHost_bootErr ..
@[simp] theorem pokeRaw_meas (s : State) (a n x : Nat) : (s.pokeRaw a n x).meas = s.meas := dropHost_meas ..
@[simp] theorem pokeRaw_flash (s : State) (a n x : Nat) : (s.pokeRaw a n x).flash = s.flash := dropHost_flash ..
@[simp] theorem pokeRaw_power (s : State) (a n x : Nat) : (s.pokeRaw a n x).power = s.power := dropHost_power ..
@[simp] theorem pokeRaw_time (s : State) (a n x : Nat) : (s.pokeRaw a n x).time = s.time := dropHost_time ..
@[simp] theorem pokeRaw_reply (s : State) (a n x : Nat) : (s.pokeRaw a n x).reply = s.reply := dropHost_reply ..
@[simp] theorem pokeRaw_replyBad (s : State) (a n x : Nat) : (s.pokeRaw a n x).replyBad = s.replyBad := dropHost_replyBad ..
@[simp] theorem pokeRaw_agenda (s : State) (a n x : Nat) : (s.pokeRaw a n x).agenda = s.agenda := dropHost_agenda ..
@[simp] theorem pokeRaw_steps (s : State) (a n x : Nat) : (s.pokeRaw a n x).steps = s.steps := dropHost_steps ..
@[simp] theorem pokeRaw_period (s : State) (a n x : Nat) : (s.pokeRaw a n x).period = s.period := dropHost_period ..
@[simp] theorem pokeRaw_lent (s : State) (a n x : Nat) : (s.pokeRaw a n x).lent = s.lent := dropHost_lent ..
@[simp] theorem pokeRaw_nextUnit (s : State) (a n x : Nat) : (s.pokeRaw a n x).nextUnit = s.nextUnit := dropHost_nextUnit ..
@[simp] theorem pokeRaw_cur (s : State) (a n x : Nat) : (s.pokeRaw a n x).cur = s.cur := dropHost_cur ..
@[simp] theorem pokeRaw_npc (s : State) (a n x : Nat) : (s.pokeRaw a n x).npc = s.npc := dropHost_npc ..
@[simp] theorem pokeRaw_fresh (s : State) (a n x : Nat) : (s.pokeRaw a n x).fresh = s.fresh := dropHost_fresh ..
@[simp] theorem pokeRaw_ids (s : State) (a n x : Nat) : (s.pokeRaw a n x).ids = s.ids := dropHost_ids ..
@[simp] theorem pokeRaw_insn (s : State) (a n x : Nat) : (s.pokeRaw a n x).insn = s.insn := dropHost_insn ..
@[simp] theorem pokeRaw_arg (s : State) (a n x : Nat) : (s.pokeRaw a n x).arg = s.arg := dropHost_arg ..
@[simp] theorem setFe_ctxs (s : State) (a : Nat) (b : Bool) : (s.setFe a b).ctxs = s.ctxs := rfl
@[simp] theorem setFe_halted (s : State) (a : Nat) (b : Bool) : (s.setFe a b).halted = s.halted := rfl
@[simp] theorem setFe_dir (s : State) (a : Nat) (b : Bool) : (s.setFe a b).dir = s.dir := rfl
@[simp] theorem setFe_units (s : State) (a : Nat) (b : Bool) : (s.setFe a b).units = s.units := rfl
@[simp] theorem setFe_clusters (s : State) (a : Nat) (b : Bool) : (s.setFe a b).clusters = s.clusters := rfl
@[simp] theorem setFe_parts (s : State) (a : Nat) (b : Bool) : (s.setFe a b).parts = s.parts := rfl
@[simp] theorem setFe_launches (s : State) (a : Nat) (b : Bool) : (s.setFe a b).launches = s.launches := rfl
@[simp] theorem setFe_mem (s : State) (a : Nat) (b : Bool) : (s.setFe a b).mem = s.mem := rfl
@[simp] theorem setFe_tags (s : State) (a : Nat) (b : Bool) : (s.setFe a b).tags = s.tags := rfl
@[simp] theorem setFe_faded (s : State) (a : Nat) (b : Bool) : (s.setFe a b).faded = s.faded := rfl
@[simp] theorem setFe_memErr (s : State) (a : Nat) (b : Bool) : (s.setFe a b).memErr = s.memErr := rfl
@[simp] theorem setFe_tagErr (s : State) (a : Nat) (b : Bool) : (s.setFe a b).tagErr = s.tagErr := rfl
@[simp] theorem setFe_regErr (s : State) (a : Nat) (b : Bool) : (s.setFe a b).regErr = s.regErr := rfl
@[simp] theorem setFe_imgErr (s : State) (a : Nat) (b : Bool) : (s.setFe a b).imgErr = s.imgErr := rfl
@[simp] theorem setFe_sharing (s : State) (a : Nat) (b : Bool) : (s.setFe a b).sharing = s.sharing := rfl
@[simp] theorem setFe_sharingClear (s : State) (a : Nat) (b : Bool) : (s.setFe a b).sharingClear = s.sharingClear := rfl
@[simp] theorem setFe_hostLines (s : State) (a : Nat) (b : Bool) : (s.setFe a b).hostLines = s.hostLines := rfl
@[simp] theorem setFe_chans (s : State) (a : Nat) (b : Bool) : (s.setFe a b).chans = s.chans := rfl
@[simp] theorem setFe_scrap (s : State) (a : Nat) (b : Bool) : (s.setFe a b).scrap = s.scrap := rfl
@[simp] theorem setFe_mended (s : State) (a : Nat) (b : Bool) : (s.setFe a b).mended = s.mended := rfl
@[simp] theorem setFe_pinRate (s : State) (a : Nat) (b : Bool) : (s.setFe a b).pinRate = s.pinRate := rfl
@[simp] theorem setFe_mempwr (s : State) (a : Nat) (b : Bool) : (s.setFe a b).mempwr = s.mempwr := rfl
@[simp] theorem setFe_misses (s : State) (a : Nat) (b : Bool) : (s.setFe a b).misses = s.misses := rfl
@[simp] theorem setFe_walkAcre (s : State) (a : Nat) (b : Bool) : (s.setFe a b).walkAcre = s.walkAcre := rfl
@[simp] theorem setFe_walkCroft (s : State) (a : Nat) (b : Bool) : (s.setFe a b).walkCroft = s.walkCroft := rfl
@[simp] theorem setFe_walkLast (s : State) (a : Nat) (b : Bool) : (s.setFe a b).walkLast = s.walkLast := rfl
@[simp] theorem setFe_pkts (s : State) (a : Nat) (b : Bool) : (s.setFe a b).pkts = s.pkts := rfl
@[simp] theorem setFe_waits (s : State) (a : Nat) (b : Bool) : (s.setFe a b).waits = s.waits := rfl
@[simp] theorem setFe_staggers (s : State) (a : Nat) (b : Bool) : (s.setFe a b).staggers = s.staggers := rfl
@[simp] theorem setFe_ssu (s : State) (a : Nat) (b : Bool) : (s.setFe a b).ssu = s.ssu := rfl
@[simp] theorem setFe_migs (s : State) (a : Nat) (b : Bool) : (s.setFe a b).migs = s.migs := rfl
@[simp] theorem setFe_island (s : State) (a : Nat) (b : Bool) : (s.setFe a b).island = s.island := rfl
@[simp] theorem setFe_migReg (s : State) (a : Nat) (b : Bool) : (s.setFe a b).migReg = s.migReg := rfl
@[simp] theorem setFe_migTmo (s : State) (a : Nat) (b : Bool) : (s.setFe a b).migTmo = s.migTmo := rfl
@[simp] theorem setFe_cascDst (s : State) (a : Nat) (b : Bool) : (s.setFe a b).cascDst = s.cascDst := rfl
@[simp] theorem setFe_slew (s : State) (a : Nat) (b : Bool) : (s.setFe a b).slew = s.slew := rfl
@[simp] theorem setFe_phase0 (s : State) (a : Nat) (b : Bool) : (s.setFe a b).phase0 = s.phase0 := rfl
@[simp] theorem setFe_phase1 (s : State) (a : Nat) (b : Bool) : (s.setFe a b).phase1 = s.phase1 := rfl
@[simp] theorem setFe_therm (s : State) (a : Nat) (b : Bool) : (s.setFe a b).therm = s.therm := rfl
@[simp] theorem setFe_retRec (s : State) (a : Nat) (b : Bool) : (s.setFe a b).retRec = s.retRec := rfl
@[simp] theorem setFe_retTell (s : State) (a : Nat) (b : Bool) : (s.setFe a b).retTell = s.retTell := rfl
@[simp] theorem setFe_linkcfg (s : State) (a : Nat) (b : Bool) : (s.setFe a b).linkcfg = s.linkcfg := rfl
@[simp] theorem setFe_lroute (s : State) (a : Nat) (b : Bool) : (s.setFe a b).lroute = s.lroute := rfl
@[simp] theorem setFe_badLinks (s : State) (a : Nat) (b : Bool) : (s.setFe a b).badLinks = s.badLinks := rfl
@[simp] theorem setFe_bootStage (s : State) (a : Nat) (b : Bool) : (s.setFe a b).bootStage = s.bootStage := rfl
@[simp] theorem setFe_bootErr (s : State) (a : Nat) (b : Bool) : (s.setFe a b).bootErr = s.bootErr := rfl
@[simp] theorem setFe_meas (s : State) (a : Nat) (b : Bool) : (s.setFe a b).meas = s.meas := rfl
@[simp] theorem setFe_flash (s : State) (a : Nat) (b : Bool) : (s.setFe a b).flash = s.flash := rfl
@[simp] theorem setFe_power (s : State) (a : Nat) (b : Bool) : (s.setFe a b).power = s.power := rfl
@[simp] theorem setFe_time (s : State) (a : Nat) (b : Bool) : (s.setFe a b).time = s.time := rfl
@[simp] theorem setFe_reply (s : State) (a : Nat) (b : Bool) : (s.setFe a b).reply = s.reply := rfl
@[simp] theorem setFe_replyBad (s : State) (a : Nat) (b : Bool) : (s.setFe a b).replyBad = s.replyBad := rfl
@[simp] theorem setFe_agenda (s : State) (a : Nat) (b : Bool) : (s.setFe a b).agenda = s.agenda := rfl
@[simp] theorem setFe_steps (s : State) (a : Nat) (b : Bool) : (s.setFe a b).steps = s.steps := rfl
@[simp] theorem setFe_period (s : State) (a : Nat) (b : Bool) : (s.setFe a b).period = s.period := rfl
@[simp] theorem setFe_lent (s : State) (a : Nat) (b : Bool) : (s.setFe a b).lent = s.lent := rfl
@[simp] theorem setFe_nextUnit (s : State) (a : Nat) (b : Bool) : (s.setFe a b).nextUnit = s.nextUnit := rfl
@[simp] theorem setFe_cur (s : State) (a : Nat) (b : Bool) : (s.setFe a b).cur = s.cur := rfl
@[simp] theorem setFe_npc (s : State) (a : Nat) (b : Bool) : (s.setFe a b).npc = s.npc := rfl
@[simp] theorem setFe_fresh (s : State) (a : Nat) (b : Bool) : (s.setFe a b).fresh = s.fresh := rfl
@[simp] theorem setFe_ids (s : State) (a : Nat) (b : Bool) : (s.setFe a b).ids = s.ids := rfl
@[simp] theorem setFe_insn (s : State) (a : Nat) (b : Bool) : (s.setFe a b).insn = s.insn := rfl
@[simp] theorem setFe_arg (s : State) (a : Nat) (b : Bool) : (s.setFe a b).arg = s.arg := rfl
@[simp] theorem setTag_ctxs (s : State) (a : Nat) (t : BitVec 16) : (s.setTag a t).ctxs = s.ctxs := by unfold State.setTag; split <;> rfl
@[simp] theorem setTag_halted (s : State) (a : Nat) (t : BitVec 16) : (s.setTag a t).halted = s.halted := by unfold State.setTag; split <;> rfl
@[simp] theorem setTag_dir (s : State) (a : Nat) (t : BitVec 16) : (s.setTag a t).dir = s.dir := by unfold State.setTag; split <;> rfl
@[simp] theorem setTag_units (s : State) (a : Nat) (t : BitVec 16) : (s.setTag a t).units = s.units := by unfold State.setTag; split <;> rfl
@[simp] theorem setTag_clusters (s : State) (a : Nat) (t : BitVec 16) : (s.setTag a t).clusters = s.clusters := by unfold State.setTag; split <;> rfl
@[simp] theorem setTag_parts (s : State) (a : Nat) (t : BitVec 16) : (s.setTag a t).parts = s.parts := by unfold State.setTag; split <;> rfl
@[simp] theorem setTag_launches (s : State) (a : Nat) (t : BitVec 16) : (s.setTag a t).launches = s.launches := by unfold State.setTag; split <;> rfl
@[simp] theorem setTag_mem (s : State) (a : Nat) (t : BitVec 16) : (s.setTag a t).mem = s.mem := by unfold State.setTag; split <;> rfl
@[simp] theorem setTag_fe (s : State) (a : Nat) (t : BitVec 16) : (s.setTag a t).fe = s.fe := by unfold State.setTag; split <;> rfl
@[simp] theorem setTag_faded (s : State) (a : Nat) (t : BitVec 16) : (s.setTag a t).faded = s.faded := by unfold State.setTag; split <;> rfl
@[simp] theorem setTag_memErr (s : State) (a : Nat) (t : BitVec 16) : (s.setTag a t).memErr = s.memErr := by unfold State.setTag; split <;> rfl
@[simp] theorem setTag_tagErr (s : State) (a : Nat) (t : BitVec 16) : (s.setTag a t).tagErr = s.tagErr := by unfold State.setTag; split <;> rfl
@[simp] theorem setTag_regErr (s : State) (a : Nat) (t : BitVec 16) : (s.setTag a t).regErr = s.regErr := by unfold State.setTag; split <;> rfl
@[simp] theorem setTag_imgErr (s : State) (a : Nat) (t : BitVec 16) : (s.setTag a t).imgErr = s.imgErr := by unfold State.setTag; split <;> rfl
@[simp] theorem setTag_sharing (s : State) (a : Nat) (t : BitVec 16) : (s.setTag a t).sharing = s.sharing := by unfold State.setTag; split <;> rfl
@[simp] theorem setTag_sharingClear (s : State) (a : Nat) (t : BitVec 16) : (s.setTag a t).sharingClear = s.sharingClear := by unfold State.setTag; split <;> rfl
@[simp] theorem setTag_hostLines (s : State) (a : Nat) (t : BitVec 16) : (s.setTag a t).hostLines = s.hostLines := by unfold State.setTag; split <;> rfl
@[simp] theorem setTag_chans (s : State) (a : Nat) (t : BitVec 16) : (s.setTag a t).chans = s.chans := by unfold State.setTag; split <;> rfl
@[simp] theorem setTag_scrap (s : State) (a : Nat) (t : BitVec 16) : (s.setTag a t).scrap = s.scrap := by unfold State.setTag; split <;> rfl
@[simp] theorem setTag_mended (s : State) (a : Nat) (t : BitVec 16) : (s.setTag a t).mended = s.mended := by unfold State.setTag; split <;> rfl
@[simp] theorem setTag_pinRate (s : State) (a : Nat) (t : BitVec 16) : (s.setTag a t).pinRate = s.pinRate := by unfold State.setTag; split <;> rfl
@[simp] theorem setTag_mempwr (s : State) (a : Nat) (t : BitVec 16) : (s.setTag a t).mempwr = s.mempwr := by unfold State.setTag; split <;> rfl
@[simp] theorem setTag_misses (s : State) (a : Nat) (t : BitVec 16) : (s.setTag a t).misses = s.misses := by unfold State.setTag; split <;> rfl
@[simp] theorem setTag_walkAcre (s : State) (a : Nat) (t : BitVec 16) : (s.setTag a t).walkAcre = s.walkAcre := by unfold State.setTag; split <;> rfl
@[simp] theorem setTag_walkCroft (s : State) (a : Nat) (t : BitVec 16) : (s.setTag a t).walkCroft = s.walkCroft := by unfold State.setTag; split <;> rfl
@[simp] theorem setTag_walkLast (s : State) (a : Nat) (t : BitVec 16) : (s.setTag a t).walkLast = s.walkLast := by unfold State.setTag; split <;> rfl
@[simp] theorem setTag_pkts (s : State) (a : Nat) (t : BitVec 16) : (s.setTag a t).pkts = s.pkts := by unfold State.setTag; split <;> rfl
@[simp] theorem setTag_waits (s : State) (a : Nat) (t : BitVec 16) : (s.setTag a t).waits = s.waits := by unfold State.setTag; split <;> rfl
@[simp] theorem setTag_staggers (s : State) (a : Nat) (t : BitVec 16) : (s.setTag a t).staggers = s.staggers := by unfold State.setTag; split <;> rfl
@[simp] theorem setTag_ssu (s : State) (a : Nat) (t : BitVec 16) : (s.setTag a t).ssu = s.ssu := by unfold State.setTag; split <;> rfl
@[simp] theorem setTag_migs (s : State) (a : Nat) (t : BitVec 16) : (s.setTag a t).migs = s.migs := by unfold State.setTag; split <;> rfl
@[simp] theorem setTag_island (s : State) (a : Nat) (t : BitVec 16) : (s.setTag a t).island = s.island := by unfold State.setTag; split <;> rfl
@[simp] theorem setTag_migReg (s : State) (a : Nat) (t : BitVec 16) : (s.setTag a t).migReg = s.migReg := by unfold State.setTag; split <;> rfl
@[simp] theorem setTag_migTmo (s : State) (a : Nat) (t : BitVec 16) : (s.setTag a t).migTmo = s.migTmo := by unfold State.setTag; split <;> rfl
@[simp] theorem setTag_cascDst (s : State) (a : Nat) (t : BitVec 16) : (s.setTag a t).cascDst = s.cascDst := by unfold State.setTag; split <;> rfl
@[simp] theorem setTag_slew (s : State) (a : Nat) (t : BitVec 16) : (s.setTag a t).slew = s.slew := by unfold State.setTag; split <;> rfl
@[simp] theorem setTag_phase0 (s : State) (a : Nat) (t : BitVec 16) : (s.setTag a t).phase0 = s.phase0 := by unfold State.setTag; split <;> rfl
@[simp] theorem setTag_phase1 (s : State) (a : Nat) (t : BitVec 16) : (s.setTag a t).phase1 = s.phase1 := by unfold State.setTag; split <;> rfl
@[simp] theorem setTag_therm (s : State) (a : Nat) (t : BitVec 16) : (s.setTag a t).therm = s.therm := by unfold State.setTag; split <;> rfl
@[simp] theorem setTag_retRec (s : State) (a : Nat) (t : BitVec 16) : (s.setTag a t).retRec = s.retRec := by unfold State.setTag; split <;> rfl
@[simp] theorem setTag_retTell (s : State) (a : Nat) (t : BitVec 16) : (s.setTag a t).retTell = s.retTell := by unfold State.setTag; split <;> rfl
@[simp] theorem setTag_linkcfg (s : State) (a : Nat) (t : BitVec 16) : (s.setTag a t).linkcfg = s.linkcfg := by unfold State.setTag; split <;> rfl
@[simp] theorem setTag_lroute (s : State) (a : Nat) (t : BitVec 16) : (s.setTag a t).lroute = s.lroute := by unfold State.setTag; split <;> rfl
@[simp] theorem setTag_badLinks (s : State) (a : Nat) (t : BitVec 16) : (s.setTag a t).badLinks = s.badLinks := by unfold State.setTag; split <;> rfl
@[simp] theorem setTag_bootStage (s : State) (a : Nat) (t : BitVec 16) : (s.setTag a t).bootStage = s.bootStage := by unfold State.setTag; split <;> rfl
@[simp] theorem setTag_bootErr (s : State) (a : Nat) (t : BitVec 16) : (s.setTag a t).bootErr = s.bootErr := by unfold State.setTag; split <;> rfl
@[simp] theorem setTag_meas (s : State) (a : Nat) (t : BitVec 16) : (s.setTag a t).meas = s.meas := by unfold State.setTag; split <;> rfl
@[simp] theorem setTag_flash (s : State) (a : Nat) (t : BitVec 16) : (s.setTag a t).flash = s.flash := by unfold State.setTag; split <;> rfl
@[simp] theorem setTag_power (s : State) (a : Nat) (t : BitVec 16) : (s.setTag a t).power = s.power := by unfold State.setTag; split <;> rfl
@[simp] theorem setTag_time (s : State) (a : Nat) (t : BitVec 16) : (s.setTag a t).time = s.time := by unfold State.setTag; split <;> rfl
@[simp] theorem setTag_reply (s : State) (a : Nat) (t : BitVec 16) : (s.setTag a t).reply = s.reply := by unfold State.setTag; split <;> rfl
@[simp] theorem setTag_replyBad (s : State) (a : Nat) (t : BitVec 16) : (s.setTag a t).replyBad = s.replyBad := by unfold State.setTag; split <;> rfl
@[simp] theorem setTag_agenda (s : State) (a : Nat) (t : BitVec 16) : (s.setTag a t).agenda = s.agenda := by unfold State.setTag; split <;> rfl
@[simp] theorem setTag_steps (s : State) (a : Nat) (t : BitVec 16) : (s.setTag a t).steps = s.steps := by unfold State.setTag; split <;> rfl
@[simp] theorem setTag_period (s : State) (a : Nat) (t : BitVec 16) : (s.setTag a t).period = s.period := by unfold State.setTag; split <;> rfl
@[simp] theorem setTag_lent (s : State) (a : Nat) (t : BitVec 16) : (s.setTag a t).lent = s.lent := by unfold State.setTag; split <;> rfl
@[simp] theorem setTag_nextUnit (s : State) (a : Nat) (t : BitVec 16) : (s.setTag a t).nextUnit = s.nextUnit := by unfold State.setTag; split <;> rfl
@[simp] theorem setTag_cur (s : State) (a : Nat) (t : BitVec 16) : (s.setTag a t).cur = s.cur := by unfold State.setTag; split <;> rfl
@[simp] theorem setTag_npc (s : State) (a : Nat) (t : BitVec 16) : (s.setTag a t).npc = s.npc := by unfold State.setTag; split <;> rfl
@[simp] theorem setTag_fresh (s : State) (a : Nat) (t : BitVec 16) : (s.setTag a t).fresh = s.fresh := by unfold State.setTag; split <;> rfl
@[simp] theorem setTag_ids (s : State) (a : Nat) (t : BitVec 16) : (s.setTag a t).ids = s.ids := by unfold State.setTag; split <;> rfl
@[simp] theorem setTag_insn (s : State) (a : Nat) (t : BitVec 16) : (s.setTag a t).insn = s.insn := by unfold State.setTag; split <;> rfl
@[simp] theorem setTag_arg (s : State) (a : Nat) (t : BitVec 16) : (s.setTag a t).arg = s.arg := by unfold State.setTag; split <;> rfl
@[simp] theorem exitChan_ctxs (s : State) (c : Nat) : (s.exitChan c).ctxs = s.ctxs := by unfold State.exitChan; dsimp only; split <;> rfl
@[simp] theorem exitChan_halted (s : State) (c : Nat) : (s.exitChan c).halted = s.halted := by unfold State.exitChan; dsimp only; split <;> rfl
@[simp] theorem exitChan_dir (s : State) (c : Nat) : (s.exitChan c).dir = s.dir := by unfold State.exitChan; dsimp only; split <;> rfl
@[simp] theorem exitChan_units (s : State) (c : Nat) : (s.exitChan c).units = s.units := by unfold State.exitChan; dsimp only; split <;> rfl
@[simp] theorem exitChan_clusters (s : State) (c : Nat) : (s.exitChan c).clusters = s.clusters := by unfold State.exitChan; dsimp only; split <;> rfl
@[simp] theorem exitChan_parts (s : State) (c : Nat) : (s.exitChan c).parts = s.parts := by unfold State.exitChan; dsimp only; split <;> rfl
@[simp] theorem exitChan_launches (s : State) (c : Nat) : (s.exitChan c).launches = s.launches := by unfold State.exitChan; dsimp only; split <;> rfl
@[simp] theorem exitChan_tags (s : State) (c : Nat) : (s.exitChan c).tags = s.tags := by unfold State.exitChan; dsimp only; split <;> rfl
@[simp] theorem exitChan_faded (s : State) (c : Nat) : (s.exitChan c).faded = s.faded := by unfold State.exitChan; dsimp only; split <;> rfl
@[simp] theorem exitChan_tagErr (s : State) (c : Nat) : (s.exitChan c).tagErr = s.tagErr := by unfold State.exitChan; dsimp only; split <;> rfl
@[simp] theorem exitChan_regErr (s : State) (c : Nat) : (s.exitChan c).regErr = s.regErr := by unfold State.exitChan; dsimp only; split <;> rfl
@[simp] theorem exitChan_imgErr (s : State) (c : Nat) : (s.exitChan c).imgErr = s.imgErr := by unfold State.exitChan; dsimp only; split <;> rfl
@[simp] theorem exitChan_sharing (s : State) (c : Nat) : (s.exitChan c).sharing = s.sharing := by unfold State.exitChan; dsimp only; split <;> rfl
@[simp] theorem exitChan_sharingClear (s : State) (c : Nat) : (s.exitChan c).sharingClear = s.sharingClear := by unfold State.exitChan; dsimp only; split <;> rfl
@[simp] theorem exitChan_hostLines (s : State) (c : Nat) : (s.exitChan c).hostLines = s.hostLines := by unfold State.exitChan; dsimp only; split <;> rfl
@[simp] theorem exitChan_pinRate (s : State) (c : Nat) : (s.exitChan c).pinRate = s.pinRate := by unfold State.exitChan; dsimp only; split <;> rfl
@[simp] theorem exitChan_mempwr (s : State) (c : Nat) : (s.exitChan c).mempwr = s.mempwr := by unfold State.exitChan; dsimp only; split <;> rfl
@[simp] theorem exitChan_misses (s : State) (c : Nat) : (s.exitChan c).misses = s.misses := by unfold State.exitChan; dsimp only; split <;> rfl
@[simp] theorem exitChan_walkAcre (s : State) (c : Nat) : (s.exitChan c).walkAcre = s.walkAcre := by unfold State.exitChan; dsimp only; split <;> rfl
@[simp] theorem exitChan_walkCroft (s : State) (c : Nat) : (s.exitChan c).walkCroft = s.walkCroft := by unfold State.exitChan; dsimp only; split <;> rfl
@[simp] theorem exitChan_walkLast (s : State) (c : Nat) : (s.exitChan c).walkLast = s.walkLast := by unfold State.exitChan; dsimp only; split <;> rfl
@[simp] theorem exitChan_pkts (s : State) (c : Nat) : (s.exitChan c).pkts = s.pkts := by unfold State.exitChan; dsimp only; split <;> rfl
@[simp] theorem exitChan_waits (s : State) (c : Nat) : (s.exitChan c).waits = s.waits := by unfold State.exitChan; dsimp only; split <;> rfl
@[simp] theorem exitChan_staggers (s : State) (c : Nat) : (s.exitChan c).staggers = s.staggers := by unfold State.exitChan; dsimp only; split <;> rfl
@[simp] theorem exitChan_ssu (s : State) (c : Nat) : (s.exitChan c).ssu = s.ssu := by unfold State.exitChan; dsimp only; split <;> rfl
@[simp] theorem exitChan_migs (s : State) (c : Nat) : (s.exitChan c).migs = s.migs := by unfold State.exitChan; dsimp only; split <;> rfl
@[simp] theorem exitChan_island (s : State) (c : Nat) : (s.exitChan c).island = s.island := by unfold State.exitChan; dsimp only; split <;> rfl
@[simp] theorem exitChan_migReg (s : State) (c : Nat) : (s.exitChan c).migReg = s.migReg := by unfold State.exitChan; dsimp only; split <;> rfl
@[simp] theorem exitChan_migTmo (s : State) (c : Nat) : (s.exitChan c).migTmo = s.migTmo := by unfold State.exitChan; dsimp only; split <;> rfl
@[simp] theorem exitChan_cascDst (s : State) (c : Nat) : (s.exitChan c).cascDst = s.cascDst := by unfold State.exitChan; dsimp only; split <;> rfl
@[simp] theorem exitChan_slew (s : State) (c : Nat) : (s.exitChan c).slew = s.slew := by unfold State.exitChan; dsimp only; split <;> rfl
@[simp] theorem exitChan_phase0 (s : State) (c : Nat) : (s.exitChan c).phase0 = s.phase0 := by unfold State.exitChan; dsimp only; split <;> rfl
@[simp] theorem exitChan_phase1 (s : State) (c : Nat) : (s.exitChan c).phase1 = s.phase1 := by unfold State.exitChan; dsimp only; split <;> rfl
@[simp] theorem exitChan_therm (s : State) (c : Nat) : (s.exitChan c).therm = s.therm := by unfold State.exitChan; dsimp only; split <;> rfl
@[simp] theorem exitChan_retRec (s : State) (c : Nat) : (s.exitChan c).retRec = s.retRec := by unfold State.exitChan; dsimp only; split <;> rfl
@[simp] theorem exitChan_retTell (s : State) (c : Nat) : (s.exitChan c).retTell = s.retTell := by unfold State.exitChan; dsimp only; split <;> rfl
@[simp] theorem exitChan_linkcfg (s : State) (c : Nat) : (s.exitChan c).linkcfg = s.linkcfg := by unfold State.exitChan; dsimp only; split <;> rfl
@[simp] theorem exitChan_lroute (s : State) (c : Nat) : (s.exitChan c).lroute = s.lroute := by unfold State.exitChan; dsimp only; split <;> rfl
@[simp] theorem exitChan_badLinks (s : State) (c : Nat) : (s.exitChan c).badLinks = s.badLinks := by unfold State.exitChan; dsimp only; split <;> rfl
@[simp] theorem exitChan_bootStage (s : State) (c : Nat) : (s.exitChan c).bootStage = s.bootStage := by unfold State.exitChan; dsimp only; split <;> rfl
@[simp] theorem exitChan_bootErr (s : State) (c : Nat) : (s.exitChan c).bootErr = s.bootErr := by unfold State.exitChan; dsimp only; split <;> rfl
@[simp] theorem exitChan_meas (s : State) (c : Nat) : (s.exitChan c).meas = s.meas := by unfold State.exitChan; dsimp only; split <;> rfl
@[simp] theorem exitChan_flash (s : State) (c : Nat) : (s.exitChan c).flash = s.flash := by unfold State.exitChan; dsimp only; split <;> rfl
@[simp] theorem exitChan_power (s : State) (c : Nat) : (s.exitChan c).power = s.power := by unfold State.exitChan; dsimp only; split <;> rfl
@[simp] theorem exitChan_time (s : State) (c : Nat) : (s.exitChan c).time = s.time := by unfold State.exitChan; dsimp only; split <;> rfl
@[simp] theorem exitChan_reply (s : State) (c : Nat) : (s.exitChan c).reply = s.reply := by unfold State.exitChan; dsimp only; split <;> rfl
@[simp] theorem exitChan_replyBad (s : State) (c : Nat) : (s.exitChan c).replyBad = s.replyBad := by unfold State.exitChan; dsimp only; split <;> rfl
@[simp] theorem exitChan_agenda (s : State) (c : Nat) : (s.exitChan c).agenda = s.agenda := by unfold State.exitChan; dsimp only; split <;> rfl
@[simp] theorem exitChan_steps (s : State) (c : Nat) : (s.exitChan c).steps = s.steps := by unfold State.exitChan; dsimp only; split <;> rfl
@[simp] theorem exitChan_period (s : State) (c : Nat) : (s.exitChan c).period = s.period := by unfold State.exitChan; dsimp only; split <;> rfl
@[simp] theorem exitChan_lent (s : State) (c : Nat) : (s.exitChan c).lent = s.lent := by unfold State.exitChan; dsimp only; split <;> rfl
@[simp] theorem exitChan_nextUnit (s : State) (c : Nat) : (s.exitChan c).nextUnit = s.nextUnit := by unfold State.exitChan; dsimp only; split <;> rfl
@[simp] theorem exitChan_cur (s : State) (c : Nat) : (s.exitChan c).cur = s.cur := by unfold State.exitChan; dsimp only; split <;> rfl
@[simp] theorem exitChan_npc (s : State) (c : Nat) : (s.exitChan c).npc = s.npc := by unfold State.exitChan; dsimp only; split <;> rfl
@[simp] theorem exitChan_fresh (s : State) (c : Nat) : (s.exitChan c).fresh = s.fresh := by unfold State.exitChan; dsimp only; split <;> rfl
@[simp] theorem exitChan_ids (s : State) (c : Nat) : (s.exitChan c).ids = s.ids := by unfold State.exitChan; dsimp only; split <;> rfl
@[simp] theorem exitChan_insn (s : State) (c : Nat) : (s.exitChan c).insn = s.insn := by unfold State.exitChan; dsimp only; split <;> rfl
@[simp] theorem exitChan_arg (s : State) (c : Nat) : (s.exitChan c).arg = s.arg := by unfold State.exitChan; dsimp only; split <;> rfl
@[simp] theorem touch_ctxs (s : State) (a : Nat) : (s.touch a).ctxs = s.ctxs := by unfold State.touch; dsimp only; split <;> split <;> first | rfl | exact exitChan_ctxs ..
@[simp] theorem touch_halted (s : State) (a : Nat) : (s.touch a).halted = s.halted := by unfold State.touch; dsimp only; split <;> split <;> first | rfl | exact exitChan_halted ..
@[simp] theorem touch_dir (s : State) (a : Nat) : (s.touch a).dir = s.dir := by unfold State.touch; dsimp only; split <;> split <;> first | rfl | exact exitChan_dir ..
@[simp] theorem touch_clusters (s : State) (a : Nat) : (s.touch a).clusters = s.clusters := by unfold State.touch; dsimp only; split <;> split <;> first | rfl | exact exitChan_clusters ..
@[simp] theorem touch_parts (s : State) (a : Nat) : (s.touch a).parts = s.parts := by unfold State.touch; dsimp only; split <;> split <;> first | rfl | exact exitChan_parts ..
@[simp] theorem touch_launches (s : State) (a : Nat) : (s.touch a).launches = s.launches := by unfold State.touch; dsimp only; split <;> split <;> first | rfl | exact exitChan_launches ..
@[simp] theorem touch_tags (s : State) (a : Nat) : (s.touch a).tags = s.tags := by unfold State.touch; dsimp only; split <;> split <;> first | rfl | exact exitChan_tags ..
@[simp] theorem touch_tagErr (s : State) (a : Nat) : (s.touch a).tagErr = s.tagErr := by unfold State.touch; dsimp only; split <;> split <;> first | rfl | exact exitChan_tagErr ..
@[simp] theorem touch_regErr (s : State) (a : Nat) : (s.touch a).regErr = s.regErr := by unfold State.touch; dsimp only; split <;> split <;> first | rfl | exact exitChan_regErr ..
@[simp] theorem touch_imgErr (s : State) (a : Nat) : (s.touch a).imgErr = s.imgErr := by unfold State.touch; dsimp only; split <;> split <;> first | rfl | exact exitChan_imgErr ..
@[simp] theorem touch_sharing (s : State) (a : Nat) : (s.touch a).sharing = s.sharing := by unfold State.touch; dsimp only; split <;> split <;> first | rfl | exact exitChan_sharing ..
@[simp] theorem touch_sharingClear (s : State) (a : Nat) : (s.touch a).sharingClear = s.sharingClear := by unfold State.touch; dsimp only; split <;> split <;> first | rfl | exact exitChan_sharingClear ..
@[simp] theorem touch_hostLines (s : State) (a : Nat) : (s.touch a).hostLines = s.hostLines := by unfold State.touch; dsimp only; split <;> split <;> first | rfl | exact exitChan_hostLines ..
@[simp] theorem touch_pinRate (s : State) (a : Nat) : (s.touch a).pinRate = s.pinRate := by unfold State.touch; dsimp only; split <;> split <;> first | rfl | exact exitChan_pinRate ..
@[simp] theorem touch_mempwr (s : State) (a : Nat) : (s.touch a).mempwr = s.mempwr := by unfold State.touch; dsimp only; split <;> split <;> first | rfl | exact exitChan_mempwr ..
@[simp] theorem touch_misses (s : State) (a : Nat) : (s.touch a).misses = s.misses := by unfold State.touch; dsimp only; split <;> split <;> first | rfl | exact exitChan_misses ..
@[simp] theorem touch_walkAcre (s : State) (a : Nat) : (s.touch a).walkAcre = s.walkAcre := by unfold State.touch; dsimp only; split <;> split <;> first | rfl | exact exitChan_walkAcre ..
@[simp] theorem touch_walkCroft (s : State) (a : Nat) : (s.touch a).walkCroft = s.walkCroft := by unfold State.touch; dsimp only; split <;> split <;> first | rfl | exact exitChan_walkCroft ..
@[simp] theorem touch_walkLast (s : State) (a : Nat) : (s.touch a).walkLast = s.walkLast := by unfold State.touch; dsimp only; split <;> split <;> first | rfl | exact exitChan_walkLast ..
@[simp] theorem touch_pkts (s : State) (a : Nat) : (s.touch a).pkts = s.pkts := by unfold State.touch; dsimp only; split <;> split <;> first | rfl | exact exitChan_pkts ..
@[simp] theorem touch_waits (s : State) (a : Nat) : (s.touch a).waits = s.waits := by unfold State.touch; dsimp only; split <;> split <;> first | rfl | exact exitChan_waits ..
@[simp] theorem touch_staggers (s : State) (a : Nat) : (s.touch a).staggers = s.staggers := by unfold State.touch; dsimp only; split <;> split <;> first | rfl | exact exitChan_staggers ..
@[simp] theorem touch_ssu (s : State) (a : Nat) : (s.touch a).ssu = s.ssu := by unfold State.touch; dsimp only; split <;> split <;> first | rfl | exact exitChan_ssu ..
@[simp] theorem touch_migs (s : State) (a : Nat) : (s.touch a).migs = s.migs := by unfold State.touch; dsimp only; split <;> split <;> first | rfl | exact exitChan_migs ..
@[simp] theorem touch_island (s : State) (a : Nat) : (s.touch a).island = s.island := by unfold State.touch; dsimp only; split <;> split <;> first | rfl | exact exitChan_island ..
@[simp] theorem touch_migReg (s : State) (a : Nat) : (s.touch a).migReg = s.migReg := by unfold State.touch; dsimp only; split <;> split <;> first | rfl | exact exitChan_migReg ..
@[simp] theorem touch_migTmo (s : State) (a : Nat) : (s.touch a).migTmo = s.migTmo := by unfold State.touch; dsimp only; split <;> split <;> first | rfl | exact exitChan_migTmo ..
@[simp] theorem touch_cascDst (s : State) (a : Nat) : (s.touch a).cascDst = s.cascDst := by unfold State.touch; dsimp only; split <;> split <;> first | rfl | exact exitChan_cascDst ..
@[simp] theorem touch_slew (s : State) (a : Nat) : (s.touch a).slew = s.slew := by unfold State.touch; dsimp only; split <;> split <;> first | rfl | exact exitChan_slew ..
@[simp] theorem touch_phase0 (s : State) (a : Nat) : (s.touch a).phase0 = s.phase0 := by unfold State.touch; dsimp only; split <;> split <;> first | rfl | exact exitChan_phase0 ..
@[simp] theorem touch_phase1 (s : State) (a : Nat) : (s.touch a).phase1 = s.phase1 := by unfold State.touch; dsimp only; split <;> split <;> first | rfl | exact exitChan_phase1 ..
@[simp] theorem touch_therm (s : State) (a : Nat) : (s.touch a).therm = s.therm := by unfold State.touch; dsimp only; split <;> split <;> first | rfl | exact exitChan_therm ..
@[simp] theorem touch_retRec (s : State) (a : Nat) : (s.touch a).retRec = s.retRec := by unfold State.touch; dsimp only; split <;> split <;> first | rfl | exact exitChan_retRec ..
@[simp] theorem touch_retTell (s : State) (a : Nat) : (s.touch a).retTell = s.retTell := by unfold State.touch; dsimp only; split <;> split <;> first | rfl | exact exitChan_retTell ..
@[simp] theorem touch_linkcfg (s : State) (a : Nat) : (s.touch a).linkcfg = s.linkcfg := by unfold State.touch; dsimp only; split <;> split <;> first | rfl | exact exitChan_linkcfg ..
@[simp] theorem touch_lroute (s : State) (a : Nat) : (s.touch a).lroute = s.lroute := by unfold State.touch; dsimp only; split <;> split <;> first | rfl | exact exitChan_lroute ..
@[simp] theorem touch_badLinks (s : State) (a : Nat) : (s.touch a).badLinks = s.badLinks := by unfold State.touch; dsimp only; split <;> split <;> first | rfl | exact exitChan_badLinks ..
@[simp] theorem touch_bootStage (s : State) (a : Nat) : (s.touch a).bootStage = s.bootStage := by unfold State.touch; dsimp only; split <;> split <;> first | rfl | exact exitChan_bootStage ..
@[simp] theorem touch_bootErr (s : State) (a : Nat) : (s.touch a).bootErr = s.bootErr := by unfold State.touch; dsimp only; split <;> split <;> first | rfl | exact exitChan_bootErr ..
@[simp] theorem touch_meas (s : State) (a : Nat) : (s.touch a).meas = s.meas := by unfold State.touch; dsimp only; split <;> split <;> first | rfl | exact exitChan_meas ..
@[simp] theorem touch_flash (s : State) (a : Nat) : (s.touch a).flash = s.flash := by unfold State.touch; dsimp only; split <;> split <;> first | rfl | exact exitChan_flash ..
@[simp] theorem touch_power (s : State) (a : Nat) : (s.touch a).power = s.power := by unfold State.touch; dsimp only; split <;> split <;> first | rfl | exact exitChan_power ..
@[simp] theorem touch_time (s : State) (a : Nat) : (s.touch a).time = s.time := by unfold State.touch; dsimp only; split <;> split <;> first | rfl | exact exitChan_time ..
@[simp] theorem touch_reply (s : State) (a : Nat) : (s.touch a).reply = s.reply := by unfold State.touch; dsimp only; split <;> split <;> first | rfl | exact exitChan_reply ..
@[simp] theorem touch_replyBad (s : State) (a : Nat) : (s.touch a).replyBad = s.replyBad := by unfold State.touch; dsimp only; split <;> split <;> first | rfl | exact exitChan_replyBad ..
@[simp] theorem touch_agenda (s : State) (a : Nat) : (s.touch a).agenda = s.agenda := by unfold State.touch; dsimp only; split <;> split <;> first | rfl | exact exitChan_agenda ..
@[simp] theorem touch_steps (s : State) (a : Nat) : (s.touch a).steps = s.steps := by unfold State.touch; dsimp only; split <;> split <;> first | rfl | exact exitChan_steps ..
@[simp] theorem touch_period (s : State) (a : Nat) : (s.touch a).period = s.period := by unfold State.touch; dsimp only; split <;> split <;> first | rfl | exact exitChan_period ..
@[simp] theorem touch_lent (s : State) (a : Nat) : (s.touch a).lent = s.lent := by unfold State.touch; dsimp only; split <;> split <;> first | rfl | exact exitChan_lent ..
@[simp] theorem touch_nextUnit (s : State) (a : Nat) : (s.touch a).nextUnit = s.nextUnit := by unfold State.touch; dsimp only; split <;> split <;> first | rfl | exact exitChan_nextUnit ..
@[simp] theorem touch_cur (s : State) (a : Nat) : (s.touch a).cur = s.cur := by unfold State.touch; dsimp only; split <;> split <;> first | rfl | exact exitChan_cur ..
@[simp] theorem touch_npc (s : State) (a : Nat) : (s.touch a).npc = s.npc := by unfold State.touch; dsimp only; split <;> split <;> first | rfl | exact exitChan_npc ..
@[simp] theorem touch_fresh (s : State) (a : Nat) : (s.touch a).fresh = s.fresh := by unfold State.touch; dsimp only; split <;> split <;> first | rfl | exact exitChan_fresh ..
@[simp] theorem touch_ids (s : State) (a : Nat) : (s.touch a).ids = s.ids := by unfold State.touch; dsimp only; split <;> split <;> first | rfl | exact exitChan_ids ..
@[simp] theorem touch_insn (s : State) (a : Nat) : (s.touch a).insn = s.insn := by unfold State.touch; dsimp only; split <;> split <;> first | rfl | exact exitChan_insn ..
@[simp] theorem touch_arg (s : State) (a : Nat) : (s.touch a).arg = s.arg := by unfold State.touch; dsimp only; split <;> split <;> first | rfl | exact exitChan_arg ..

end Sys2Proof.Laws
end

