-- ==== Sys2Proof/Laws/Monad.lean ====
section
/-! SUPPORT. How an effect runs: each step of the monad M once, what each of the named reads, waits and writes answers, and
what runInstr and runEvent make of an effect's end. -/

namespace Sys2Proof.Laws

open Sys2Proof.Machine

variable {α β : Type}

/-- An effect that has ended well hands its result on. -/
theorem bind_ok {m : M α} {f : α → M β} {s t : State} {a : α} (h : m s = .ok a t) : (m >>= f) s = f a t := by
  show EStateM.bind m f s = _
  simp [EStateM.bind, h]

/-- An effect that has stopped stops what follows. -/
theorem bind_error {m : M α} {f : α → M β} {s t : State} {e : Stop} (h : m s = .error e t) : (m >>= f) s = .error e t := by
  show EStateM.bind m f s = _
  simp [EStateM.bind, h]

@[simp] theorem pure_run (a : α) (s : State) : (pure a : M α) s = .ok a s := rfl
@[simp] theorem get_run (s : State) : (get : M State) s = .ok s s := rfl
@[simp] theorem set_run (t s : State) : (set t : M PUnit) s = .ok ⟨⟩ t := rfl
@[simp] theorem modify_run (f : State → State) (s : State) : (modify f : M PUnit) s = .ok ⟨⟩ (f s) := rfl
@[simp] theorem throw_run (e : Stop) (s : State) : (throw e : M α) s = .error e s := rfl
@[simp] theorem bind_pure_run (a : α) (f : α → M β) (s : State) : ((pure a : M α) >>= f) s = f a s := rfl
@[simp] theorem bind_get_run (f : State → M β) (s : State) : ((get : M State) >>= f) s = f s s := rfl
@[simp] theorem bind_set_run (t : State) (f : PUnit → M β) (s : State) : ((set t : M PUnit) >>= f) s = f ⟨⟩ t := rfl
@[simp] theorem bind_modify_run (g : State → State) (f : PUnit → M β) (s : State) : ((modify g : M PUnit) >>= f) s = f ⟨⟩ (g s) := rfl
@[simp] theorem bind_throw_run (e : Stop) (f : α → M β) (s : State) : ((throw e : M α) >>= f) s = .error e s := rfl
@[simp] theorem bind_bind_run {γ : Type} (m : M α) (f : α → M β) (g : β → M γ) (s : State) :
    ((m >>= f) >>= g) s = (m >>= fun a => f a >>= g) s := by
  show EStateM.bind (EStateM.bind m f) g s = EStateM.bind m (fun a => EStateM.bind (f a) g) s
  simp only [EStateM.bind]
  cases m s <;> rfl

@[simp] theorem getC_run (s : State) : getC s = .ok (s.ctx s.cur) s := rfl
@[simp] theorem getD_run (s : State) : getD s = .ok (s.dirE s.cur) s := rfl
@[simp] theorem getU_run (s : State) : getU s = .ok (s.unit (s.unitOf s.cur)) s := rfl
@[simp] theorem getPc_run (s : State) : getPc s = .ok (s.ctx s.cur).pc s := rfl
@[simp] theorem myUnit_run (s : State) : myUnit s = .ok (s.unitOf s.cur) s := rfl
@[simp] theorem modC_run (f : Ctx → Ctx) (s : State) : modC f s = .ok ⟨⟩ (s.modCtx s.cur f) := rfl
@[simp] theorem modD_run (f : Dir → Dir) (s : State) : modD f s = .ok ⟨⟩ (s.modDir s.cur f) := rfl
@[simp] theorem modU_run (f : UnitSt → UnitSt) (s : State) : modU f s = .ok ⟨⟩ (s.modUnit (s.unitOf s.cur) f) := rfl
@[simp] theorem setNpc_run (t : Word) (s : State) : setNpc t s = .ok ⟨⟩ { s with npc := t } := rfl
@[simp] theorem bind_getC_run (f : Ctx → M β) (s : State) : (getC >>= f) s = f (s.ctx s.cur) s := rfl
@[simp] theorem bind_getD_run (f : Dir → M β) (s : State) : (getD >>= f) s = f (s.dirE s.cur) s := rfl
@[simp] theorem bind_getU_run (f : UnitSt → M β) (s : State) : (getU >>= f) s = f (s.unit (s.unitOf s.cur)) s := rfl
@[simp] theorem bind_getPc_run (f : Word → M β) (s : State) : (getPc >>= f) s = f (s.ctx s.cur).pc s := rfl
@[simp] theorem bind_myUnit_run (f : Nat → M β) (s : State) : (myUnit >>= f) s = f (s.unitOf s.cur) s := rfl
@[simp] theorem bind_modC_run (g : Ctx → Ctx) (f : PUnit → M β) (s : State) : (modC g >>= f) s = f ⟨⟩ (s.modCtx s.cur g) := rfl
@[simp] theorem bind_modD_run (g : Dir → Dir) (f : PUnit → M β) (s : State) : (modD g >>= f) s = f ⟨⟩ (s.modDir s.cur g) := rfl
@[simp] theorem bind_modU_run (g : UnitSt → UnitSt) (f : PUnit → M β) (s : State) :
    (modU g >>= f) s = f ⟨⟩ (s.modUnit (s.unitOf s.cur) g) := rfl
@[simp] theorem bind_setNpc_run (t : Word) (f : PUnit → M β) (s : State) : (setNpc t >>= f) s = f ⟨⟩ { s with npc := t } := rfl

/-! ### Waits and checks -/

theorem trapIf_ok {b : Bool} (h : b = false) (c : Nat) (s : State) : trapIf b c s = .ok () s := by subst h; rfl
theorem trapIf_trap {b : Bool} (h : b = true) (c : Nat) (s : State) : trapIf b c s = .error (.trap { cause := c }) s := by subst h; rfl
theorem stallUnless_ok {b : Bool} (h : b = true) (w : Nat) (s : State) : stallUnless b w s = .ok () s := by subst h; rfl
theorem parkUnless_ok {b : Bool} (h : b = true) (w : Nat) (s : State) : parkUnless b w s = .ok () s := by subst h; rfl
theorem enabled_ok {b : Bool} (h : b = true) (s : State) : enabled b s = .ok () s := by subst h; rfl
theorem exists_ok {b : Bool} (h : b = true) (s : State) : exists_ b s = .ok () s := by subst h; rfl
@[simp] theorem trapIf_false (c : Nat) (s : State) : trapIf false c s = .ok () s := rfl
@[simp] theorem trapIf_true (c : Nat) (s : State) : trapIf true c s = .error (.trap { cause := c }) s := rfl
@[simp] theorem stallUnless_true (w : Nat) (s : State) : stallUnless true w s = .ok () s := rfl
@[simp] theorem parkUnless_true (w : Nat) (s : State) : parkUnless true w s = .ok () s := rfl
@[simp] theorem enabled_true (s : State) : enabled true s = .ok () s := rfl
@[simp] theorem exists_true (s : State) : exists_ true s = .ok () s := rfl
@[simp] theorem bind_trapIf_false (c : Nat) (f : Unit → M β) (s : State) : (trapIf false c >>= f) s = f () s := rfl
@[simp] theorem bind_trapIf_true (c : Nat) (f : Unit → M β) (s : State) :
    (trapIf true c >>= f) s = .error (.trap { cause := c }) s := rfl
@[simp] theorem bind_stallUnless_true (w : Nat) (f : Unit → M β) (s : State) : (stallUnless true w >>= f) s = f () s := rfl
@[simp] theorem bind_parkUnless_true (w : Nat) (f : Unit → M β) (s : State) : (parkUnless true w >>= f) s = f () s := rfl
@[simp] theorem bind_enabled_true (f : Unit → M β) (s : State) : (enabled true >>= f) s = f () s := rfl
@[simp] theorem bind_exists_true (f : Unit → M β) (s : State) : (exists_ true >>= f) s = f () s := rfl

/-! ### Registers -/

/-- A register without a soft error passes its check (R383). -/
theorem regCheck_ok {s : State} {cls i : Nat} (h : mget s.regErr (regKey s.cur cls i) 0 = 0) : regCheck cls i s = .ok () s := by
  simp [regCheck, h]

/-- Reading an available s register answers its value and changes nothing (R163). -/
theorem rdS_ok {s : State} {i : BitVec 5} (hr : (s.ctx s.cur).sReady i.toNat = true)
    (he : i.toNat = 0 ∨ mget s.regErr (regKey s.cur 0 i.toNat) 0 = 0) : rdS i s = .ok ((s.ctx s.cur).s i.toNat) s := by
  unfold rdS
  rw [bind_getC_run, hr, bind_stallUnless_true]
  by_cases h0 : i.toNat = 0
  · simp [h0, Ctx.s]
  · have he' := he.resolve_left h0
    simp only [h0, if_false]
    rw [bind_ok (regCheck_ok he')]
    rfl

/-- A destination without an outstanding result lets the instruction go on (R167). -/
theorem needD_ok {s : State} {i : BitVec 5} (h : i.toNat = 0 ∨ bit (s.ctx s.cur).outst i.toNat = false) : needD i s = .ok () s := by
  unfold needD
  rw [bind_getC_run, stallUnless_ok]
  rcases h with h | h <;> simp [h]

@[simp] theorem wrS_run (i : BitVec 5) (v : Word) (s : State) : wrS i v s = .ok () (s.modCtx s.cur (fun x => x.setS i.toNat v)) := rfl

/-! ### How instructions and device steps end -/

/-- An instruction whose effect ends well completes. -/
theorem runInstr_ok {i : Instr} {body : M Unit} {s t : State}
    (h : body { s with npc := (s.ctx s.cur).pc + 4, insn := (encode i).getD 0 } = .ok () t) :
    runInstr i body s = .next (t.retire false) := by
  unfold runInstr runAs
  rw [h]

/-- An instruction whose effect raises a cause takes the trap, as one that has issued (R210). -/
theorem runInstr_trap {i : Instr} {body : M Unit} {s t : State} {r : TrapInfo}
    (h : body { s with npc := (s.ctx s.cur).pc + 4, insn := (encode i).getD 0 } = .error (.trap r) t) :
    runInstr i body s = .next (t.issuedTrap r ((encode i).getD 0)) := by
  unfold runInstr runAs
  rw [h]

/-- A device step that is enabled takes its effect. -/
theorem runEvent_ok {body : M Unit} {s t : State} (h : body s = .ok () t) : runEvent body s = .next t := by
  unfold runEvent
  rw [h]

end Sys2Proof.Laws
end

