-- ==== Sys2Proof/Laws/Operands.lean ====
section
/-! SUPPORT. What reading a source and writing a destination in each operand space comes to (R67, R170, R192). -/

namespace Sys2Proof.Laws

open Sys2Proof.Machine

/-- What a pop needs: the head of the port's queue is there and unmarked, and the ring serves the partition. -/
def CanPop (s : State) (n : Nat) : Prop :=
  match (mget (s.ctx s.cur).ports n {}).kind with
  | 1 => ∃ e t, (mget (s.ctx s.cur).ports n {}).ldq = e :: t ∧ e.arrived = true ∧ e.mark = 0
  | 3 => ∃ v t, mget (s.unit (s.unitOf s.cur)).rxq (mget (s.ctx s.cur).ports n {}).dir [] = v :: t
  | 4 => (s.ring (s.unitOf s.cur) (mget (s.ctx s.cur).ports n {}).ring).usable (s.dirE s.cur).part = true ∧
      (s.ring (s.unitOf s.cur) (mget (s.ctx s.cur).ports n {}).ring).frozen = false ∧
      ∃ v t, (s.ring (s.unitOf s.cur) (mget (s.ctx s.cur).ports n {}).ring).q = v :: t
  | _ => False

/-- Such a pop neither waits nor traps. -/
theorem pop_ready {s : State} {n : Nat} (h : CanPop s n) : popWait n s = .ok () s ∧ popTrap n s = .ok () s := by
  revert h
  simp only [CanPop, popWait, popTrap, getPort, bind_bind_run, bind_getC_run, bind_pure_run, bind_get_run]
  generalize mget (s.ctx s.cur).ports n {} = p
  split
  · rename_i hk
    rintro ⟨e, t, h1, h2, h3⟩
    simp [hk, h1, h2, h3]
  · rename_i hk
    rintro ⟨v, t, h1⟩
    simp [hk, h1]
  · rename_i hk
    rintro ⟨h1, h2, v, t, h3⟩
    simp [hk, h1, h2, h3]
  · exact False.elim

/-- What a push needs: no earlier access holds it back, there is a place, and no full bridge stands in its way. -/
def CanPush (s : State) (n : Nat) : Prop :=
  match (mget (s.ctx s.cur).ports n {}).kind with
  | 2 => ∃ v, neighbour (s.unitOf s.cur) (mget (s.ctx s.cur).ports n {}).dir = some v ∧
      s.rxUsed v (opposite (mget (s.ctx s.cur).ports n {}).dir) < 16 ∧ s.bridgeFull (s.unitOf s.cur) v = false
  | 4 => (s.ring (s.unitOf s.cur) (mget (s.ctx s.cur).ports n {}).ring).usable (s.dirE s.cur).part = true ∧
      (s.ring (s.unitOf s.cur) (mget (s.ctx s.cur).ports n {}).ring).q.length < 256
  | _ => False

/-- Such a push neither waits nor traps. -/
theorem push_ready {s : State} {n : Nat} (hr : s.relOk s.cur = true) (h : CanPush s n) :
    pushWait n s = .ok () s ∧ pushTrap n s = .ok () s := by
  revert h
  simp only [CanPush, pushWait, pushTrap, getPort, bind_bind_run, bind_getC_run, bind_pure_run, bind_get_run]
  generalize mget (s.ctx s.cur).ports n {} = p
  split
  · rename_i hk
    rintro ⟨v, h1, h2, h3⟩
    simp [hk, h1, h2, h3, relWait, hr]
  · rename_i hk
    rintro ⟨h1, h2⟩
    simp [hk, h1, h2, relWait, hr, ringCap]
  · exact False.elim

/-- A pop of a load-data queue takes its head. -/
theorem pop_ld {s : State} {n : Nat} {p : Port} (hp : mget (s.ctx s.cur).ports n {} = p) (hk : p.kind = 1) :
    pop n s =
    .ok ((p.ldq.head?.map (·.val)).getD 0) (s.modCtx s.cur (fun x => { x with ports := mset x.ports n { p with ldq := p.ldq.tail } })) := by
  simp only [pop, getPort, bind_bind_run, bind_getC_run, bind_pure_run, bind_get_run, hp, hk]
  rfl

/-- A pop of a receive queue takes its head, and the neighbour that fills the queue may go on. -/
theorem pop_rx {s : State} {n : Nat} {p : Port} (hp : mget (s.ctx s.cur).ports n {} = p) (hk : p.kind = 3) :
    pop n s =
    .ok ((mget (s.unit (s.unitOf s.cur)).rxq p.dir []).head?.getD 0)
      (let t := s.modUnit (s.unitOf s.cur) (fun x => { x with rxq := mset x.rxq p.dir (mget (s.unit (s.unitOf s.cur)).rxq p.dir []).tail })
       match neighbour (s.unitOf s.cur) p.dir with | some v => t.wakeUnit v | none => t) := by
  simp only [pop, getPort, bind_bind_run, bind_getC_run, bind_pure_run, bind_get_run, hp, hk]
  rfl

/-- A pop of a ready ring takes its head, and what waits for a place in it may go on. -/
theorem pop_rr {s : State} {n : Nat} {p : Port} (hp : mget (s.ctx s.cur).ports n {} = p) (hk : p.kind = 4) :
    pop n s =
    .ok ((s.ring (s.unitOf s.cur) p.ring).q.head?.getD 0)
      (s.ringPop (s.unitOf s.cur) p.ring) := by
  simp only [pop, getPort, bind_bind_run, bind_getC_run, bind_pure_run, bind_get_run, hp, hk]
  rfl

/-- A push through a transmit port sends a packet to the neighbour. -/
theorem push_tx {s : State} {n w : Nat} {p : Port} {v : Word} (hp : mget (s.ctx s.cur).ports n {} = p) (hk : p.kind = 2)
    (hw : neighbour (s.unitOf s.cur) p.dir = some w) :
    push n v s = .ok () { s with pkts := s.pkts ++ [{ src := s.unitOf s.cur, dst := w, body := .push (opposite p.dir) v }] } := by
  simp only [push, getPort, bind_bind_run, bind_getC_run, bind_pure_run, bind_get_run, hp, hk, hw]
  rfl

/-- A push through a ring port adds an entry to the ring. -/
theorem push_rr {s : State} {n : Nat} {p : Port} {v : Word} (hp : mget (s.ctx s.cur).ports n {} = p) (hk : p.kind = 4) :
    push n v s = .ok () (s.ringPush (s.unitOf s.cur) p.ring v) := by
  simp only [push, getPort, bind_bind_run, bind_getC_run, bind_pure_run, bind_get_run, hp, hk]
  rfl

/-- An available s source is not waited for (R163, R192). -/
theorem needS_ok {s : State} {b : BitVec 5} (h : (s.ctx s.cur).sReady b.toNat = true) : needS b s = .ok () s := by
  unfold needS
  rw [bind_getC_run, h, stallUnless_true]

/-- A source and a destination are ready where neither waits and neither traps (R192). -/
theorem ready1_ok {s : State} {d a : BitVec 5} {p q : BitVec 2} (h1 : needA a q s = .ok () s) (h2 : needDst d p s = .ok () s)
    (h3 : checkA a q s = .ok () s) (h4 : checkDst d p s = .ok () s) : ready1 d a p q s = .ok () s := by
  unfold ready1
  rw [bind_ok h1, bind_ok h2, bind_ok h3, h4]

/-- An SR operation of two sources completes where each of its parts does. -/
theorem sr2_ok {s t r : State} {d a b : BitVec 5} {p q : BitVec 2} {f : Word → Word → Word} {x y : Word}
    (h0 : needS b s = .ok () s) (h1 : ready1 d a p q s = .ok () s) (h2 : rdS b s = .ok y s)
    (h4 : takeA a q s = .ok x t) (h5 : putD d p (f x y) t = .ok () r) : sr2 d a b p q f s = .ok () r := by
  unfold sr2
  rw [bind_ok h0, bind_ok h1, bind_ok h2, bind_ok h4, h5]

theorem sr1_ok {s t r : State} {d a : BitVec 5} {p q : BitVec 2} {f : Word → Word} {x : Word}
    (h1 : ready1 d a p q s = .ok () s) (h4 : takeA a q s = .ok x t)
    (h5 : putD d p (f x) t = .ok () r) : sr1 d a p q f s = .ok () r := by
  unfold sr1
  rw [bind_ok h1, bind_ok h4, h5]

theorem srF2_ok {s t r : State} {d a b : BitVec 5} {p q : BitVec 2} {f : Word → Word → Word → Word × Nat} {x y : Word}
    (h0 : needS b s = .ok () s) (h1 : ready1 d a p q s = .ok () s) (h2 : rdS b s = .ok y s)
    (h4 : takeA a q s = .ok x t) (h5 : putD d p (f (t.ctx t.cur).fmt x y).1 (t.modCtx t.cur (fun c => c.accrue (f (t.ctx t.cur).fmt x y).2)) = .ok () r) :
    srF2 d a b p q f s = .ok () r := by
  unfold srF2
  rw [bind_ok h0, bind_ok h1, bind_ok h2, bind_ok h4]
  exact h5

theorem srF1_ok {s t r : State} {d a : BitVec 5} {p q : BitVec 2} {f : Word → Word → Word × Nat} {x : Word}
    (h1 : ready1 d a p q s = .ok () s) (h4 : takeA a q s = .ok x t)
    (h5 : putD d p (f (t.ctx t.cur).fmt x).1 (t.modCtx t.cur (fun c => c.accrue (f (t.ctx t.cur).fmt x).2)) = .ok () r) :
    srF1 d a p q f s = .ok () r := by
  unfold srF1
  rw [bind_ok h1, bind_ok h4]
  exact h5

/-- An immediate operation completes where its source can be read and its destination named. -/
theorem si1_ok {s : State} {d a : BitVec 5} {f : Word → Word} {x : Word}
    (h1 : rdS a s = .ok x s) (h2 : needD d s = .ok () s) :
    si1 d a f s = .ok () (s.modCtx s.cur (fun c => c.setS d.toNat (f x))) := by
  unfold si1
  rw [bind_ok h1, bind_ok h2]
  rfl

end Sys2Proof.Laws
end

