-- ==== Sys2Proof/Laws/PerInstr.lean ====
section
/-! SUPPORT. The family RoundTrip: what the encoder writes, the decoder reads back, one lemma per constructor. -/

set_option linter.unusedSimpArgs false

namespace Sys2Proof.Laws.RoundTrip

theorem add (d a b : BitVec 5) (p q : BitVec 2) : Statement (.add d a b p q) := by
  refine roundTrip_via (0x0#8 ++ d ++ a ++ b ++ p ++ q ++ 0x1#5) rfl rfl fun iw hf => ?_
  obtain ⟨c0, h1, s0, e0, e1, e2, e3, e4⟩ : fld iw 30 2 = 0 ∧ fld iw 24 8 = 0x00#8 ∧ fld iw 0 5 = 1#5 ∧ fld iw 19 5 = d ∧ fld iw 14 5 = a ∧ fld iw 9 5 = b ∧ fld iw 7 2 = p ∧ fld iw 5 2 = q := by
    and_intros <;> simp (disch := decide) only [hf, ext_hi, ext_lo, ext_all, Nat.reduceSub] <;> rfl
  exact ⟨by rw [select_scalar c0, selectScalar, h1, s0, e0, e1, e2, e3, e4]; rfl, mask_none rfl⟩

theorem sub (d a b : BitVec 5) (p q : BitVec 2) : Statement (.sub d a b p q) := by
  refine roundTrip_via (0x0#8 ++ d ++ a ++ b ++ p ++ q ++ 0x2#5) rfl rfl fun iw hf => ?_
  obtain ⟨c0, h1, s0, e0, e1, e2, e3, e4⟩ : fld iw 30 2 = 0 ∧ fld iw 24 8 = 0x00#8 ∧ fld iw 0 5 = 2#5 ∧ fld iw 19 5 = d ∧ fld iw 14 5 = a ∧ fld iw 9 5 = b ∧ fld iw 7 2 = p ∧ fld iw 5 2 = q := by
    and_intros <;> simp (disch := decide) only [hf, ext_hi, ext_lo, ext_all, Nat.reduceSub] <;> rfl
  exact ⟨by rw [select_scalar c0, selectScalar, h1, s0, e0, e1, e2, e3, e4]; rfl, mask_none rfl⟩

theorem and (d a b : BitVec 5) (p q : BitVec 2) : Statement (.and d a b p q) := by
  refine roundTrip_via (0x0#8 ++ d ++ a ++ b ++ p ++ q ++ 0x3#5) rfl rfl fun iw hf => ?_
  obtain ⟨c0, h1, s0, e0, e1, e2, e3, e4⟩ : fld iw 30 2 = 0 ∧ fld iw 24 8 = 0x00#8 ∧ fld iw 0 5 = 3#5 ∧ fld iw 19 5 = d ∧ fld iw 14 5 = a ∧ fld iw 9 5 = b ∧ fld iw 7 2 = p ∧ fld iw 5 2 = q := by
    and_intros <;> simp (disch := decide) only [hf, ext_hi, ext_lo, ext_all, Nat.reduceSub] <;> rfl
  exact ⟨by rw [select_scalar c0, selectScalar, h1, s0, e0, e1, e2, e3, e4]; rfl, mask_none rfl⟩

theorem or (d a b : BitVec 5) (p q : BitVec 2) : Statement (.or d a b p q) := by
  refine roundTrip_via (0x0#8 ++ d ++ a ++ b ++ p ++ q ++ 0x4#5) rfl rfl fun iw hf => ?_
  obtain ⟨c0, h1, s0, e0, e1, e2, e3, e4⟩ : fld iw 30 2 = 0 ∧ fld iw 24 8 = 0x00#8 ∧ fld iw 0 5 = 4#5 ∧ fld iw 19 5 = d ∧ fld iw 14 5 = a ∧ fld iw 9 5 = b ∧ fld iw 7 2 = p ∧ fld iw 5 2 = q := by
    and_intros <;> simp (disch := decide) only [hf, ext_hi, ext_lo, ext_all, Nat.reduceSub] <;> rfl
  exact ⟨by rw [select_scalar c0, selectScalar, h1, s0, e0, e1, e2, e3, e4]; rfl, mask_none rfl⟩

theorem xor (d a b : BitVec 5) (p q : BitVec 2) : Statement (.xor d a b p q) := by
  refine roundTrip_via (0x0#8 ++ d ++ a ++ b ++ p ++ q ++ 0x5#5) rfl rfl fun iw hf => ?_
  obtain ⟨c0, h1, s0, e0, e1, e2, e3, e4⟩ : fld iw 30 2 = 0 ∧ fld iw 24 8 = 0x00#8 ∧ fld iw 0 5 = 5#5 ∧ fld iw 19 5 = d ∧ fld iw 14 5 = a ∧ fld iw 9 5 = b ∧ fld iw 7 2 = p ∧ fld iw 5 2 = q := by
    and_intros <;> simp (disch := decide) only [hf, ext_hi, ext_lo, ext_all, Nat.reduceSub] <;> rfl
  exact ⟨by rw [select_scalar c0, selectScalar, h1, s0, e0, e1, e2, e3, e4]; rfl, mask_none rfl⟩

theorem andn (d a b : BitVec 5) (p q : BitVec 2) : Statement (.andn d a b p q) := by
  refine roundTrip_via (0x0#8 ++ d ++ a ++ b ++ p ++ q ++ 0x6#5) rfl rfl fun iw hf => ?_
  obtain ⟨c0, h1, s0, e0, e1, e2, e3, e4⟩ : fld iw 30 2 = 0 ∧ fld iw 24 8 = 0x00#8 ∧ fld iw 0 5 = 6#5 ∧ fld iw 19 5 = d ∧ fld iw 14 5 = a ∧ fld iw 9 5 = b ∧ fld iw 7 2 = p ∧ fld iw 5 2 = q := by
    and_intros <;> simp (disch := decide) only [hf, ext_hi, ext_lo, ext_all, Nat.reduceSub] <;> rfl
  exact ⟨by rw [select_scalar c0, selectScalar, h1, s0, e0, e1, e2, e3, e4]; rfl, mask_none rfl⟩

theorem sll (d a b : BitVec 5) (p q : BitVec 2) : Statement (.sll d a b p q) := by
  refine roundTrip_via (0x0#8 ++ d ++ a ++ b ++ p ++ q ++ 0x7#5) rfl rfl fun iw hf => ?_
  obtain ⟨c0, h1, s0, e0, e1, e2, e3, e4⟩ : fld iw 30 2 = 0 ∧ fld iw 24 8 = 0x00#8 ∧ fld iw 0 5 = 7#5 ∧ fld iw 19 5 = d ∧ fld iw 14 5 = a ∧ fld iw 9 5 = b ∧ fld iw 7 2 = p ∧ fld iw 5 2 = q := by
    and_intros <;> simp (disch := decide) only [hf, ext_hi, ext_lo, ext_all, Nat.reduceSub] <;> rfl
  exact ⟨by rw [select_scalar c0, selectScalar, h1, s0, e0, e1, e2, e3, e4]; rfl, mask_none rfl⟩

theorem srl (d a b : BitVec 5) (p q : BitVec 2) : Statement (.srl d a b p q) := by
  refine roundTrip_via (0x0#8 ++ d ++ a ++ b ++ p ++ q ++ 0x8#5) rfl rfl fun iw hf => ?_
  obtain ⟨c0, h1, s0, e0, e1, e2, e3, e4⟩ : fld iw 30 2 = 0 ∧ fld iw 24 8 = 0x00#8 ∧ fld iw 0 5 = 8#5 ∧ fld iw 19 5 = d ∧ fld iw 14 5 = a ∧ fld iw 9 5 = b ∧ fld iw 7 2 = p ∧ fld iw 5 2 = q := by
    and_intros <;> simp (disch := decide) only [hf, ext_hi, ext_lo, ext_all, Nat.reduceSub] <;> rfl
  exact ⟨by rw [select_scalar c0, selectScalar, h1, s0, e0, e1, e2, e3, e4]; rfl, mask_none rfl⟩

theorem sra (d a b : BitVec 5) (p q : BitVec 2) : Statement (.sra d a b p q) := by
  refine roundTrip_via (0x0#8 ++ d ++ a ++ b ++ p ++ q ++ 0x9#5) rfl rfl fun iw hf => ?_
  obtain ⟨c0, h1, s0, e0, e1, e2, e3, e4⟩ : fld iw 30 2 = 0 ∧ fld iw 24 8 = 0x00#8 ∧ fld iw 0 5 = 9#5 ∧ fld iw 19 5 = d ∧ fld iw 14 5 = a ∧ fld iw 9 5 = b ∧ fld iw 7 2 = p ∧ fld iw 5 2 = q := by
    and_intros <;> simp (disch := decide) only [hf, ext_hi, ext_lo, ext_all, Nat.reduceSub] <;> rfl
  exact ⟨by rw [select_scalar c0, selectScalar, h1, s0, e0, e1, e2, e3, e4]; rfl, mask_none rfl⟩

theorem mul (d a b : BitVec 5) (p q : BitVec 2) : Statement (.mul d a b p q) := by
  refine roundTrip_via (0x0#8 ++ d ++ a ++ b ++ p ++ q ++ 0xA#5) rfl rfl fun iw hf => ?_
  obtain ⟨c0, h1, s0, e0, e1, e2, e3, e4⟩ : fld iw 30 2 = 0 ∧ fld iw 24 8 = 0x00#8 ∧ fld iw 0 5 = 10#5 ∧ fld iw 19 5 = d ∧ fld iw 14 5 = a ∧ fld iw 9 5 = b ∧ fld iw 7 2 = p ∧ fld iw 5 2 = q := by
    and_intros <;> simp (disch := decide) only [hf, ext_hi, ext_lo, ext_all, Nat.reduceSub] <;> rfl
  exact ⟨by rw [select_scalar c0, selectScalar, h1, s0, e0, e1, e2, e3, e4]; rfl, mask_none rfl⟩

theorem mulh (d a b : BitVec 5) (p q : BitVec 2) : Statement (.mulh d a b p q) := by
  refine roundTrip_via (0x0#8 ++ d ++ a ++ b ++ p ++ q ++ 0xB#5) rfl rfl fun iw hf => ?_
  obtain ⟨c0, h1, s0, e0, e1, e2, e3, e4⟩ : fld iw 30 2 = 0 ∧ fld iw 24 8 = 0x00#8 ∧ fld iw 0 5 = 11#5 ∧ fld iw 19 5 = d ∧ fld iw 14 5 = a ∧ fld iw 9 5 = b ∧ fld iw 7 2 = p ∧ fld iw 5 2 = q := by
    and_intros <;> simp (disch := decide) only [hf, ext_hi, ext_lo, ext_all, Nat.reduceSub] <;> rfl
  exact ⟨by rw [select_scalar c0, selectScalar, h1, s0, e0, e1, e2, e3, e4]; rfl, mask_none rfl⟩

theorem mulhu (d a b : BitVec 5) (p q : BitVec 2) : Statement (.mulhu d a b p q) := by
  refine roundTrip_via (0x0#8 ++ d ++ a ++ b ++ p ++ q ++ 0xC#5) rfl rfl fun iw hf => ?_
  obtain ⟨c0, h1, s0, e0, e1, e2, e3, e4⟩ : fld iw 30 2 = 0 ∧ fld iw 24 8 = 0x00#8 ∧ fld iw 0 5 = 12#5 ∧ fld iw 19 5 = d ∧ fld iw 14 5 = a ∧ fld iw 9 5 = b ∧ fld iw 7 2 = p ∧ fld iw 5 2 = q := by
    and_intros <;> simp (disch := decide) only [hf, ext_hi, ext_lo, ext_all, Nat.reduceSub] <;> rfl
  exact ⟨by rw [select_scalar c0, selectScalar, h1, s0, e0, e1, e2, e3, e4]; rfl, mask_none rfl⟩

theorem div (d a b : BitVec 5) (p q : BitVec 2) : Statement (.div d a b p q) := by
  refine roundTrip_via (0x0#8 ++ d ++ a ++ b ++ p ++ q ++ 0xD#5) rfl rfl fun iw hf => ?_
  obtain ⟨c0, h1, s0, e0, e1, e2, e3, e4⟩ : fld iw 30 2 = 0 ∧ fld iw 24 8 = 0x00#8 ∧ fld iw 0 5 = 13#5 ∧ fld iw 19 5 = d ∧ fld iw 14 5 = a ∧ fld iw 9 5 = b ∧ fld iw 7 2 = p ∧ fld iw 5 2 = q := by
    and_intros <;> simp (disch := decide) only [hf, ext_hi, ext_lo, ext_all, Nat.reduceSub] <;> rfl
  exact ⟨by rw [select_scalar c0, selectScalar, h1, s0, e0, e1, e2, e3, e4]; rfl, mask_none rfl⟩

theorem divu (d a b : BitVec 5) (p q : BitVec 2) : Statement (.divu d a b p q) := by
  refine roundTrip_via (0x0#8 ++ d ++ a ++ b ++ p ++ q ++ 0xE#5) rfl rfl fun iw hf => ?_
  obtain ⟨c0, h1, s0, e0, e1, e2, e3, e4⟩ : fld iw 30 2 = 0 ∧ fld iw 24 8 = 0x00#8 ∧ fld iw 0 5 = 14#5 ∧ fld iw 19 5 = d ∧ fld iw 14 5 = a ∧ fld iw 9 5 = b ∧ fld iw 7 2 = p ∧ fld iw 5 2 = q := by
    and_intros <;> simp (disch := decide) only [hf, ext_hi, ext_lo, ext_all, Nat.reduceSub] <;> rfl
  exact ⟨by rw [select_scalar c0, selectScalar, h1, s0, e0, e1, e2, e3, e4]; rfl, mask_none rfl⟩

theorem rem (d a b : BitVec 5) (p q : BitVec 2) : Statement (.rem d a b p q) := by
  refine roundTrip_via (0x0#8 ++ d ++ a ++ b ++ p ++ q ++ 0xF#5) rfl rfl fun iw hf => ?_
  obtain ⟨c0, h1, s0, e0, e1, e2, e3, e4⟩ : fld iw 30 2 = 0 ∧ fld iw 24 8 = 0x00#8 ∧ fld iw 0 5 = 15#5 ∧ fld iw 19 5 = d ∧ fld iw 14 5 = a ∧ fld iw 9 5 = b ∧ fld iw 7 2 = p ∧ fld iw 5 2 = q := by
    and_intros <;> simp (disch := decide) only [hf, ext_hi, ext_lo, ext_all, Nat.reduceSub] <;> rfl
  exact ⟨by rw [select_scalar c0, selectScalar, h1, s0, e0, e1, e2, e3, e4]; rfl, mask_none rfl⟩

theorem remu (d a b : BitVec 5) (p q : BitVec 2) : Statement (.remu d a b p q) := by
  refine roundTrip_via (0x0#8 ++ d ++ a ++ b ++ p ++ q ++ 0x10#5) rfl rfl fun iw hf => ?_
  obtain ⟨c0, h1, s0, e0, e1, e2, e3, e4⟩ : fld iw 30 2 = 0 ∧ fld iw 24 8 = 0x00#8 ∧ fld iw 0 5 = 16#5 ∧ fld iw 19 5 = d ∧ fld iw 14 5 = a ∧ fld iw 9 5 = b ∧ fld iw 7 2 = p ∧ fld iw 5 2 = q := by
    and_intros <;> simp (disch := decide) only [hf, ext_hi, ext_lo, ext_all, Nat.reduceSub] <;> rfl
  exact ⟨by rw [select_scalar c0, selectScalar, h1, s0, e0, e1, e2, e3, e4]; rfl, mask_none rfl⟩

theorem slt (d a b : BitVec 5) (p q : BitVec 2) : Statement (.slt d a b p q) := by
  refine roundTrip_via (0x0#8 ++ d ++ a ++ b ++ p ++ q ++ 0x11#5) rfl rfl fun iw hf => ?_
  obtain ⟨c0, h1, s0, e0, e1, e2, e3, e4⟩ : fld iw 30 2 = 0 ∧ fld iw 24 8 = 0x00#8 ∧ fld iw 0 5 = 17#5 ∧ fld iw 19 5 = d ∧ fld iw 14 5 = a ∧ fld iw 9 5 = b ∧ fld iw 7 2 = p ∧ fld iw 5 2 = q := by
    and_intros <;> simp (disch := decide) only [hf, ext_hi, ext_lo, ext_all, Nat.reduceSub] <;> rfl
  exact ⟨by rw [select_scalar c0, selectScalar, h1, s0, e0, e1, e2, e3, e4]; rfl, mask_none rfl⟩

theorem sltu (d a b : BitVec 5) (p q : BitVec 2) : Statement (.sltu d a b p q) := by
  refine roundTrip_via (0x0#8 ++ d ++ a ++ b ++ p ++ q ++ 0x12#5) rfl rfl fun iw hf => ?_
  obtain ⟨c0, h1, s0, e0, e1, e2, e3, e4⟩ : fld iw 30 2 = 0 ∧ fld iw 24 8 = 0x00#8 ∧ fld iw 0 5 = 18#5 ∧ fld iw 19 5 = d ∧ fld iw 14 5 = a ∧ fld iw 9 5 = b ∧ fld iw 7 2 = p ∧ fld iw 5 2 = q := by
    and_intros <;> simp (disch := decide) only [hf, ext_hi, ext_lo, ext_all, Nat.reduceSub] <;> rfl
  exact ⟨by rw [select_scalar c0, selectScalar, h1, s0, e0, e1, e2, e3, e4]; rfl, mask_none rfl⟩

theorem min (d a b : BitVec 5) (p q : BitVec 2) : Statement (.min d a b p q) := by
  refine roundTrip_via (0x0#8 ++ d ++ a ++ b ++ p ++ q ++ 0x13#5) rfl rfl fun iw hf => ?_
  obtain ⟨c0, h1, s0, e0, e1, e2, e3, e4⟩ : fld iw 30 2 = 0 ∧ fld iw 24 8 = 0x00#8 ∧ fld iw 0 5 = 19#5 ∧ fld iw 19 5 = d ∧ fld iw 14 5 = a ∧ fld iw 9 5 = b ∧ fld iw 7 2 = p ∧ fld iw 5 2 = q := by
    and_intros <;> simp (disch := decide) only [hf, ext_hi, ext_lo, ext_all, Nat.reduceSub] <;> rfl
  exact ⟨by rw [select_scalar c0, selectScalar, h1, s0, e0, e1, e2, e3, e4]; rfl, mask_none rfl⟩

theorem max (d a b : BitVec 5) (p q : BitVec 2) : Statement (.max d a b p q) := by
  refine roundTrip_via (0x0#8 ++ d ++ a ++ b ++ p ++ q ++ 0x14#5) rfl rfl fun iw hf => ?_
  obtain ⟨c0, h1, s0, e0, e1, e2, e3, e4⟩ : fld iw 30 2 = 0 ∧ fld iw 24 8 = 0x00#8 ∧ fld iw 0 5 = 20#5 ∧ fld iw 19 5 = d ∧ fld iw 14 5 = a ∧ fld iw 9 5 = b ∧ fld iw 7 2 = p ∧ fld iw 5 2 = q := by
    and_intros <;> simp (disch := decide) only [hf, ext_hi, ext_lo, ext_all, Nat.reduceSub] <;> rfl
  exact ⟨by rw [select_scalar c0, selectScalar, h1, s0, e0, e1, e2, e3, e4]; rfl, mask_none rfl⟩

theorem minu (d a b : BitVec 5) (p q : BitVec 2) : Statement (.minu d a b p q) := by
  refine roundTrip_via (0x0#8 ++ d ++ a ++ b ++ p ++ q ++ 0x15#5) rfl rfl fun iw hf => ?_
  obtain ⟨c0, h1, s0, e0, e1, e2, e3, e4⟩ : fld iw 30 2 = 0 ∧ fld iw 24 8 = 0x00#8 ∧ fld iw 0 5 = 21#5 ∧ fld iw 19 5 = d ∧ fld iw 14 5 = a ∧ fld iw 9 5 = b ∧ fld iw 7 2 = p ∧ fld iw 5 2 = q := by
    and_intros <;> simp (disch := decide) only [hf, ext_hi, ext_lo, ext_all, Nat.reduceSub] <;> rfl
  exact ⟨by rw [select_scalar c0, selectScalar, h1, s0, e0, e1, e2, e3, e4]; rfl, mask_none rfl⟩

theorem maxu (d a b : BitVec 5) (p q : BitVec 2) : Statement (.maxu d a b p q) := by
  refine roundTrip_via (0x0#8 ++ d ++ a ++ b ++ p ++ q ++ 0x16#5) rfl rfl fun iw hf => ?_
  obtain ⟨c0, h1, s0, e0, e1, e2, e3, e4⟩ : fld iw 30 2 = 0 ∧ fld iw 24 8 = 0x00#8 ∧ fld iw 0 5 = 22#5 ∧ fld iw 19 5 = d ∧ fld iw 14 5 = a ∧ fld iw 9 5 = b ∧ fld iw 7 2 = p ∧ fld iw 5 2 = q := by
    and_intros <;> simp (disch := decide) only [hf, ext_hi, ext_lo, ext_all, Nat.reduceSub] <;> rfl
  exact ⟨by rw [select_scalar c0, selectScalar, h1, s0, e0, e1, e2, e3, e4]; rfl, mask_none rfl⟩

theorem clz (d a : BitVec 5) (p q : BitVec 2) : Statement (.clz d a p q) := by
  refine roundTrip_via (0x0#8 ++ d ++ a ++ 0x0#5 ++ p ++ q ++ 0x17#5) rfl rfl fun iw hf => ?_
  obtain ⟨c0, h1, s0, e0, e1, e2, e3, r0⟩ : fld iw 30 2 = 0 ∧ fld iw 24 8 = 0x00#8 ∧ fld iw 0 5 = 23#5 ∧ fld iw 19 5 = d ∧ fld iw 14 5 = a ∧ fld iw 7 2 = p ∧ fld iw 5 2 = q ∧ fld iw 9 5 = 0 := by
    and_intros <;> simp (disch := decide) only [hf, ext_hi, ext_lo, ext_all, Nat.reduceSub] <;> rfl
  exact ⟨by rw [select_scalar c0, selectScalar, h1, s0, e0, e1, e2, e3]; rfl, mask_runs [(9, 5)] rfl (by simp [r0])⟩

theorem ctz (d a : BitVec 5) (p q : BitVec 2) : Statement (.ctz d a p q) := by
  refine roundTrip_via (0x0#8 ++ d ++ a ++ 0x0#5 ++ p ++ q ++ 0x18#5) rfl rfl fun iw hf => ?_
  obtain ⟨c0, h1, s0, e0, e1, e2, e3, r0⟩ : fld iw 30 2 = 0 ∧ fld iw 24 8 = 0x00#8 ∧ fld iw 0 5 = 24#5 ∧ fld iw 19 5 = d ∧ fld iw 14 5 = a ∧ fld iw 7 2 = p ∧ fld iw 5 2 = q ∧ fld iw 9 5 = 0 := by
    and_intros <;> simp (disch := decide) only [hf, ext_hi, ext_lo, ext_all, Nat.reduceSub] <;> rfl
  exact ⟨by rw [select_scalar c0, selectScalar, h1, s0, e0, e1, e2, e3]; rfl, mask_runs [(9, 5)] rfl (by simp [r0])⟩

theorem popc (d a : BitVec 5) (p q : BitVec 2) : Statement (.popc d a p q) := by
  refine roundTrip_via (0x0#8 ++ d ++ a ++ 0x0#5 ++ p ++ q ++ 0x19#5) rfl rfl fun iw hf => ?_
  obtain ⟨c0, h1, s0, e0, e1, e2, e3, r0⟩ : fld iw 30 2 = 0 ∧ fld iw 24 8 = 0x00#8 ∧ fld iw 0 5 = 25#5 ∧ fld iw 19 5 = d ∧ fld iw 14 5 = a ∧ fld iw 7 2 = p ∧ fld iw 5 2 = q ∧ fld iw 9 5 = 0 := by
    and_intros <;> simp (disch := decide) only [hf, ext_hi, ext_lo, ext_all, Nat.reduceSub] <;> rfl
  exact ⟨by rw [select_scalar c0, selectScalar, h1, s0, e0, e1, e2, e3]; rfl, mask_runs [(9, 5)] rfl (by simp [r0])⟩

theorem addi (d a : BitVec 5) (i : BitVec 14) : Statement (.addi d a i) := by
  refine roundTrip_via (0x1#8 ++ d ++ a ++ i) rfl rfl fun iw hf => ?_
  obtain ⟨c0, h1, e0, e1, e2⟩ : fld iw 30 2 = 0 ∧ fld iw 24 8 = 0x01#8 ∧ fld iw 19 5 = d ∧ fld iw 14 5 = a ∧ fld iw 0 14 = i := by
    and_intros <;> simp (disch := decide) only [hf, ext_hi, ext_lo, ext_all, Nat.reduceSub] <;> rfl
  exact ⟨by rw [select_scalar c0, selectScalar, h1, e0, e1, e2]; rfl, mask_none rfl⟩

theorem andi (d a : BitVec 5) (i : BitVec 14) : Statement (.andi d a i) := by
  refine roundTrip_via (0x2#8 ++ d ++ a ++ i) rfl rfl fun iw hf => ?_
  obtain ⟨c0, h1, e0, e1, e2⟩ : fld iw 30 2 = 0 ∧ fld iw 24 8 = 0x02#8 ∧ fld iw 19 5 = d ∧ fld iw 14 5 = a ∧ fld iw 0 14 = i := by
    and_intros <;> simp (disch := decide) only [hf, ext_hi, ext_lo, ext_all, Nat.reduceSub] <;> rfl
  exact ⟨by rw [select_scalar c0, selectScalar, h1, e0, e1, e2]; rfl, mask_none rfl⟩

theorem ori (d a : BitVec 5) (i : BitVec 14) : Statement (.ori d a i) := by
  refine roundTrip_via (0x3#8 ++ d ++ a ++ i) rfl rfl fun iw hf => ?_
  obtain ⟨c0, h1, e0, e1, e2⟩ : fld iw 30 2 = 0 ∧ fld iw 24 8 = 0x03#8 ∧ fld iw 19 5 = d ∧ fld iw 14 5 = a ∧ fld iw 0 14 = i := by
    and_intros <;> simp (disch := decide) only [hf, ext_hi, ext_lo, ext_all, Nat.reduceSub] <;> rfl
  exact ⟨by rw [select_scalar c0, selectScalar, h1, e0, e1, e2]; rfl, mask_none rfl⟩

theorem xori (d a : BitVec 5) (i : BitVec 14) : Statement (.xori d a i) := by
  refine roundTrip_via (0x4#8 ++ d ++ a ++ i) rfl rfl fun iw hf => ?_
  obtain ⟨c0, h1, e0, e1, e2⟩ : fld iw 30 2 = 0 ∧ fld iw 24 8 = 0x04#8 ∧ fld iw 19 5 = d ∧ fld iw 14 5 = a ∧ fld iw 0 14 = i := by
    and_intros <;> simp (disch := decide) only [hf, ext_hi, ext_lo, ext_all, Nat.reduceSub] <;> rfl
  exact ⟨by rw [select_scalar c0, selectScalar, h1, e0, e1, e2]; rfl, mask_none rfl⟩

theorem slli (d a : BitVec 5) (i : BitVec 6) : Statement (.slli d a i) := by
  refine roundTrip_via (0x5#8 ++ d ++ a ++ 0x0#8 ++ i) rfl rfl fun iw hf => ?_
  obtain ⟨c0, h1, e0, e1, e2, r0⟩ : fld iw 30 2 = 0 ∧ fld iw 24 8 = 0x05#8 ∧ fld iw 19 5 = d ∧ fld iw 14 5 = a ∧ fld iw 0 6 = i ∧ fld iw 6 8 = 0 := by
    and_intros <;> simp (disch := decide) only [hf, ext_hi, ext_lo, ext_all, Nat.reduceSub] <;> rfl
  exact ⟨by rw [select_scalar c0, selectScalar, h1, e0, e1, e2]; rfl, mask_runs [(6, 8)] rfl (by simp [r0])⟩

theorem srli (d a : BitVec 5) (i : BitVec 6) : Statement (.srli d a i) := by
  refine roundTrip_via (0x6#8 ++ d ++ a ++ 0x0#8 ++ i) rfl rfl fun iw hf => ?_
  obtain ⟨c0, h1, e0, e1, e2, r0⟩ : fld iw 30 2 = 0 ∧ fld iw 24 8 = 0x06#8 ∧ fld iw 19 5 = d ∧ fld iw 14 5 = a ∧ fld iw 0 6 = i ∧ fld iw 6 8 = 0 := by
    and_intros <;> simp (disch := decide) only [hf, ext_hi, ext_lo, ext_all, Nat.reduceSub] <;> rfl
  exact ⟨by rw [select_scalar c0, selectScalar, h1, e0, e1, e2]; rfl, mask_runs [(6, 8)] rfl (by simp [r0])⟩

theorem srai (d a : BitVec 5) (i : BitVec 6) : Statement (.srai d a i) := by
  refine roundTrip_via (0x7#8 ++ d ++ a ++ 0x0#8 ++ i) rfl rfl fun iw hf => ?_
  obtain ⟨c0, h1, e0, e1, e2, r0⟩ : fld iw 30 2 = 0 ∧ fld iw 24 8 = 0x07#8 ∧ fld iw 19 5 = d ∧ fld iw 14 5 = a ∧ fld iw 0 6 = i ∧ fld iw 6 8 = 0 := by
    and_intros <;> simp (disch := decide) only [hf, ext_hi, ext_lo, ext_all, Nat.reduceSub] <;> rfl
  exact ⟨by rw [select_scalar c0, selectScalar, h1, e0, e1, e2]; rfl, mask_runs [(6, 8)] rfl (by simp [r0])⟩

theorem slti (d a : BitVec 5) (i : BitVec 14) : Statement (.slti d a i) := by
  refine roundTrip_via (0x8#8 ++ d ++ a ++ i) rfl rfl fun iw hf => ?_
  obtain ⟨c0, h1, e0, e1, e2⟩ : fld iw 30 2 = 0 ∧ fld iw 24 8 = 0x08#8 ∧ fld iw 19 5 = d ∧ fld iw 14 5 = a ∧ fld iw 0 14 = i := by
    and_intros <;> simp (disch := decide) only [hf, ext_hi, ext_lo, ext_all, Nat.reduceSub] <;> rfl
  exact ⟨by rw [select_scalar c0, selectScalar, h1, e0, e1, e2]; rfl, mask_none rfl⟩

theorem sltiu (d a : BitVec 5) (i : BitVec 14) : Statement (.sltiu d a i) := by
  refine roundTrip_via (0x9#8 ++ d ++ a ++ i) rfl rfl fun iw hf => ?_
  obtain ⟨c0, h1, e0, e1, e2⟩ : fld iw 30 2 = 0 ∧ fld iw 24 8 = 0x09#8 ∧ fld iw 19 5 = d ∧ fld iw 14 5 = a ∧ fld iw 0 14 = i := by
    and_intros <;> simp (disch := decide) only [hf, ext_hi, ext_lo, ext_all, Nat.reduceSub] <;> rfl
  exact ⟨by rw [select_scalar c0, selectScalar, h1, e0, e1, e2]; rfl, mask_none rfl⟩

theorem lui (d : BitVec 5) (i : BitVec 19) : Statement (.lui d i) := by
  refine roundTrip_via (0xA#8 ++ d ++ i) rfl rfl fun iw hf => ?_
  obtain ⟨c0, h1, e0, e1⟩ : fld iw 30 2 = 0 ∧ fld iw 24 8 = 0x0A#8 ∧ fld iw 19 5 = d ∧ fld iw 0 19 = i := by
    and_intros <;> simp (disch := decide) only [hf, ext_hi, ext_lo, ext_all, Nat.reduceSub] <;> rfl
  exact ⟨by rw [select_scalar c0, selectScalar, h1, e0, e1]; rfl, mask_none rfl⟩

theorem auipc (d : BitVec 5) (i : BitVec 19) : Statement (.auipc d i) := by
  refine roundTrip_via (0xB#8 ++ d ++ i) rfl rfl fun iw hf => ?_
  obtain ⟨c0, h1, e0, e1⟩ : fld iw 30 2 = 0 ∧ fld iw 24 8 = 0x0B#8 ∧ fld iw 19 5 = d ∧ fld iw 0 19 = i := by
    and_intros <;> simp (disch := decide) only [hf, ext_hi, ext_lo, ext_all, Nat.reduceSub] <;> rfl
  exact ⟨by rw [select_scalar c0, selectScalar, h1, e0, e1]; rfl, mask_none rfl⟩

theorem lea (d a b : BitVec 5) (z : BitVec 1) (s : BitVec 3) : Statement (.lea d a b z s) := by
  refine roundTrip_via (0xC#8 ++ d ++ a ++ b ++ 0x0#5 ++ z ++ s) rfl rfl fun iw hf => ?_
  obtain ⟨c0, h1, e0, e1, e2, e3, e4, r0⟩ : fld iw 30 2 = 0 ∧ fld iw 24 8 = 0x0C#8 ∧ fld iw 19 5 = d ∧ fld iw 14 5 = a ∧ fld iw 9 5 = b ∧ fld iw 3 1 = z ∧ fld iw 0 3 = s ∧ fld iw 4 5 = 0 := by
    and_intros <;> simp (disch := decide) only [hf, ext_hi, ext_lo, ext_all, Nat.reduceSub] <;> rfl
  exact ⟨by rw [select_scalar c0, selectScalar, h1, e0, e1, e2, e3, e4]; rfl, mask_runs [(4, 5)] rfl (by simp [r0])⟩

theorem fadd (d a b : BitVec 5) (p q : BitVec 2) : Statement (.fadd d a b p q) := by
  refine roundTrip_via (0xD#8 ++ d ++ a ++ b ++ p ++ q ++ 0x1#5) rfl rfl fun iw hf => ?_
  obtain ⟨c0, h1, s0, e0, e1, e2, e3, e4⟩ : fld iw 30 2 = 0 ∧ fld iw 24 8 = 0x0D#8 ∧ fld iw 0 5 = 1#5 ∧ fld iw 19 5 = d ∧ fld iw 14 5 = a ∧ fld iw 9 5 = b ∧ fld iw 7 2 = p ∧ fld iw 5 2 = q := by
    and_intros <;> simp (disch := decide) only [hf, ext_hi, ext_lo, ext_all, Nat.reduceSub] <;> rfl
  exact ⟨by rw [select_scalar c0, selectScalar, h1, s0, e0, e1, e2, e3, e4]; rfl, mask_none rfl⟩

theorem fsub (d a b : BitVec 5) (p q : BitVec 2) : Statement (.fsub d a b p q) := by
  refine roundTrip_via (0xD#8 ++ d ++ a ++ b ++ p ++ q ++ 0x2#5) rfl rfl fun iw hf => ?_
  obtain ⟨c0, h1, s0, e0, e1, e2, e3, e4⟩ : fld iw 30 2 = 0 ∧ fld iw 24 8 = 0x0D#8 ∧ fld iw 0 5 = 2#5 ∧ fld iw 19 5 = d ∧ fld iw 14 5 = a ∧ fld iw 9 5 = b ∧ fld iw 7 2 = p ∧ fld iw 5 2 = q := by
    and_intros <;> simp (disch := decide) only [hf, ext_hi, ext_lo, ext_all, Nat.reduceSub] <;> rfl
  exact ⟨by rw [select_scalar c0, selectScalar, h1, s0, e0, e1, e2, e3, e4]; rfl, mask_none rfl⟩

theorem fmul (d a b : BitVec 5) (p q : BitVec 2) : Statement (.fmul d a b p q) := by
  refine roundTrip_via (0xD#8 ++ d ++ a ++ b ++ p ++ q ++ 0x3#5) rfl rfl fun iw hf => ?_
  obtain ⟨c0, h1, s0, e0, e1, e2, e3, e4⟩ : fld iw 30 2 = 0 ∧ fld iw 24 8 = 0x0D#8 ∧ fld iw 0 5 = 3#5 ∧ fld iw 19 5 = d ∧ fld iw 14 5 = a ∧ fld iw 9 5 = b ∧ fld iw 7 2 = p ∧ fld iw 5 2 = q := by
    and_intros <;> simp (disch := decide) only [hf, ext_hi, ext_lo, ext_all, Nat.reduceSub] <;> rfl
  exact ⟨by rw [select_scalar c0, selectScalar, h1, s0, e0, e1, e2, e3, e4]; rfl, mask_none rfl⟩

theorem fdiv (d a b : BitVec 5) (p q : BitVec 2) : Statement (.fdiv d a b p q) := by
  refine roundTrip_via (0xD#8 ++ d ++ a ++ b ++ p ++ q ++ 0x4#5) rfl rfl fun iw hf => ?_
  obtain ⟨c0, h1, s0, e0, e1, e2, e3, e4⟩ : fld iw 30 2 = 0 ∧ fld iw 24 8 = 0x0D#8 ∧ fld iw 0 5 = 4#5 ∧ fld iw 19 5 = d ∧ fld iw 14 5 = a ∧ fld iw 9 5 = b ∧ fld iw 7 2 = p ∧ fld iw 5 2 = q := by
    and_intros <;> simp (disch := decide) only [hf, ext_hi, ext_lo, ext_all, Nat.reduceSub] <;> rfl
  exact ⟨by rw [select_scalar c0, selectScalar, h1, s0, e0, e1, e2, e3, e4]; rfl, mask_none rfl⟩

theorem fsqrt (d a : BitVec 5) (p q : BitVec 2) : Statement (.fsqrt d a p q) := by
  refine roundTrip_via (0xD#8 ++ d ++ a ++ 0x0#5 ++ p ++ q ++ 0x5#5) rfl rfl fun iw hf => ?_
  obtain ⟨c0, h1, s0, e0, e1, e2, e3, r0⟩ : fld iw 30 2 = 0 ∧ fld iw 24 8 = 0x0D#8 ∧ fld iw 0 5 = 5#5 ∧ fld iw 19 5 = d ∧ fld iw 14 5 = a ∧ fld iw 7 2 = p ∧ fld iw 5 2 = q ∧ fld iw 9 5 = 0 := by
    and_intros <;> simp (disch := decide) only [hf, ext_hi, ext_lo, ext_all, Nat.reduceSub] <;> rfl
  exact ⟨by rw [select_scalar c0, selectScalar, h1, s0, e0, e1, e2, e3]; rfl, mask_runs [(9, 5)] rfl (by simp [r0])⟩

theorem fmin (d a b : BitVec 5) (p q : BitVec 2) : Statement (.fmin d a b p q) := by
  refine roundTrip_via (0xD#8 ++ d ++ a ++ b ++ p ++ q ++ 0x6#5) rfl rfl fun iw hf => ?_
  obtain ⟨c0, h1, s0, e0, e1, e2, e3, e4⟩ : fld iw 30 2 = 0 ∧ fld iw 24 8 = 0x0D#8 ∧ fld iw 0 5 = 6#5 ∧ fld iw 19 5 = d ∧ fld iw 14 5 = a ∧ fld iw 9 5 = b ∧ fld iw 7 2 = p ∧ fld iw 5 2 = q := by
    and_intros <;> simp (disch := decide) only [hf, ext_hi, ext_lo, ext_all, Nat.reduceSub] <;> rfl
  exact ⟨by rw [select_scalar c0, selectScalar, h1, s0, e0, e1, e2, e3, e4]; rfl, mask_none rfl⟩

theorem fmax (d a b : BitVec 5) (p q : BitVec 2) : Statement (.fmax d a b p q) := by
  refine roundTrip_via (0xD#8 ++ d ++ a ++ b ++ p ++ q ++ 0x7#5) rfl rfl fun iw hf => ?_
  obtain ⟨c0, h1, s0, e0, e1, e2, e3, e4⟩ : fld iw 30 2 = 0 ∧ fld iw 24 8 = 0x0D#8 ∧ fld iw 0 5 = 7#5 ∧ fld iw 19 5 = d ∧ fld iw 14 5 = a ∧ fld iw 9 5 = b ∧ fld iw 7 2 = p ∧ fld iw 5 2 = q := by
    and_intros <;> simp (disch := decide) only [hf, ext_hi, ext_lo, ext_all, Nat.reduceSub] <;> rfl
  exact ⟨by rw [select_scalar c0, selectScalar, h1, s0, e0, e1, e2, e3, e4]; rfl, mask_none rfl⟩

theorem feq (d a b : BitVec 5) (p q : BitVec 2) : Statement (.feq d a b p q) := by
  refine roundTrip_via (0xD#8 ++ d ++ a ++ b ++ p ++ q ++ 0x8#5) rfl rfl fun iw hf => ?_
  obtain ⟨c0, h1, s0, e0, e1, e2, e3, e4⟩ : fld iw 30 2 = 0 ∧ fld iw 24 8 = 0x0D#8 ∧ fld iw 0 5 = 8#5 ∧ fld iw 19 5 = d ∧ fld iw 14 5 = a ∧ fld iw 9 5 = b ∧ fld iw 7 2 = p ∧ fld iw 5 2 = q := by
    and_intros <;> simp (disch := decide) only [hf, ext_hi, ext_lo, ext_all, Nat.reduceSub] <;> rfl
  exact ⟨by rw [select_scalar c0, selectScalar, h1, s0, e0, e1, e2, e3, e4]; rfl, mask_none rfl⟩

theorem flt (d a b : BitVec 5) (p q : BitVec 2) : Statement (.flt d a b p q) := by
  refine roundTrip_via (0xD#8 ++ d ++ a ++ b ++ p ++ q ++ 0x9#5) rfl rfl fun iw hf => ?_
  obtain ⟨c0, h1, s0, e0, e1, e2, e3, e4⟩ : fld iw 30 2 = 0 ∧ fld iw 24 8 = 0x0D#8 ∧ fld iw 0 5 = 9#5 ∧ fld iw 19 5 = d ∧ fld iw 14 5 = a ∧ fld iw 9 5 = b ∧ fld iw 7 2 = p ∧ fld iw 5 2 = q := by
    and_intros <;> simp (disch := decide) only [hf, ext_hi, ext_lo, ext_all, Nat.reduceSub] <;> rfl
  exact ⟨by rw [select_scalar c0, selectScalar, h1, s0, e0, e1, e2, e3, e4]; rfl, mask_none rfl⟩

theorem fle (d a b : BitVec 5) (p q : BitVec 2) : Statement (.fle d a b p q) := by
  refine roundTrip_via (0xD#8 ++ d ++ a ++ b ++ p ++ q ++ 0xA#5) rfl rfl fun iw hf => ?_
  obtain ⟨c0, h1, s0, e0, e1, e2, e3, e4⟩ : fld iw 30 2 = 0 ∧ fld iw 24 8 = 0x0D#8 ∧ fld iw 0 5 = 10#5 ∧ fld iw 19 5 = d ∧ fld iw 14 5 = a ∧ fld iw 9 5 = b ∧ fld iw 7 2 = p ∧ fld iw 5 2 = q := by
    and_intros <;> simp (disch := decide) only [hf, ext_hi, ext_lo, ext_all, Nat.reduceSub] <;> rfl
  exact ⟨by rw [select_scalar c0, selectScalar, h1, s0, e0, e1, e2, e3, e4]; rfl, mask_none rfl⟩

theorem fcvtif (d a : BitVec 5) (p q : BitVec 2) : Statement (.fcvtif d a p q) := by
  refine roundTrip_via (0xD#8 ++ d ++ a ++ 0x0#5 ++ p ++ q ++ 0xB#5) rfl rfl fun iw hf => ?_
  obtain ⟨c0, h1, s0, e0, e1, e2, e3, r0⟩ : fld iw 30 2 = 0 ∧ fld iw 24 8 = 0x0D#8 ∧ fld iw 0 5 = 11#5 ∧ fld iw 19 5 = d ∧ fld iw 14 5 = a ∧ fld iw 7 2 = p ∧ fld iw 5 2 = q ∧ fld iw 9 5 = 0 := by
    and_intros <;> simp (disch := decide) only [hf, ext_hi, ext_lo, ext_all, Nat.reduceSub] <;> rfl
  exact ⟨by rw [select_scalar c0, selectScalar, h1, s0, e0, e1, e2, e3]; rfl, mask_runs [(9, 5)] rfl (by simp [r0])⟩

theorem fcvtfi (d a : BitVec 5) (p q : BitVec 2) : Statement (.fcvtfi d a p q) := by
  refine roundTrip_via (0xD#8 ++ d ++ a ++ 0x0#5 ++ p ++ q ++ 0xC#5) rfl rfl fun iw hf => ?_
  obtain ⟨c0, h1, s0, e0, e1, e2, e3, r0⟩ : fld iw 30 2 = 0 ∧ fld iw 24 8 = 0x0D#8 ∧ fld iw 0 5 = 12#5 ∧ fld iw 19 5 = d ∧ fld iw 14 5 = a ∧ fld iw 7 2 = p ∧ fld iw 5 2 = q ∧ fld iw 9 5 = 0 := by
    and_intros <;> simp (disch := decide) only [hf, ext_hi, ext_lo, ext_all, Nat.reduceSub] <;> rfl
  exact ⟨by rw [select_scalar c0, selectScalar, h1, s0, e0, e1, e2, e3]; rfl, mask_runs [(9, 5)] rfl (by simp [r0])⟩

theorem fclass (d a : BitVec 5) (p q : BitVec 2) : Statement (.fclass d a p q) := by
  refine roundTrip_via (0xD#8 ++ d ++ a ++ 0x0#5 ++ p ++ q ++ 0xD#5) rfl rfl fun iw hf => ?_
  obtain ⟨c0, h1, s0, e0, e1, e2, e3, r0⟩ : fld iw 30 2 = 0 ∧ fld iw 24 8 = 0x0D#8 ∧ fld iw 0 5 = 13#5 ∧ fld iw 19 5 = d ∧ fld iw 14 5 = a ∧ fld iw 7 2 = p ∧ fld iw 5 2 = q ∧ fld iw 9 5 = 0 := by
    and_intros <;> simp (disch := decide) only [hf, ext_hi, ext_lo, ext_all, Nat.reduceSub] <;> rfl
  exact ⟨by rw [select_scalar c0, selectScalar, h1, s0, e0, e1, e2, e3]; rfl, mask_runs [(9, 5)] rfl (by simp [r0])⟩

theorem rand (d : BitVec 5) : Statement (.rand d) := by
  refine roundTrip_via (0xE#8 ++ d ++ 0x0#19) rfl rfl fun iw hf => ?_
  obtain ⟨c0, h1, s0, e0, r0⟩ : fld iw 30 2 = 0 ∧ fld iw 24 8 = 0x0E#8 ∧ fld iw 0 2 = 0#2 ∧ fld iw 19 5 = d ∧ fld iw 2 17 = 0 := by
    and_intros <;> simp (disch := decide) only [hf, ext_hi, ext_lo, ext_all, Nat.reduceSub] <;> rfl
  exact ⟨by rw [select_scalar c0, selectScalar, h1, s0, e0]; rfl, mask_runs [(2, 17)] rfl (by simp [r0])⟩

theorem randF32 (d : BitVec 5) : Statement (.randF32 d) := by
  refine roundTrip_via (0xE#8 ++ d ++ 0x1#19) rfl rfl fun iw hf => ?_
  obtain ⟨c0, h1, s0, e0, r0⟩ : fld iw 30 2 = 0 ∧ fld iw 24 8 = 0x0E#8 ∧ fld iw 0 2 = 1#2 ∧ fld iw 19 5 = d ∧ fld iw 2 17 = 0 := by
    and_intros <;> simp (disch := decide) only [hf, ext_hi, ext_lo, ext_all, Nat.reduceSub] <;> rfl
  exact ⟨by rw [select_scalar c0, selectScalar, h1, s0, e0]; rfl, mask_runs [(2, 17)] rfl (by simp [r0])⟩

theorem randBnd (d b : BitVec 5) : Statement (.randBnd d b) := by
  refine roundTrip_via (0xE#8 ++ d ++ 0x0#5 ++ b ++ 0x2#9) rfl rfl fun iw hf => ?_
  obtain ⟨c0, h1, s0, e0, e1, r0, r1⟩ : fld iw 30 2 = 0 ∧ fld iw 24 8 = 0x0E#8 ∧ fld iw 0 2 = 2#2 ∧ fld iw 19 5 = d ∧ fld iw 9 5 = b ∧ fld iw 2 7 = 0 ∧ fld iw 14 5 = 0 := by
    and_intros <;> simp (disch := decide) only [hf, ext_hi, ext_lo, ext_all, Nat.reduceSub] <;> rfl
  exact ⟨by rw [select_scalar c0, selectScalar, h1, s0, e0, e1]; rfl, mask_runs [(2, 7), (14, 5)] rfl (by simp [r0, r1])⟩

theorem beq (a b : BitVec 5) (o : BitVec 14) : Statement (.beq a b o) := by
  refine roundTrip_via (0x10#8 ++ a ++ b ++ o) rfl rfl fun iw hf => ?_
  obtain ⟨c0, h1, e0, e1, e2⟩ : fld iw 30 2 = 0 ∧ fld iw 24 8 = 0x10#8 ∧ fld iw 19 5 = a ∧ fld iw 14 5 = b ∧ fld iw 0 14 = o := by
    and_intros <;> simp (disch := decide) only [hf, ext_hi, ext_lo, ext_all, Nat.reduceSub] <;> rfl
  exact ⟨by rw [select_scalar c0, selectScalar, h1, e0, e1, e2]; rfl, mask_none rfl⟩

theorem bne (a b : BitVec 5) (o : BitVec 14) : Statement (.bne a b o) := by
  refine roundTrip_via (0x11#8 ++ a ++ b ++ o) rfl rfl fun iw hf => ?_
  obtain ⟨c0, h1, e0, e1, e2⟩ : fld iw 30 2 = 0 ∧ fld iw 24 8 = 0x11#8 ∧ fld iw 19 5 = a ∧ fld iw 14 5 = b ∧ fld iw 0 14 = o := by
    and_intros <;> simp (disch := decide) only [hf, ext_hi, ext_lo, ext_all, Nat.reduceSub] <;> rfl
  exact ⟨by rw [select_scalar c0, selectScalar, h1, e0, e1, e2]; rfl, mask_none rfl⟩

theorem blt (a b : BitVec 5) (o : BitVec 14) : Statement (.blt a b o) := by
  refine roundTrip_via (0x12#8 ++ a ++ b ++ o) rfl rfl fun iw hf => ?_
  obtain ⟨c0, h1, e0, e1, e2⟩ : fld iw 30 2 = 0 ∧ fld iw 24 8 = 0x12#8 ∧ fld iw 19 5 = a ∧ fld iw 14 5 = b ∧ fld iw 0 14 = o := by
    and_intros <;> simp (disch := decide) only [hf, ext_hi, ext_lo, ext_all, Nat.reduceSub] <;> rfl
  exact ⟨by rw [select_scalar c0, selectScalar, h1, e0, e1, e2]; rfl, mask_none rfl⟩

theorem bge (a b : BitVec 5) (o : BitVec 14) : Statement (.bge a b o) := by
  refine roundTrip_via (0x13#8 ++ a ++ b ++ o) rfl rfl fun iw hf => ?_
  obtain ⟨c0, h1, e0, e1, e2⟩ : fld iw 30 2 = 0 ∧ fld iw 24 8 = 0x13#8 ∧ fld iw 19 5 = a ∧ fld iw 14 5 = b ∧ fld iw 0 14 = o := by
    and_intros <;> simp (disch := decide) only [hf, ext_hi, ext_lo, ext_all, Nat.reduceSub] <;> rfl
  exact ⟨by rw [select_scalar c0, selectScalar, h1, e0, e1, e2]; rfl, mask_none rfl⟩

theorem bltu (a b : BitVec 5) (o : BitVec 14) : Statement (.bltu a b o) := by
  refine roundTrip_via (0x14#8 ++ a ++ b ++ o) rfl rfl fun iw hf => ?_
  obtain ⟨c0, h1, e0, e1, e2⟩ : fld iw 30 2 = 0 ∧ fld iw 24 8 = 0x14#8 ∧ fld iw 19 5 = a ∧ fld iw 14 5 = b ∧ fld iw 0 14 = o := by
    and_intros <;> simp (disch := decide) only [hf, ext_hi, ext_lo, ext_all, Nat.reduceSub] <;> rfl
  exact ⟨by rw [select_scalar c0, selectScalar, h1, e0, e1, e2]; rfl, mask_none rfl⟩

theorem bgeu (a b : BitVec 5) (o : BitVec 14) : Statement (.bgeu a b o) := by
  refine roundTrip_via (0x15#8 ++ a ++ b ++ o) rfl rfl fun iw hf => ?_
  obtain ⟨c0, h1, e0, e1, e2⟩ : fld iw 30 2 = 0 ∧ fld iw 24 8 = 0x15#8 ∧ fld iw 19 5 = a ∧ fld iw 14 5 = b ∧ fld iw 0 14 = o := by
    and_intros <;> simp (disch := decide) only [hf, ext_hi, ext_lo, ext_all, Nat.reduceSub] <;> rfl
  exact ⟨by rw [select_scalar c0, selectScalar, h1, e0, e1, e2]; rfl, mask_none rfl⟩

theorem jal (o : BitVec 24) : Statement (.jal o) := by
  refine roundTrip_via (0x16#8 ++ o) rfl rfl fun iw hf => ?_
  obtain ⟨c0, h1, e0⟩ : fld iw 30 2 = 0 ∧ fld iw 24 8 = 0x16#8 ∧ fld iw 0 24 = o := by
    and_intros <;> simp (disch := decide) only [hf, ext_hi, ext_lo, ext_all, Nat.reduceSub] <;> rfl
  exact ⟨by rw [select_scalar c0, selectScalar, h1, e0]; rfl, mask_none rfl⟩

theorem jalr (d a : BitVec 5) (i : BitVec 14) : Statement (.jalr d a i) := by
  refine roundTrip_via (0x17#8 ++ d ++ a ++ i) rfl rfl fun iw hf => ?_
  obtain ⟨c0, h1, e0, e1, e2⟩ : fld iw 30 2 = 0 ∧ fld iw 24 8 = 0x17#8 ∧ fld iw 19 5 = d ∧ fld iw 14 5 = a ∧ fld iw 0 14 = i := by
    and_intros <;> simp (disch := decide) only [hf, ext_hi, ext_lo, ext_all, Nat.reduceSub] <;> rfl
  exact ⟨by rw [select_scalar c0, selectScalar, h1, e0, e1, e2]; rfl, mask_none rfl⟩

theorem callw (o : BitVec 24) : Statement (.callw o) := by
  refine roundTrip_via (0x18#8 ++ o) rfl rfl fun iw hf => ?_
  obtain ⟨c0, h1, e0⟩ : fld iw 30 2 = 0 ∧ fld iw 24 8 = 0x18#8 ∧ fld iw 0 24 = o := by
    and_intros <;> simp (disch := decide) only [hf, ext_hi, ext_lo, ext_all, Nat.reduceSub] <;> rfl
  exact ⟨by rw [select_scalar c0, selectScalar, h1, e0]; rfl, mask_none rfl⟩

theorem callwr (a : BitVec 5) (i : BitVec 14) : Statement (.callwr a i) := by
  refine roundTrip_via (0x320#13 ++ a ++ i) rfl rfl fun iw hf => ?_
  obtain ⟨c0, h1, e0, e1, r0⟩ : fld iw 30 2 = 0 ∧ fld iw 24 8 = 0x19#8 ∧ fld iw 14 5 = a ∧ fld iw 0 14 = i ∧ fld iw 19 5 = 0 := by
    and_intros <;> simp (disch := decide) only [hf, ext_hi, ext_lo, ext_all, Nat.reduceSub] <;> rfl
  exact ⟨by rw [select_scalar c0, selectScalar, h1, e0, e1]; rfl, mask_runs [(19, 5)] rfl (by simp [r0])⟩

theorem retw : Statement (.retw) := by
  refine roundTrip_via (0x1A000000#32) rfl rfl fun iw hf => ?_
  obtain ⟨c0, h1, r0⟩ : fld iw 30 2 = 0 ∧ fld iw 24 8 = 0x1A#8 ∧ fld iw 0 24 = 0 := by
    and_intros <;> simp (disch := decide) only [hf, ext_hi, ext_lo, ext_all, Nat.reduceSub] <;> rfl
  exact ⟨by rw [select_scalar c0, selectScalar, h1]; rfl, mask_runs [(0, 24)] rfl (by simp [r0])⟩

theorem ld8 (d a : BitVec 5) (c e : BitVec 2) (o : BitVec 10) : Statement (.ld8 d a c e o) := by
  refine roundTrip_via (0x20#8 ++ d ++ a ++ c ++ e ++ o) rfl rfl fun iw hf => ?_
  obtain ⟨c0, h1, e0, e1, e2, e3, e4⟩ : fld iw 30 2 = 0 ∧ fld iw 24 8 = 0x20#8 ∧ fld iw 19 5 = d ∧ fld iw 14 5 = a ∧ fld iw 12 2 = c ∧ fld iw 10 2 = e ∧ fld iw 0 10 = o := by
    and_intros <;> simp (disch := decide) only [hf, ext_hi, ext_lo, ext_all, Nat.reduceSub] <;> rfl
  exact ⟨by rw [select_scalar c0, selectScalar, h1, e0, e1, e2, e3, e4]; rfl, mask_none rfl⟩

theorem ld8u (d a : BitVec 5) (c e : BitVec 2) (o : BitVec 10) : Statement (.ld8u d a c e o) := by
  refine roundTrip_via (0x21#8 ++ d ++ a ++ c ++ e ++ o) rfl rfl fun iw hf => ?_
  obtain ⟨c0, h1, e0, e1, e2, e3, e4⟩ : fld iw 30 2 = 0 ∧ fld iw 24 8 = 0x21#8 ∧ fld iw 19 5 = d ∧ fld iw 14 5 = a ∧ fld iw 12 2 = c ∧ fld iw 10 2 = e ∧ fld iw 0 10 = o := by
    and_intros <;> simp (disch := decide) only [hf, ext_hi, ext_lo, ext_all, Nat.reduceSub] <;> rfl
  exact ⟨by rw [select_scalar c0, selectScalar, h1, e0, e1, e2, e3, e4]; rfl, mask_none rfl⟩

theorem ld16 (d a : BitVec 5) (c e : BitVec 2) (o : BitVec 10) : Statement (.ld16 d a c e o) := by
  refine roundTrip_via (0x22#8 ++ d ++ a ++ c ++ e ++ o) rfl rfl fun iw hf => ?_
  obtain ⟨c0, h1, e0, e1, e2, e3, e4⟩ : fld iw 30 2 = 0 ∧ fld iw 24 8 = 0x22#8 ∧ fld iw 19 5 = d ∧ fld iw 14 5 = a ∧ fld iw 12 2 = c ∧ fld iw 10 2 = e ∧ fld iw 0 10 = o := by
    and_intros <;> simp (disch := decide) only [hf, ext_hi, ext_lo, ext_all, Nat.reduceSub] <;> rfl
  exact ⟨by rw [select_scalar c0, selectScalar, h1, e0, e1, e2, e3, e4]; rfl, mask_none rfl⟩

theorem ld16u (d a : BitVec 5) (c e : BitVec 2) (o : BitVec 10) : Statement (.ld16u d a c e o) := by
  refine roundTrip_via (0x23#8 ++ d ++ a ++ c ++ e ++ o) rfl rfl fun iw hf => ?_
  obtain ⟨c0, h1, e0, e1, e2, e3, e4⟩ : fld iw 30 2 = 0 ∧ fld iw 24 8 = 0x23#8 ∧ fld iw 19 5 = d ∧ fld iw 14 5 = a ∧ fld iw 12 2 = c ∧ fld iw 10 2 = e ∧ fld iw 0 10 = o := by
    and_intros <;> simp (disch := decide) only [hf, ext_hi, ext_lo, ext_all, Nat.reduceSub] <;> rfl
  exact ⟨by rw [select_scalar c0, selectScalar, h1, e0, e1, e2, e3, e4]; rfl, mask_none rfl⟩

theorem ld32 (d a : BitVec 5) (c e : BitVec 2) (o : BitVec 10) : Statement (.ld32 d a c e o) := by
  refine roundTrip_via (0x24#8 ++ d ++ a ++ c ++ e ++ o) rfl rfl fun iw hf => ?_
  obtain ⟨c0, h1, e0, e1, e2, e3, e4⟩ : fld iw 30 2 = 0 ∧ fld iw 24 8 = 0x24#8 ∧ fld iw 19 5 = d ∧ fld iw 14 5 = a ∧ fld iw 12 2 = c ∧ fld iw 10 2 = e ∧ fld iw 0 10 = o := by
    and_intros <;> simp (disch := decide) only [hf, ext_hi, ext_lo, ext_all, Nat.reduceSub] <;> rfl
  exact ⟨by rw [select_scalar c0, selectScalar, h1, e0, e1, e2, e3, e4]; rfl, mask_none rfl⟩

theorem ld32u (d a : BitVec 5) (c e : BitVec 2) (o : BitVec 10) : Statement (.ld32u d a c e o) := by
  refine roundTrip_via (0x25#8 ++ d ++ a ++ c ++ e ++ o) rfl rfl fun iw hf => ?_
  obtain ⟨c0, h1, e0, e1, e2, e3, e4⟩ : fld iw 30 2 = 0 ∧ fld iw 24 8 = 0x25#8 ∧ fld iw 19 5 = d ∧ fld iw 14 5 = a ∧ fld iw 12 2 = c ∧ fld iw 10 2 = e ∧ fld iw 0 10 = o := by
    and_intros <;> simp (disch := decide) only [hf, ext_hi, ext_lo, ext_all, Nat.reduceSub] <;> rfl
  exact ⟨by rw [select_scalar c0, selectScalar, h1, e0, e1, e2, e3, e4]; rfl, mask_none rfl⟩

theorem ld64 (d a : BitVec 5) (c e : BitVec 2) (o : BitVec 10) : Statement (.ld64 d a c e o) := by
  refine roundTrip_via (0x26#8 ++ d ++ a ++ c ++ e ++ o) rfl rfl fun iw hf => ?_
  obtain ⟨c0, h1, e0, e1, e2, e3, e4⟩ : fld iw 30 2 = 0 ∧ fld iw 24 8 = 0x26#8 ∧ fld iw 19 5 = d ∧ fld iw 14 5 = a ∧ fld iw 12 2 = c ∧ fld iw 10 2 = e ∧ fld iw 0 10 = o := by
    and_intros <;> simp (disch := decide) only [hf, ext_hi, ext_lo, ext_all, Nat.reduceSub] <;> rfl
  exact ⟨by rw [select_scalar c0, selectScalar, h1, e0, e1, e2, e3, e4]; rfl, mask_none rfl⟩

theorem st8 (d a : BitVec 5) (c e : BitVec 2) (o : BitVec 10) : Statement (.st8 d a c e o) := by
  refine roundTrip_via (0x27#8 ++ d ++ a ++ c ++ e ++ o) rfl rfl fun iw hf => ?_
  obtain ⟨c0, h1, e0, e1, e2, e3, e4⟩ : fld iw 30 2 = 0 ∧ fld iw 24 8 = 0x27#8 ∧ fld iw 19 5 = d ∧ fld iw 14 5 = a ∧ fld iw 12 2 = c ∧ fld iw 10 2 = e ∧ fld iw 0 10 = o := by
    and_intros <;> simp (disch := decide) only [hf, ext_hi, ext_lo, ext_all, Nat.reduceSub] <;> rfl
  exact ⟨by rw [select_scalar c0, selectScalar, h1, e0, e1, e2, e3, e4]; rfl, mask_none rfl⟩

theorem st16 (d a : BitVec 5) (c e : BitVec 2) (o : BitVec 10) : Statement (.st16 d a c e o) := by
  refine roundTrip_via (0x28#8 ++ d ++ a ++ c ++ e ++ o) rfl rfl fun iw hf => ?_
  obtain ⟨c0, h1, e0, e1, e2, e3, e4⟩ : fld iw 30 2 = 0 ∧ fld iw 24 8 = 0x28#8 ∧ fld iw 19 5 = d ∧ fld iw 14 5 = a ∧ fld iw 12 2 = c ∧ fld iw 10 2 = e ∧ fld iw 0 10 = o := by
    and_intros <;> simp (disch := decide) only [hf, ext_hi, ext_lo, ext_all, Nat.reduceSub] <;> rfl
  exact ⟨by rw [select_scalar c0, selectScalar, h1, e0, e1, e2, e3, e4]; rfl, mask_none rfl⟩

theorem st32 (d a : BitVec 5) (c e : BitVec 2) (o : BitVec 10) : Statement (.st32 d a c e o) := by
  refine roundTrip_via (0x29#8 ++ d ++ a ++ c ++ e ++ o) rfl rfl fun iw hf => ?_
  obtain ⟨c0, h1, e0, e1, e2, e3, e4⟩ : fld iw 30 2 = 0 ∧ fld iw 24 8 = 0x29#8 ∧ fld iw 19 5 = d ∧ fld iw 14 5 = a ∧ fld iw 12 2 = c ∧ fld iw 10 2 = e ∧ fld iw 0 10 = o := by
    and_intros <;> simp (disch := decide) only [hf, ext_hi, ext_lo, ext_all, Nat.reduceSub] <;> rfl
  exact ⟨by rw [select_scalar c0, selectScalar, h1, e0, e1, e2, e3, e4]; rfl, mask_none rfl⟩

theorem st64 (d a : BitVec 5) (c e : BitVec 2) (o : BitVec 10) : Statement (.st64 d a c e o) := by
  refine roundTrip_via (0x2A#8 ++ d ++ a ++ c ++ e ++ o) rfl rfl fun iw hf => ?_
  obtain ⟨c0, h1, e0, e1, e2, e3, e4⟩ : fld iw 30 2 = 0 ∧ fld iw 24 8 = 0x2A#8 ∧ fld iw 19 5 = d ∧ fld iw 14 5 = a ∧ fld iw 12 2 = c ∧ fld iw 10 2 = e ∧ fld iw 0 10 = o := by
    and_intros <;> simp (disch := decide) only [hf, ext_hi, ext_lo, ext_all, Nat.reduceSub] <;> rfl
  exact ⟨by rw [select_scalar c0, selectScalar, h1, e0, e1, e2, e3, e4]; rfl, mask_none rfl⟩

theorem ldq (p : BitVec 3) (a : BitVec 5) (o : BitVec 10) : Statement (.ldq p a o) := by
  refine roundTrip_via (0xAC#10 ++ p ++ a ++ 0x0#4 ++ o) rfl rfl fun iw hf => ?_
  obtain ⟨c0, h1, e0, e1, e2, r0, r1⟩ : fld iw 30 2 = 0 ∧ fld iw 24 8 = 0x2B#8 ∧ fld iw 19 3 = p ∧ fld iw 14 5 = a ∧ fld iw 0 10 = o ∧ fld iw 10 4 = 0 ∧ fld iw 22 2 = 0 := by
    and_intros <;> simp (disch := decide) only [hf, ext_hi, ext_lo, ext_all, Nat.reduceSub] <;> rfl
  exact ⟨by rw [select_scalar c0, selectScalar, h1, e0, e1, e2]; rfl, mask_runs [(10, 4), (22, 2)] rfl (by simp [r0, r1])⟩

theorem ldfe (d a : BitVec 5) (c e : BitVec 2) (o : BitVec 10) : Statement (.ldfe d a c e o) := by
  refine roundTrip_via (0x2C#8 ++ d ++ a ++ c ++ e ++ o) rfl rfl fun iw hf => ?_
  obtain ⟨c0, h1, e0, e1, e2, e3, e4⟩ : fld iw 30 2 = 0 ∧ fld iw 24 8 = 0x2C#8 ∧ fld iw 19 5 = d ∧ fld iw 14 5 = a ∧ fld iw 12 2 = c ∧ fld iw 10 2 = e ∧ fld iw 0 10 = o := by
    and_intros <;> simp (disch := decide) only [hf, ext_hi, ext_lo, ext_all, Nat.reduceSub] <;> rfl
  exact ⟨by rw [select_scalar c0, selectScalar, h1, e0, e1, e2, e3, e4]; rfl, mask_none rfl⟩

theorem ldff (d a : BitVec 5) (c e : BitVec 2) (o : BitVec 10) : Statement (.ldff d a c e o) := by
  refine roundTrip_via (0x2D#8 ++ d ++ a ++ c ++ e ++ o) rfl rfl fun iw hf => ?_
  obtain ⟨c0, h1, e0, e1, e2, e3, e4⟩ : fld iw 30 2 = 0 ∧ fld iw 24 8 = 0x2D#8 ∧ fld iw 19 5 = d ∧ fld iw 14 5 = a ∧ fld iw 12 2 = c ∧ fld iw 10 2 = e ∧ fld iw 0 10 = o := by
    and_intros <;> simp (disch := decide) only [hf, ext_hi, ext_lo, ext_all, Nat.reduceSub] <;> rfl
  exact ⟨by rw [select_scalar c0, selectScalar, h1, e0, e1, e2, e3, e4]; rfl, mask_none rfl⟩

theorem stef (d a : BitVec 5) (c e : BitVec 2) (o : BitVec 10) : Statement (.stef d a c e o) := by
  refine roundTrip_via (0x2E#8 ++ d ++ a ++ c ++ e ++ o) rfl rfl fun iw hf => ?_
  obtain ⟨c0, h1, e0, e1, e2, e3, e4⟩ : fld iw 30 2 = 0 ∧ fld iw 24 8 = 0x2E#8 ∧ fld iw 19 5 = d ∧ fld iw 14 5 = a ∧ fld iw 12 2 = c ∧ fld iw 10 2 = e ∧ fld iw 0 10 = o := by
    and_intros <;> simp (disch := decide) only [hf, ext_hi, ext_lo, ext_all, Nat.reduceSub] <;> rfl
  exact ⟨by rw [select_scalar c0, selectScalar, h1, e0, e1, e2, e3, e4]; rfl, mask_none rfl⟩

theorem stff (d a : BitVec 5) (c e : BitVec 2) (o : BitVec 10) : Statement (.stff d a c e o) := by
  refine roundTrip_via (0x2F#8 ++ d ++ a ++ c ++ e ++ o) rfl rfl fun iw hf => ?_
  obtain ⟨c0, h1, e0, e1, e2, e3, e4⟩ : fld iw 30 2 = 0 ∧ fld iw 24 8 = 0x2F#8 ∧ fld iw 19 5 = d ∧ fld iw 14 5 = a ∧ fld iw 12 2 = c ∧ fld iw 10 2 = e ∧ fld iw 0 10 = o := by
    and_intros <;> simp (disch := decide) only [hf, ext_hi, ext_lo, ext_all, Nat.reduceSub] <;> rfl
  exact ⟨by rw [select_scalar c0, selectScalar, h1, e0, e1, e2, e3, e4]; rfl, mask_none rfl⟩

theorem amoadd (d a b : BitVec 5) (c e : BitVec 2) (w : BitVec 1) : Statement (.amoadd d a b c e w) := by
  refine roundTrip_via (0x30#8 ++ d ++ a ++ b ++ 0x0#4 ++ c ++ e ++ w) rfl rfl fun iw hf => ?_
  obtain ⟨c0, h1, s0, e0, e1, e2, e3, e4, e5⟩ : fld iw 30 2 = 0 ∧ fld iw 24 8 = 0x30#8 ∧ fld iw 5 4 = 0#4 ∧ fld iw 19 5 = d ∧ fld iw 14 5 = a ∧ fld iw 9 5 = b ∧ fld iw 3 2 = c ∧ fld iw 1 2 = e ∧ fld iw 0 1 = w := by
    and_intros <;> simp (disch := decide) only [hf, ext_hi, ext_lo, ext_all, Nat.reduceSub] <;> rfl
  exact ⟨by rw [select_scalar c0, selectScalar, h1, s0, e0, e1, e2, e3, e4, e5]; rfl, mask_none rfl⟩

theorem amoand (d a b : BitVec 5) (c e : BitVec 2) (w : BitVec 1) : Statement (.amoand d a b c e w) := by
  refine roundTrip_via (0x30#8 ++ d ++ a ++ b ++ 0x1#4 ++ c ++ e ++ w) rfl rfl fun iw hf => ?_
  obtain ⟨c0, h1, s0, e0, e1, e2, e3, e4, e5⟩ : fld iw 30 2 = 0 ∧ fld iw 24 8 = 0x30#8 ∧ fld iw 5 4 = 1#4 ∧ fld iw 19 5 = d ∧ fld iw 14 5 = a ∧ fld iw 9 5 = b ∧ fld iw 3 2 = c ∧ fld iw 1 2 = e ∧ fld iw 0 1 = w := by
    and_intros <;> simp (disch := decide) only [hf, ext_hi, ext_lo, ext_all, Nat.reduceSub] <;> rfl
  exact ⟨by rw [select_scalar c0, selectScalar, h1, s0, e0, e1, e2, e3, e4, e5]; rfl, mask_none rfl⟩

theorem amoor (d a b : BitVec 5) (c e : BitVec 2) (w : BitVec 1) : Statement (.amoor d a b c e w) := by
  refine roundTrip_via (0x30#8 ++ d ++ a ++ b ++ 0x2#4 ++ c ++ e ++ w) rfl rfl fun iw hf => ?_
  obtain ⟨c0, h1, s0, e0, e1, e2, e3, e4, e5⟩ : fld iw 30 2 = 0 ∧ fld iw 24 8 = 0x30#8 ∧ fld iw 5 4 = 2#4 ∧ fld iw 19 5 = d ∧ fld iw 14 5 = a ∧ fld iw 9 5 = b ∧ fld iw 3 2 = c ∧ fld iw 1 2 = e ∧ fld iw 0 1 = w := by
    and_intros <;> simp (disch := decide) only [hf, ext_hi, ext_lo, ext_all, Nat.reduceSub] <;> rfl
  exact ⟨by rw [select_scalar c0, selectScalar, h1, s0, e0, e1, e2, e3, e4, e5]; rfl, mask_none rfl⟩

theorem amoxor (d a b : BitVec 5) (c e : BitVec 2) (w : BitVec 1) : Statement (.amoxor d a b c e w) := by
  refine roundTrip_via (0x30#8 ++ d ++ a ++ b ++ 0x3#4 ++ c ++ e ++ w) rfl rfl fun iw hf => ?_
  obtain ⟨c0, h1, s0, e0, e1, e2, e3, e4, e5⟩ : fld iw 30 2 = 0 ∧ fld iw 24 8 = 0x30#8 ∧ fld iw 5 4 = 3#4 ∧ fld iw 19 5 = d ∧ fld iw 14 5 = a ∧ fld iw 9 5 = b ∧ fld iw 3 2 = c ∧ fld iw 1 2 = e ∧ fld iw 0 1 = w := by
    and_intros <;> simp (disch := decide) only [hf, ext_hi, ext_lo, ext_all, Nat.reduceSub] <;> rfl
  exact ⟨by rw [select_scalar c0, selectScalar, h1, s0, e0, e1, e2, e3, e4, e5]; rfl, mask_none rfl⟩

theorem amomin (d a b : BitVec 5) (c e : BitVec 2) (w : BitVec 1) : Statement (.amomin d a b c e w) := by
  refine roundTrip_via (0x30#8 ++ d ++ a ++ b ++ 0x4#4 ++ c ++ e ++ w) rfl rfl fun iw hf => ?_
  obtain ⟨c0, h1, s0, e0, e1, e2, e3, e4, e5⟩ : fld iw 30 2 = 0 ∧ fld iw 24 8 = 0x30#8 ∧ fld iw 5 4 = 4#4 ∧ fld iw 19 5 = d ∧ fld iw 14 5 = a ∧ fld iw 9 5 = b ∧ fld iw 3 2 = c ∧ fld iw 1 2 = e ∧ fld iw 0 1 = w := by
    and_intros <;> simp (disch := decide) only [hf, ext_hi, ext_lo, ext_all, Nat.reduceSub] <;> rfl
  exact ⟨by rw [select_scalar c0, selectScalar, h1, s0, e0, e1, e2, e3, e4, e5]; rfl, mask_none rfl⟩

theorem amomax (d a b : BitVec 5) (c e : BitVec 2) (w : BitVec 1) : Statement (.amomax d a b c e w) := by
  refine roundTrip_via (0x30#8 ++ d ++ a ++ b ++ 0x5#4 ++ c ++ e ++ w) rfl rfl fun iw hf => ?_
  obtain ⟨c0, h1, s0, e0, e1, e2, e3, e4, e5⟩ : fld iw 30 2 = 0 ∧ fld iw 24 8 = 0x30#8 ∧ fld iw 5 4 = 5#4 ∧ fld iw 19 5 = d ∧ fld iw 14 5 = a ∧ fld iw 9 5 = b ∧ fld iw 3 2 = c ∧ fld iw 1 2 = e ∧ fld iw 0 1 = w := by
    and_intros <;> simp (disch := decide) only [hf, ext_hi, ext_lo, ext_all, Nat.reduceSub] <;> rfl
  exact ⟨by rw [select_scalar c0, selectScalar, h1, s0, e0, e1, e2, e3, e4, e5]; rfl, mask_none rfl⟩

theorem amominu (d a b : BitVec 5) (c e : BitVec 2) (w : BitVec 1) : Statement (.amominu d a b c e w) := by
  refine roundTrip_via (0x30#8 ++ d ++ a ++ b ++ 0x6#4 ++ c ++ e ++ w) rfl rfl fun iw hf => ?_
  obtain ⟨c0, h1, s0, e0, e1, e2, e3, e4, e5⟩ : fld iw 30 2 = 0 ∧ fld iw 24 8 = 0x30#8 ∧ fld iw 5 4 = 6#4 ∧ fld iw 19 5 = d ∧ fld iw 14 5 = a ∧ fld iw 9 5 = b ∧ fld iw 3 2 = c ∧ fld iw 1 2 = e ∧ fld iw 0 1 = w := by
    and_intros <;> simp (disch := decide) only [hf, ext_hi, ext_lo, ext_all, Nat.reduceSub] <;> rfl
  exact ⟨by rw [select_scalar c0, selectScalar, h1, s0, e0, e1, e2, e3, e4, e5]; rfl, mask_none rfl⟩

theorem amomaxu (d a b : BitVec 5) (c e : BitVec 2) (w : BitVec 1) : Statement (.amomaxu d a b c e w) := by
  refine roundTrip_via (0x30#8 ++ d ++ a ++ b ++ 0x7#4 ++ c ++ e ++ w) rfl rfl fun iw hf => ?_
  obtain ⟨c0, h1, s0, e0, e1, e2, e3, e4, e5⟩ : fld iw 30 2 = 0 ∧ fld iw 24 8 = 0x30#8 ∧ fld iw 5 4 = 7#4 ∧ fld iw 19 5 = d ∧ fld iw 14 5 = a ∧ fld iw 9 5 = b ∧ fld iw 3 2 = c ∧ fld iw 1 2 = e ∧ fld iw 0 1 = w := by
    and_intros <;> simp (disch := decide) only [hf, ext_hi, ext_lo, ext_all, Nat.reduceSub] <;> rfl
  exact ⟨by rw [select_scalar c0, selectScalar, h1, s0, e0, e1, e2, e3, e4, e5]; rfl, mask_none rfl⟩

theorem amoswap (d a b : BitVec 5) (c e : BitVec 2) (w : BitVec 1) : Statement (.amoswap d a b c e w) := by
  refine roundTrip_via (0x30#8 ++ d ++ a ++ b ++ 0x8#4 ++ c ++ e ++ w) rfl rfl fun iw hf => ?_
  obtain ⟨c0, h1, s0, e0, e1, e2, e3, e4, e5⟩ : fld iw 30 2 = 0 ∧ fld iw 24 8 = 0x30#8 ∧ fld iw 5 4 = 8#4 ∧ fld iw 19 5 = d ∧ fld iw 14 5 = a ∧ fld iw 9 5 = b ∧ fld iw 3 2 = c ∧ fld iw 1 2 = e ∧ fld iw 0 1 = w := by
    and_intros <;> simp (disch := decide) only [hf, ext_hi, ext_lo, ext_all, Nat.reduceSub] <;> rfl
  exact ⟨by rw [select_scalar c0, selectScalar, h1, s0, e0, e1, e2, e3, e4, e5]; rfl, mask_none rfl⟩

theorem amocas (d a b : BitVec 5) (c e : BitVec 2) (w : BitVec 1) : Statement (.amocas d a b c e w) := by
  refine roundTrip_via (0x30#8 ++ d ++ a ++ b ++ 0x9#4 ++ c ++ e ++ w) rfl rfl fun iw hf => ?_
  obtain ⟨c0, h1, s0, e0, e1, e2, e3, e4, e5⟩ : fld iw 30 2 = 0 ∧ fld iw 24 8 = 0x30#8 ∧ fld iw 5 4 = 9#4 ∧ fld iw 19 5 = d ∧ fld iw 14 5 = a ∧ fld iw 9 5 = b ∧ fld iw 3 2 = c ∧ fld iw 1 2 = e ∧ fld iw 0 1 = w := by
    and_intros <;> simp (disch := decide) only [hf, ext_hi, ext_lo, ext_all, Nat.reduceSub] <;> rfl
  exact ⟨by rw [select_scalar c0, selectScalar, h1, s0, e0, e1, e2, e3, e4, e5]; rfl, mask_none rfl⟩

theorem amofadd32 (d a b : BitVec 5) (c e : BitVec 2) : Statement (.amofadd32 d a b c e) := by
  refine roundTrip_via (0x30#8 ++ d ++ a ++ b ++ 0xA#4 ++ c ++ e ++ 0x0#1) rfl rfl fun iw hf => ?_
  obtain ⟨c0, h1, s0, s1, e0, e1, e2, e3, e4⟩ : fld iw 30 2 = 0 ∧ fld iw 24 8 = 0x30#8 ∧ fld iw 5 4 = 10#4 ∧ fld iw 0 1 = 0#1 ∧ fld iw 19 5 = d ∧ fld iw 14 5 = a ∧ fld iw 9 5 = b ∧ fld iw 3 2 = c ∧ fld iw 1 2 = e := by
    and_intros <;> simp (disch := decide) only [hf, ext_hi, ext_lo, ext_all, Nat.reduceSub] <;> rfl
  exact ⟨by rw [select_scalar c0, selectScalar, h1, s0, s1, e0, e1, e2, e3, e4]; rfl, mask_none rfl⟩

theorem amobfadd2 (d a b : BitVec 5) (c e : BitVec 2) : Statement (.amobfadd2 d a b c e) := by
  refine roundTrip_via (0x30#8 ++ d ++ a ++ b ++ 0xB#4 ++ c ++ e ++ 0x0#1) rfl rfl fun iw hf => ?_
  obtain ⟨c0, h1, s0, s1, e0, e1, e2, e3, e4⟩ : fld iw 30 2 = 0 ∧ fld iw 24 8 = 0x30#8 ∧ fld iw 5 4 = 11#4 ∧ fld iw 0 1 = 0#1 ∧ fld iw 19 5 = d ∧ fld iw 14 5 = a ∧ fld iw 9 5 = b ∧ fld iw 3 2 = c ∧ fld iw 1 2 = e := by
    and_intros <;> simp (disch := decide) only [hf, ext_hi, ext_lo, ext_all, Nat.reduceSub] <;> rfl
  exact ⟨by rw [select_scalar c0, selectScalar, h1, s0, s1, e0, e1, e2, e3, e4]; rfl, mask_none rfl⟩

theorem fence (g : BitVec 4) (x : BitVec 1) (c : BitVec 2) : Statement (.fence g x c) := by
  refine roundTrip_via (0x620000#25 ++ g ++ x ++ c) rfl rfl fun iw hf => ?_
  obtain ⟨c0, h1, e0, e1, e2, r0⟩ : fld iw 30 2 = 0 ∧ fld iw 24 8 = 0x31#8 ∧ fld iw 3 4 = g ∧ fld iw 2 1 = x ∧ fld iw 0 2 = c ∧ fld iw 7 17 = 0 := by
    and_intros <;> simp (disch := decide) only [hf, ext_hi, ext_lo, ext_all, Nat.reduceSub] <;> rfl
  exact ⟨by rw [select_scalar c0, selectScalar, h1, e0, e1, e2]; rfl, mask_runs [(7, 17)] rfl (by simp [r0])⟩

theorem drain : Statement (.drain) := by
  refine roundTrip_via (0x32000000#32) rfl rfl fun iw hf => ?_
  obtain ⟨c0, h1, r0⟩ : fld iw 30 2 = 0 ∧ fld iw 24 8 = 0x32#8 ∧ fld iw 0 24 = 0 := by
    and_intros <;> simp (disch := decide) only [hf, ext_hi, ext_lo, ext_all, Nat.reduceSub] <;> rfl
  exact ⟨by rw [select_scalar c0, selectScalar, h1]; rfl, mask_runs [(0, 24)] rfl (by simp [r0])⟩

theorem csrr (d : BitVec 5) (n : BitVec 14) : Statement (.csrr d n) := by
  refine roundTrip_via (0x33#8 ++ d ++ 0x0#5 ++ n) rfl rfl fun iw hf => ?_
  obtain ⟨c0, h1, e0, e1, r0⟩ : fld iw 30 2 = 0 ∧ fld iw 24 8 = 0x33#8 ∧ fld iw 19 5 = d ∧ fld iw 0 14 = n ∧ fld iw 14 5 = 0 := by
    and_intros <;> simp (disch := decide) only [hf, ext_hi, ext_lo, ext_all, Nat.reduceSub] <;> rfl
  exact ⟨by rw [select_scalar c0, selectScalar, h1, e0, e1]; rfl, mask_runs [(14, 5)] rfl (by simp [r0])⟩

theorem csrw (a : BitVec 5) (n : BitVec 14) : Statement (.csrw a n) := by
  refine roundTrip_via (0x680#13 ++ a ++ n) rfl rfl fun iw hf => ?_
  obtain ⟨c0, h1, e0, e1, r0⟩ : fld iw 30 2 = 0 ∧ fld iw 24 8 = 0x34#8 ∧ fld iw 14 5 = a ∧ fld iw 0 14 = n ∧ fld iw 19 5 = 0 := by
    and_intros <;> simp (disch := decide) only [hf, ext_hi, ext_lo, ext_all, Nat.reduceSub] <;> rfl
  exact ⟨by rw [select_scalar c0, selectScalar, h1, e0, e1]; rfl, mask_runs [(19, 5)] rfl (by simp [r0])⟩

theorem qbindUn (p : BitVec 3) : Statement (.qbindUn p) := by
  refine roundTrip_via (0xD8#10 ++ p ++ 0x0#19) rfl rfl fun iw hf => ?_
  obtain ⟨c0, h1, s0, e0, r0, r1, r2⟩ : fld iw 30 2 = 0 ∧ fld iw 24 8 = 0x36#8 ∧ fld iw 11 3 = 0#3 ∧ fld iw 19 3 = p ∧ fld iw 0 11 = 0 ∧ fld iw 14 5 = 0 ∧ fld iw 22 2 = 0 := by
    and_intros <;> simp (disch := decide) only [hf, ext_hi, ext_lo, ext_all, Nat.reduceSub] <;> rfl
  exact ⟨by rw [select_scalar c0, selectScalar, h1, s0, e0]; rfl, mask_runs [(0, 11), (14, 5), (22, 2)] rfl (by simp [r0, r1, r2])⟩

theorem qbindLd (p : BitVec 3) : Statement (.qbindLd p) := by
  refine roundTrip_via (0xD8#10 ++ p ++ 0x800#19) rfl rfl fun iw hf => ?_
  obtain ⟨c0, h1, s0, e0, r0, r1, r2⟩ : fld iw 30 2 = 0 ∧ fld iw 24 8 = 0x36#8 ∧ fld iw 11 3 = 1#3 ∧ fld iw 19 3 = p ∧ fld iw 0 11 = 0 ∧ fld iw 14 5 = 0 ∧ fld iw 22 2 = 0 := by
    and_intros <;> simp (disch := decide) only [hf, ext_hi, ext_lo, ext_all, Nat.reduceSub] <;> rfl
  exact ⟨by rw [select_scalar c0, selectScalar, h1, s0, e0]; rfl, mask_runs [(0, 11), (14, 5), (22, 2)] rfl (by simp [r0, r1, r2])⟩

theorem qbindTx (p : BitVec 3) (e : BitVec 2) : Statement (.qbindTx p e) := by
  refine roundTrip_via (0xD8#10 ++ p ++ 0x2#8 ++ e ++ 0x0#9) rfl rfl fun iw hf => ?_
  obtain ⟨c0, h1, s0, e0, e1, r0, r1, r2⟩ : fld iw 30 2 = 0 ∧ fld iw 24 8 = 0x36#8 ∧ fld iw 11 3 = 2#3 ∧ fld iw 19 3 = p ∧ fld iw 9 2 = e ∧ fld iw 0 9 = 0 ∧ fld iw 14 5 = 0 ∧ fld iw 22 2 = 0 := by
    and_intros <;> simp (disch := decide) only [hf, ext_hi, ext_lo, ext_all, Nat.reduceSub] <;> rfl
  exact ⟨by rw [select_scalar c0, selectScalar, h1, s0, e0, e1]; rfl, mask_runs [(0, 9), (14, 5), (22, 2)] rfl (by simp [r0, r1, r2])⟩

theorem qbindRx (p : BitVec 3) (e : BitVec 2) : Statement (.qbindRx p e) := by
  refine roundTrip_via (0xD8#10 ++ p ++ 0x3#8 ++ e ++ 0x0#9) rfl rfl fun iw hf => ?_
  obtain ⟨c0, h1, s0, e0, e1, r0, r1, r2⟩ : fld iw 30 2 = 0 ∧ fld iw 24 8 = 0x36#8 ∧ fld iw 11 3 = 3#3 ∧ fld iw 19 3 = p ∧ fld iw 9 2 = e ∧ fld iw 0 9 = 0 ∧ fld iw 14 5 = 0 ∧ fld iw 22 2 = 0 := by
    and_intros <;> simp (disch := decide) only [hf, ext_hi, ext_lo, ext_all, Nat.reduceSub] <;> rfl
  exact ⟨by rw [select_scalar c0, selectScalar, h1, s0, e0, e1]; rfl, mask_runs [(0, 9), (14, 5), (22, 2)] rfl (by simp [r0, r1, r2])⟩

theorem qbindRr (p : BitVec 3) (a : BitVec 5) : Statement (.qbindRr p a) := by
  refine roundTrip_via (0xD8#10 ++ p ++ a ++ 0x2000#14) rfl rfl fun iw hf => ?_
  obtain ⟨c0, h1, s0, e0, e1, r0, r1⟩ : fld iw 30 2 = 0 ∧ fld iw 24 8 = 0x36#8 ∧ fld iw 11 3 = 4#3 ∧ fld iw 19 3 = p ∧ fld iw 14 5 = a ∧ fld iw 0 11 = 0 ∧ fld iw 22 2 = 0 := by
    and_intros <;> simp (disch := decide) only [hf, ext_hi, ext_lo, ext_all, Nat.reduceSub] <;> rfl
  exact ⟨by rw [select_scalar c0, selectScalar, h1, s0, e0, e1]; rfl, mask_runs [(0, 11), (22, 2)] rfl (by simp [r0, r1])⟩

theorem qstat (d : BitVec 5) (p : BitVec 3) : Statement (.qstat d p) := by
  refine roundTrip_via (0x37#8 ++ d ++ 0x0#16 ++ p) rfl rfl fun iw hf => ?_
  obtain ⟨c0, h1, e0, e1, r0⟩ : fld iw 30 2 = 0 ∧ fld iw 24 8 = 0x37#8 ∧ fld iw 19 5 = d ∧ fld iw 0 3 = p ∧ fld iw 3 16 = 0 := by
    and_intros <;> simp (disch := decide) only [hf, ext_hi, ext_lo, ext_all, Nat.reduceSub] <;> rfl
  exact ⟨by rw [select_scalar c0, selectScalar, h1, e0, e1]; rfl, mask_runs [(3, 16)] rfl (by simp [r0])⟩

theorem vadd (d a b : BitVec 5) (k : BitVec 3) (g : BitVec 2) (s : BitVec 1) (t : BitVec 3) : Statement (.vadd d a b k g s t) := by
  refine roundTrip_via (0x40#8 ++ d ++ a ++ b ++ k ++ g ++ s ++ t) rfl rfl fun iw hf => ?_
  obtain ⟨c0, h1, e0, e1, e2, e3, e4, e5, e6⟩ : fld iw 30 2 = 1 ∧ fld iw 24 8 = 0x40#8 ∧ fld iw 19 5 = d ∧ fld iw 14 5 = a ∧ fld iw 9 5 = b ∧ fld iw 6 3 = k ∧ fld iw 4 2 = g ∧ fld iw 3 1 = s ∧ fld iw 0 3 = t := by
    and_intros <;> simp (disch := decide) only [hf, ext_hi, ext_lo, ext_all, Nat.reduceSub] <;> rfl
  exact ⟨by rw [select_vector c0, selectVector, h1, e0, e1, e2, e3, e4, e5, e6]; rfl, mask_none rfl⟩

theorem vsub (d a b : BitVec 5) (k : BitVec 3) (g : BitVec 2) (s : BitVec 1) (t : BitVec 3) : Statement (.vsub d a b k g s t) := by
  refine roundTrip_via (0x41#8 ++ d ++ a ++ b ++ k ++ g ++ s ++ t) rfl rfl fun iw hf => ?_
  obtain ⟨c0, h1, e0, e1, e2, e3, e4, e5, e6⟩ : fld iw 30 2 = 1 ∧ fld iw 24 8 = 0x41#8 ∧ fld iw 19 5 = d ∧ fld iw 14 5 = a ∧ fld iw 9 5 = b ∧ fld iw 6 3 = k ∧ fld iw 4 2 = g ∧ fld iw 3 1 = s ∧ fld iw 0 3 = t := by
    and_intros <;> simp (disch := decide) only [hf, ext_hi, ext_lo, ext_all, Nat.reduceSub] <;> rfl
  exact ⟨by rw [select_vector c0, selectVector, h1, e0, e1, e2, e3, e4, e5, e6]; rfl, mask_none rfl⟩

theorem vmul (d a b : BitVec 5) (k : BitVec 3) (g : BitVec 2) (s : BitVec 1) (t : BitVec 3) : Statement (.vmul d a b k g s t) := by
  refine roundTrip_via (0x42#8 ++ d ++ a ++ b ++ k ++ g ++ s ++ t) rfl rfl fun iw hf => ?_
  obtain ⟨c0, h1, e0, e1, e2, e3, e4, e5, e6⟩ : fld iw 30 2 = 1 ∧ fld iw 24 8 = 0x42#8 ∧ fld iw 19 5 = d ∧ fld iw 14 5 = a ∧ fld iw 9 5 = b ∧ fld iw 6 3 = k ∧ fld iw 4 2 = g ∧ fld iw 3 1 = s ∧ fld iw 0 3 = t := by
    and_intros <;> simp (disch := decide) only [hf, ext_hi, ext_lo, ext_all, Nat.reduceSub] <;> rfl
  exact ⟨by rw [select_vector c0, selectVector, h1, e0, e1, e2, e3, e4, e5, e6]; rfl, mask_none rfl⟩

theorem vfma (d a b : BitVec 5) (k : BitVec 3) (g : BitVec 2) (s : BitVec 1) (t : BitVec 3) : Statement (.vfma d a b k g s t) := by
  refine roundTrip_via (0x43#8 ++ d ++ a ++ b ++ k ++ g ++ s ++ t) rfl rfl fun iw hf => ?_
  obtain ⟨c0, h1, e0, e1, e2, e3, e4, e5, e6⟩ : fld iw 30 2 = 1 ∧ fld iw 24 8 = 0x43#8 ∧ fld iw 19 5 = d ∧ fld iw 14 5 = a ∧ fld iw 9 5 = b ∧ fld iw 6 3 = k ∧ fld iw 4 2 = g ∧ fld iw 3 1 = s ∧ fld iw 0 3 = t := by
    and_intros <;> simp (disch := decide) only [hf, ext_hi, ext_lo, ext_all, Nat.reduceSub] <;> rfl
  exact ⟨by rw [select_vector c0, selectVector, h1, e0, e1, e2, e3, e4, e5, e6]; rfl, mask_none rfl⟩

theorem vfms (d a b : BitVec 5) (k : BitVec 3) (g : BitVec 2) (s : BitVec 1) (t : BitVec 3) : Statement (.vfms d a b k g s t) := by
  refine roundTrip_via (0x44#8 ++ d ++ a ++ b ++ k ++ g ++ s ++ t) rfl rfl fun iw hf => ?_
  obtain ⟨c0, h1, e0, e1, e2, e3, e4, e5, e6⟩ : fld iw 30 2 = 1 ∧ fld iw 24 8 = 0x44#8 ∧ fld iw 19 5 = d ∧ fld iw 14 5 = a ∧ fld iw 9 5 = b ∧ fld iw 6 3 = k ∧ fld iw 4 2 = g ∧ fld iw 3 1 = s ∧ fld iw 0 3 = t := by
    and_intros <;> simp (disch := decide) only [hf, ext_hi, ext_lo, ext_all, Nat.reduceSub] <;> rfl
  exact ⟨by rw [select_vector c0, selectVector, h1, e0, e1, e2, e3, e4, e5, e6]; rfl, mask_none rfl⟩

theorem vmin (d a b : BitVec 5) (k : BitVec 3) (g : BitVec 2) (s : BitVec 1) (t : BitVec 3) : Statement (.vmin d a b k g s t) := by
  refine roundTrip_via (0x45#8 ++ d ++ a ++ b ++ k ++ g ++ s ++ t) rfl rfl fun iw hf => ?_
  obtain ⟨c0, h1, e0, e1, e2, e3, e4, e5, e6⟩ : fld iw 30 2 = 1 ∧ fld iw 24 8 = 0x45#8 ∧ fld iw 19 5 = d ∧ fld iw 14 5 = a ∧ fld iw 9 5 = b ∧ fld iw 6 3 = k ∧ fld iw 4 2 = g ∧ fld iw 3 1 = s ∧ fld iw 0 3 = t := by
    and_intros <;> simp (disch := decide) only [hf, ext_hi, ext_lo, ext_all, Nat.reduceSub] <;> rfl
  exact ⟨by rw [select_vector c0, selectVector, h1, e0, e1, e2, e3, e4, e5, e6]; rfl, mask_none rfl⟩

theorem vmax (d a b : BitVec 5) (k : BitVec 3) (g : BitVec 2) (s : BitVec 1) (t : BitVec 3) : Statement (.vmax d a b k g s t) := by
  refine roundTrip_via (0x46#8 ++ d ++ a ++ b ++ k ++ g ++ s ++ t) rfl rfl fun iw hf => ?_
  obtain ⟨c0, h1, e0, e1, e2, e3, e4, e5, e6⟩ : fld iw 30 2 = 1 ∧ fld iw 24 8 = 0x46#8 ∧ fld iw 19 5 = d ∧ fld iw 14 5 = a ∧ fld iw 9 5 = b ∧ fld iw 6 3 = k ∧ fld iw 4 2 = g ∧ fld iw 3 1 = s ∧ fld iw 0 3 = t := by
    and_intros <;> simp (disch := decide) only [hf, ext_hi, ext_lo, ext_all, Nat.reduceSub] <;> rfl
  exact ⟨by rw [select_vector c0, selectVector, h1, e0, e1, e2, e3, e4, e5, e6]; rfl, mask_none rfl⟩

theorem vdiv (d a b : BitVec 5) (k : BitVec 3) (g : BitVec 2) (s : BitVec 1) (t : BitVec 3) : Statement (.vdiv d a b k g s t) := by
  refine roundTrip_via (0x47#8 ++ d ++ a ++ b ++ k ++ g ++ s ++ t) rfl rfl fun iw hf => ?_
  obtain ⟨c0, h1, e0, e1, e2, e3, e4, e5, e6⟩ : fld iw 30 2 = 1 ∧ fld iw 24 8 = 0x47#8 ∧ fld iw 19 5 = d ∧ fld iw 14 5 = a ∧ fld iw 9 5 = b ∧ fld iw 6 3 = k ∧ fld iw 4 2 = g ∧ fld iw 3 1 = s ∧ fld iw 0 3 = t := by
    and_intros <;> simp (disch := decide) only [hf, ext_hi, ext_lo, ext_all, Nat.reduceSub] <;> rfl
  exact ⟨by rw [select_vector c0, selectVector, h1, e0, e1, e2, e3, e4, e5, e6]; rfl, mask_none rfl⟩

theorem vabs (d a : BitVec 5) (k : BitVec 3) (g : BitVec 2) (t : BitVec 3) : Statement (.vabs d a k g t) := by
  refine roundTrip_via (0x48#8 ++ d ++ a ++ 0x0#5 ++ k ++ g ++ 0x0#1 ++ t) rfl rfl fun iw hf => ?_
  obtain ⟨c0, h1, e0, e1, e2, e3, e4, r0, r1⟩ : fld iw 30 2 = 1 ∧ fld iw 24 8 = 0x48#8 ∧ fld iw 19 5 = d ∧ fld iw 14 5 = a ∧ fld iw 6 3 = k ∧ fld iw 4 2 = g ∧ fld iw 0 3 = t ∧ fld iw 3 1 = 0 ∧ fld iw 9 5 = 0 := by
    and_intros <;> simp (disch := decide) only [hf, ext_hi, ext_lo, ext_all, Nat.reduceSub] <;> rfl
  exact ⟨by rw [select_vector c0, selectVector, h1, e0, e1, e2, e3, e4]; rfl, mask_runs [(3, 1), (9, 5)] rfl (by simp [r0, r1])⟩

theorem vneg (d a : BitVec 5) (k : BitVec 3) (g : BitVec 2) (t : BitVec 3) : Statement (.vneg d a k g t) := by
  refine roundTrip_via (0x49#8 ++ d ++ a ++ 0x0#5 ++ k ++ g ++ 0x0#1 ++ t) rfl rfl fun iw hf => ?_
  obtain ⟨c0, h1, e0, e1, e2, e3, e4, r0, r1⟩ : fld iw 30 2 = 1 ∧ fld iw 24 8 = 0x49#8 ∧ fld iw 19 5 = d ∧ fld iw 14 5 = a ∧ fld iw 6 3 = k ∧ fld iw 4 2 = g ∧ fld iw 0 3 = t ∧ fld iw 3 1 = 0 ∧ fld iw 9 5 = 0 := by
    and_intros <;> simp (disch := decide) only [hf, ext_hi, ext_lo, ext_all, Nat.reduceSub] <;> rfl
  exact ⟨by rw [select_vector c0, selectVector, h1, e0, e1, e2, e3, e4]; rfl, mask_runs [(3, 1), (9, 5)] rfl (by simp [r0, r1])⟩

theorem vsqrt (d a : BitVec 5) (k : BitVec 3) (g : BitVec 2) (t : BitVec 3) : Statement (.vsqrt d a k g t) := by
  refine roundTrip_via (0x4A#8 ++ d ++ a ++ 0x0#5 ++ k ++ g ++ 0x0#1 ++ t) rfl rfl fun iw hf => ?_
  obtain ⟨c0, h1, e0, e1, e2, e3, e4, r0, r1⟩ : fld iw 30 2 = 1 ∧ fld iw 24 8 = 0x4A#8 ∧ fld iw 19 5 = d ∧ fld iw 14 5 = a ∧ fld iw 6 3 = k ∧ fld iw 4 2 = g ∧ fld iw 0 3 = t ∧ fld iw 3 1 = 0 ∧ fld iw 9 5 = 0 := by
    and_intros <;> simp (disch := decide) only [hf, ext_hi, ext_lo, ext_all, Nat.reduceSub] <;> rfl
  exact ⟨by rw [select_vector c0, selectVector, h1, e0, e1, e2, e3, e4]; rfl, mask_runs [(3, 1), (9, 5)] rfl (by simp [r0, r1])⟩

theorem vrsqrt (d a : BitVec 5) (k : BitVec 3) (g : BitVec 2) (t : BitVec 3) : Statement (.vrsqrt d a k g t) := by
  refine roundTrip_via (0x4B#8 ++ d ++ a ++ 0x0#5 ++ k ++ g ++ 0x0#1 ++ t) rfl rfl fun iw hf => ?_
  obtain ⟨c0, h1, e0, e1, e2, e3, e4, r0, r1⟩ : fld iw 30 2 = 1 ∧ fld iw 24 8 = 0x4B#8 ∧ fld iw 19 5 = d ∧ fld iw 14 5 = a ∧ fld iw 6 3 = k ∧ fld iw 4 2 = g ∧ fld iw 0 3 = t ∧ fld iw 3 1 = 0 ∧ fld iw 9 5 = 0 := by
    and_intros <;> simp (disch := decide) only [hf, ext_hi, ext_lo, ext_all, Nat.reduceSub] <;> rfl
  exact ⟨by rw [select_vector c0, selectVector, h1, e0, e1, e2, e3, e4]; rfl, mask_runs [(3, 1), (9, 5)] rfl (by simp [r0, r1])⟩

theorem vrcp (d a : BitVec 5) (k : BitVec 3) (g : BitVec 2) (t : BitVec 3) : Statement (.vrcp d a k g t) := by
  refine roundTrip_via (0x4C#8 ++ d ++ a ++ 0x0#5 ++ k ++ g ++ 0x0#1 ++ t) rfl rfl fun iw hf => ?_
  obtain ⟨c0, h1, e0, e1, e2, e3, e4, r0, r1⟩ : fld iw 30 2 = 1 ∧ fld iw 24 8 = 0x4C#8 ∧ fld iw 19 5 = d ∧ fld iw 14 5 = a ∧ fld iw 6 3 = k ∧ fld iw 4 2 = g ∧ fld iw 0 3 = t ∧ fld iw 3 1 = 0 ∧ fld iw 9 5 = 0 := by
    and_intros <;> simp (disch := decide) only [hf, ext_hi, ext_lo, ext_all, Nat.reduceSub] <;> rfl
  exact ⟨by rw [select_vector c0, selectVector, h1, e0, e1, e2, e3, e4]; rfl, mask_runs [(3, 1), (9, 5)] rfl (by simp [r0, r1])⟩

theorem vexp2 (d a : BitVec 5) (k : BitVec 3) (g : BitVec 2) (t : BitVec 3) : Statement (.vexp2 d a k g t) := by
  refine roundTrip_via (0x4D#8 ++ d ++ a ++ 0x0#5 ++ k ++ g ++ 0x0#1 ++ t) rfl rfl fun iw hf => ?_
  obtain ⟨c0, h1, e0, e1, e2, e3, e4, r0, r1⟩ : fld iw 30 2 = 1 ∧ fld iw 24 8 = 0x4D#8 ∧ fld iw 19 5 = d ∧ fld iw 14 5 = a ∧ fld iw 6 3 = k ∧ fld iw 4 2 = g ∧ fld iw 0 3 = t ∧ fld iw 3 1 = 0 ∧ fld iw 9 5 = 0 := by
    and_intros <;> simp (disch := decide) only [hf, ext_hi, ext_lo, ext_all, Nat.reduceSub] <;> rfl
  exact ⟨by rw [select_vector c0, selectVector, h1, e0, e1, e2, e3, e4]; rfl, mask_runs [(3, 1), (9, 5)] rfl (by simp [r0, r1])⟩

theorem vlog2 (d a : BitVec 5) (k : BitVec 3) (g : BitVec 2) (t : BitVec 3) : Statement (.vlog2 d a k g t) := by
  refine roundTrip_via (0x4E#8 ++ d ++ a ++ 0x0#5 ++ k ++ g ++ 0x0#1 ++ t) rfl rfl fun iw hf => ?_
  obtain ⟨c0, h1, e0, e1, e2, e3, e4, r0, r1⟩ : fld iw 30 2 = 1 ∧ fld iw 24 8 = 0x4E#8 ∧ fld iw 19 5 = d ∧ fld iw 14 5 = a ∧ fld iw 6 3 = k ∧ fld iw 4 2 = g ∧ fld iw 0 3 = t ∧ fld iw 3 1 = 0 ∧ fld iw 9 5 = 0 := by
    and_intros <;> simp (disch := decide) only [hf, ext_hi, ext_lo, ext_all, Nat.reduceSub] <;> rfl
  exact ⟨by rw [select_vector c0, selectVector, h1, e0, e1, e2, e3, e4]; rfl, mask_runs [(3, 1), (9, 5)] rfl (by simp [r0, r1])⟩

theorem vtanh (d a : BitVec 5) (k : BitVec 3) (g : BitVec 2) (t : BitVec 3) : Statement (.vtanh d a k g t) := by
  refine roundTrip_via (0x4F#8 ++ d ++ a ++ 0x0#5 ++ k ++ g ++ 0x0#1 ++ t) rfl rfl fun iw hf => ?_
  obtain ⟨c0, h1, e0, e1, e2, e3, e4, r0, r1⟩ : fld iw 30 2 = 1 ∧ fld iw 24 8 = 0x4F#8 ∧ fld iw 19 5 = d ∧ fld iw 14 5 = a ∧ fld iw 6 3 = k ∧ fld iw 4 2 = g ∧ fld iw 0 3 = t ∧ fld iw 3 1 = 0 ∧ fld iw 9 5 = 0 := by
    and_intros <;> simp (disch := decide) only [hf, ext_hi, ext_lo, ext_all, Nat.reduceSub] <;> rfl
  exact ⟨by rw [select_vector c0, selectVector, h1, e0, e1, e2, e3, e4]; rfl, mask_runs [(3, 1), (9, 5)] rfl (by simp [r0, r1])⟩

theorem vand (d a b : BitVec 5) (k : BitVec 3) (g : BitVec 2) (s : BitVec 1) (t : BitVec 3) : Statement (.vand d a b k g s t) := by
  refine roundTrip_via (0x50#8 ++ d ++ a ++ b ++ k ++ g ++ s ++ t) rfl rfl fun iw hf => ?_
  obtain ⟨c0, h1, e0, e1, e2, e3, e4, e5, e6⟩ : fld iw 30 2 = 1 ∧ fld iw 24 8 = 0x50#8 ∧ fld iw 19 5 = d ∧ fld iw 14 5 = a ∧ fld iw 9 5 = b ∧ fld iw 6 3 = k ∧ fld iw 4 2 = g ∧ fld iw 3 1 = s ∧ fld iw 0 3 = t := by
    and_intros <;> simp (disch := decide) only [hf, ext_hi, ext_lo, ext_all, Nat.reduceSub] <;> rfl
  exact ⟨by rw [select_vector c0, selectVector, h1, e0, e1, e2, e3, e4, e5, e6]; rfl, mask_none rfl⟩

theorem vor (d a b : BitVec 5) (k : BitVec 3) (g : BitVec 2) (s : BitVec 1) (t : BitVec 3) : Statement (.vor d a b k g s t) := by
  refine roundTrip_via (0x51#8 ++ d ++ a ++ b ++ k ++ g ++ s ++ t) rfl rfl fun iw hf => ?_
  obtain ⟨c0, h1, e0, e1, e2, e3, e4, e5, e6⟩ : fld iw 30 2 = 1 ∧ fld iw 24 8 = 0x51#8 ∧ fld iw 19 5 = d ∧ fld iw 14 5 = a ∧ fld iw 9 5 = b ∧ fld iw 6 3 = k ∧ fld iw 4 2 = g ∧ fld iw 3 1 = s ∧ fld iw 0 3 = t := by
    and_intros <;> simp (disch := decide) only [hf, ext_hi, ext_lo, ext_all, Nat.reduceSub] <;> rfl
  exact ⟨by rw [select_vector c0, selectVector, h1, e0, e1, e2, e3, e4, e5, e6]; rfl, mask_none rfl⟩

theorem vxor (d a b : BitVec 5) (k : BitVec 3) (g : BitVec 2) (s : BitVec 1) (t : BitVec 3) : Statement (.vxor d a b k g s t) := by
  refine roundTrip_via (0x52#8 ++ d ++ a ++ b ++ k ++ g ++ s ++ t) rfl rfl fun iw hf => ?_
  obtain ⟨c0, h1, e0, e1, e2, e3, e4, e5, e6⟩ : fld iw 30 2 = 1 ∧ fld iw 24 8 = 0x52#8 ∧ fld iw 19 5 = d ∧ fld iw 14 5 = a ∧ fld iw 9 5 = b ∧ fld iw 6 3 = k ∧ fld iw 4 2 = g ∧ fld iw 3 1 = s ∧ fld iw 0 3 = t := by
    and_intros <;> simp (disch := decide) only [hf, ext_hi, ext_lo, ext_all, Nat.reduceSub] <;> rfl
  exact ⟨by rw [select_vector c0, selectVector, h1, e0, e1, e2, e3, e4, e5, e6]; rfl, mask_none rfl⟩

theorem vshl (d a b : BitVec 5) (k : BitVec 3) (g : BitVec 2) (s : BitVec 1) (t : BitVec 3) : Statement (.vshl d a b k g s t) := by
  refine roundTrip_via (0x53#8 ++ d ++ a ++ b ++ k ++ g ++ s ++ t) rfl rfl fun iw hf => ?_
  obtain ⟨c0, h1, e0, e1, e2, e3, e4, e5, e6⟩ : fld iw 30 2 = 1 ∧ fld iw 24 8 = 0x53#8 ∧ fld iw 19 5 = d ∧ fld iw 14 5 = a ∧ fld iw 9 5 = b ∧ fld iw 6 3 = k ∧ fld iw 4 2 = g ∧ fld iw 3 1 = s ∧ fld iw 0 3 = t := by
    and_intros <;> simp (disch := decide) only [hf, ext_hi, ext_lo, ext_all, Nat.reduceSub] <;> rfl
  exact ⟨by rw [select_vector c0, selectVector, h1, e0, e1, e2, e3, e4, e5, e6]; rfl, mask_none rfl⟩

theorem vshr (d a b : BitVec 5) (k : BitVec 3) (g : BitVec 2) (s : BitVec 1) (t : BitVec 3) : Statement (.vshr d a b k g s t) := by
  refine roundTrip_via (0x54#8 ++ d ++ a ++ b ++ k ++ g ++ s ++ t) rfl rfl fun iw hf => ?_
  obtain ⟨c0, h1, e0, e1, e2, e3, e4, e5, e6⟩ : fld iw 30 2 = 1 ∧ fld iw 24 8 = 0x54#8 ∧ fld iw 19 5 = d ∧ fld iw 14 5 = a ∧ fld iw 9 5 = b ∧ fld iw 6 3 = k ∧ fld iw 4 2 = g ∧ fld iw 3 1 = s ∧ fld iw 0 3 = t := by
    and_intros <;> simp (disch := decide) only [hf, ext_hi, ext_lo, ext_all, Nat.reduceSub] <;> rfl
  exact ⟨by rw [select_vector c0, selectVector, h1, e0, e1, e2, e3, e4, e5, e6]; rfl, mask_none rfl⟩

theorem vsra (d a b : BitVec 5) (k : BitVec 3) (g : BitVec 2) (s : BitVec 1) (t : BitVec 3) : Statement (.vsra d a b k g s t) := by
  refine roundTrip_via (0x55#8 ++ d ++ a ++ b ++ k ++ g ++ s ++ t) rfl rfl fun iw hf => ?_
  obtain ⟨c0, h1, e0, e1, e2, e3, e4, e5, e6⟩ : fld iw 30 2 = 1 ∧ fld iw 24 8 = 0x55#8 ∧ fld iw 19 5 = d ∧ fld iw 14 5 = a ∧ fld iw 9 5 = b ∧ fld iw 6 3 = k ∧ fld iw 4 2 = g ∧ fld iw 3 1 = s ∧ fld iw 0 3 = t := by
    and_intros <;> simp (disch := decide) only [hf, ext_hi, ext_lo, ext_all, Nat.reduceSub] <;> rfl
  exact ⟨by rw [select_vector c0, selectVector, h1, e0, e1, e2, e3, e4, e5, e6]; rfl, mask_none rfl⟩

theorem vcmpeq (m : BitVec 3) (a b : BitVec 5) (k : BitVec 3) (g : BitVec 2) (s : BitVec 1) (t : BitVec 3) : Statement (.vcmpeq m a b k g s t) := by
  refine roundTrip_via (0x158#10 ++ m ++ a ++ b ++ k ++ g ++ s ++ t) rfl rfl fun iw hf => ?_
  obtain ⟨c0, h1, e0, e1, e2, e3, e4, e5, e6, r0⟩ : fld iw 30 2 = 1 ∧ fld iw 24 8 = 0x56#8 ∧ fld iw 19 3 = m ∧ fld iw 14 5 = a ∧ fld iw 9 5 = b ∧ fld iw 6 3 = k ∧ fld iw 4 2 = g ∧ fld iw 3 1 = s ∧ fld iw 0 3 = t ∧ fld iw 22 2 = 0 := by
    and_intros <;> simp (disch := decide) only [hf, ext_hi, ext_lo, ext_all, Nat.reduceSub] <;> rfl
  exact ⟨by rw [select_vector c0, selectVector, h1, e0, e1, e2, e3, e4, e5, e6]; rfl, mask_runs [(22, 2)] rfl (by simp [r0])⟩

theorem vcmplt (m : BitVec 3) (a b : BitVec 5) (k : BitVec 3) (g : BitVec 2) (s : BitVec 1) (t : BitVec 3) : Statement (.vcmplt m a b k g s t) := by
  refine roundTrip_via (0x15C#10 ++ m ++ a ++ b ++ k ++ g ++ s ++ t) rfl rfl fun iw hf => ?_
  obtain ⟨c0, h1, e0, e1, e2, e3, e4, e5, e6, r0⟩ : fld iw 30 2 = 1 ∧ fld iw 24 8 = 0x57#8 ∧ fld iw 19 3 = m ∧ fld iw 14 5 = a ∧ fld iw 9 5 = b ∧ fld iw 6 3 = k ∧ fld iw 4 2 = g ∧ fld iw 3 1 = s ∧ fld iw 0 3 = t ∧ fld iw 22 2 = 0 := by
    and_intros <;> simp (disch := decide) only [hf, ext_hi, ext_lo, ext_all, Nat.reduceSub] <;> rfl
  exact ⟨by rw [select_vector c0, selectVector, h1, e0, e1, e2, e3, e4, e5, e6]; rfl, mask_runs [(22, 2)] rfl (by simp [r0])⟩

theorem vcmple (m : BitVec 3) (a b : BitVec 5) (k : BitVec 3) (g : BitVec 2) (s : BitVec 1) (t : BitVec 3) : Statement (.vcmple m a b k g s t) := by
  refine roundTrip_via (0x160#10 ++ m ++ a ++ b ++ k ++ g ++ s ++ t) rfl rfl fun iw hf => ?_
  obtain ⟨c0, h1, e0, e1, e2, e3, e4, e5, e6, r0⟩ : fld iw 30 2 = 1 ∧ fld iw 24 8 = 0x58#8 ∧ fld iw 19 3 = m ∧ fld iw 14 5 = a ∧ fld iw 9 5 = b ∧ fld iw 6 3 = k ∧ fld iw 4 2 = g ∧ fld iw 3 1 = s ∧ fld iw 0 3 = t ∧ fld iw 22 2 = 0 := by
    and_intros <;> simp (disch := decide) only [hf, ext_hi, ext_lo, ext_all, Nat.reduceSub] <;> rfl
  exact ⟨by rw [select_vector c0, selectVector, h1, e0, e1, e2, e3, e4, e5, e6]; rfl, mask_runs [(22, 2)] rfl (by simp [r0])⟩

theorem vcvt (d a : BitVec 5) (u k : BitVec 3) (g : BitVec 2) (t : BitVec 3) : Statement (.vcvt d a u k g t) := by
  refine roundTrip_via (0x59#8 ++ d ++ a ++ 0x0#2 ++ u ++ k ++ g ++ 0x0#1 ++ t) rfl rfl fun iw hf => ?_
  obtain ⟨c0, h1, e0, e1, e2, e3, e4, e5, r0, r1⟩ : fld iw 30 2 = 1 ∧ fld iw 24 8 = 0x59#8 ∧ fld iw 19 5 = d ∧ fld iw 14 5 = a ∧ fld iw 9 3 = u ∧ fld iw 6 3 = k ∧ fld iw 4 2 = g ∧ fld iw 0 3 = t ∧ fld iw 3 1 = 0 ∧ fld iw 12 2 = 0 := by
    and_intros <;> simp (disch := decide) only [hf, ext_hi, ext_lo, ext_all, Nat.reduceSub] <;> rfl
  exact ⟨by rw [select_vector c0, selectVector, h1, e0, e1, e2, e3, e4, e5]; rfl, mask_runs [(3, 1), (12, 2)] rfl (by simp [r0, r1])⟩

theorem vsel (d a b : BitVec 5) (k : BitVec 3) (g : BitVec 2) (s : BitVec 1) (t : BitVec 3) : Statement (.vsel d a b k g s t) := by
  refine roundTrip_via (0x5A#8 ++ d ++ a ++ b ++ k ++ g ++ s ++ t) rfl rfl fun iw hf => ?_
  obtain ⟨c0, h1, e0, e1, e2, e3, e4, e5, e6⟩ : fld iw 30 2 = 1 ∧ fld iw 24 8 = 0x5A#8 ∧ fld iw 19 5 = d ∧ fld iw 14 5 = a ∧ fld iw 9 5 = b ∧ fld iw 6 3 = k ∧ fld iw 4 2 = g ∧ fld iw 3 1 = s ∧ fld iw 0 3 = t := by
    and_intros <;> simp (disch := decide) only [hf, ext_hi, ext_lo, ext_all, Nat.reduceSub] <;> rfl
  exact ⟨by rw [select_vector c0, selectVector, h1, e0, e1, e2, e3, e4, e5, e6]; rfl, mask_none rfl⟩

theorem vredsum (d a : BitVec 5) (k : BitVec 3) (g : BitVec 2) (t : BitVec 3) : Statement (.vredsum d a k g t) := by
  refine roundTrip_via (0x5B#8 ++ d ++ a ++ 0x0#5 ++ k ++ g ++ 0x0#1 ++ t) rfl rfl fun iw hf => ?_
  obtain ⟨c0, h1, e0, e1, e2, e3, e4, r0, r1⟩ : fld iw 30 2 = 1 ∧ fld iw 24 8 = 0x5B#8 ∧ fld iw 19 5 = d ∧ fld iw 14 5 = a ∧ fld iw 6 3 = k ∧ fld iw 4 2 = g ∧ fld iw 0 3 = t ∧ fld iw 3 1 = 0 ∧ fld iw 9 5 = 0 := by
    and_intros <;> simp (disch := decide) only [hf, ext_hi, ext_lo, ext_all, Nat.reduceSub] <;> rfl
  exact ⟨by rw [select_vector c0, selectVector, h1, e0, e1, e2, e3, e4]; rfl, mask_runs [(3, 1), (9, 5)] rfl (by simp [r0, r1])⟩

theorem vredmax (d a : BitVec 5) (k : BitVec 3) (g : BitVec 2) (t : BitVec 3) : Statement (.vredmax d a k g t) := by
  refine roundTrip_via (0x5C#8 ++ d ++ a ++ 0x0#5 ++ k ++ g ++ 0x0#1 ++ t) rfl rfl fun iw hf => ?_
  obtain ⟨c0, h1, e0, e1, e2, e3, e4, r0, r1⟩ : fld iw 30 2 = 1 ∧ fld iw 24 8 = 0x5C#8 ∧ fld iw 19 5 = d ∧ fld iw 14 5 = a ∧ fld iw 6 3 = k ∧ fld iw 4 2 = g ∧ fld iw 0 3 = t ∧ fld iw 3 1 = 0 ∧ fld iw 9 5 = 0 := by
    and_intros <;> simp (disch := decide) only [hf, ext_hi, ext_lo, ext_all, Nat.reduceSub] <;> rfl
  exact ⟨by rw [select_vector c0, selectVector, h1, e0, e1, e2, e3, e4]; rfl, mask_runs [(3, 1), (9, 5)] rfl (by simp [r0, r1])⟩

theorem vredmin (d a : BitVec 5) (k : BitVec 3) (g : BitVec 2) (t : BitVec 3) : Statement (.vredmin d a k g t) := by
  refine roundTrip_via (0x5D#8 ++ d ++ a ++ 0x0#5 ++ k ++ g ++ 0x0#1 ++ t) rfl rfl fun iw hf => ?_
  obtain ⟨c0, h1, e0, e1, e2, e3, e4, r0, r1⟩ : fld iw 30 2 = 1 ∧ fld iw 24 8 = 0x5D#8 ∧ fld iw 19 5 = d ∧ fld iw 14 5 = a ∧ fld iw 6 3 = k ∧ fld iw 4 2 = g ∧ fld iw 0 3 = t ∧ fld iw 3 1 = 0 ∧ fld iw 9 5 = 0 := by
    and_intros <;> simp (disch := decide) only [hf, ext_hi, ext_lo, ext_all, Nat.reduceSub] <;> rfl
  exact ⟨by rw [select_vector c0, selectVector, h1, e0, e1, e2, e3, e4]; rfl, mask_runs [(3, 1), (9, 5)] rfl (by simp [r0, r1])⟩

theorem vargmax (d a : BitVec 5) (k : BitVec 3) (g : BitVec 2) (t : BitVec 3) : Statement (.vargmax d a k g t) := by
  refine roundTrip_via (0x5E#8 ++ d ++ a ++ 0x0#5 ++ k ++ g ++ 0x0#1 ++ t) rfl rfl fun iw hf => ?_
  obtain ⟨c0, h1, e0, e1, e2, e3, e4, r0, r1⟩ : fld iw 30 2 = 1 ∧ fld iw 24 8 = 0x5E#8 ∧ fld iw 19 5 = d ∧ fld iw 14 5 = a ∧ fld iw 6 3 = k ∧ fld iw 4 2 = g ∧ fld iw 0 3 = t ∧ fld iw 3 1 = 0 ∧ fld iw 9 5 = 0 := by
    and_intros <;> simp (disch := decide) only [hf, ext_hi, ext_lo, ext_all, Nat.reduceSub] <;> rfl
  exact ⟨by rw [select_vector c0, selectVector, h1, e0, e1, e2, e3, e4]; rfl, mask_runs [(3, 1), (9, 5)] rfl (by simp [r0, r1])⟩

theorem vperm (d a b : BitVec 5) (k : BitVec 3) (g : BitVec 2) (s : BitVec 1) (t : BitVec 3) : Statement (.vperm d a b k g s t) := by
  refine roundTrip_via (0x5F#8 ++ d ++ a ++ b ++ k ++ g ++ s ++ t) rfl rfl fun iw hf => ?_
  obtain ⟨c0, h1, e0, e1, e2, e3, e4, e5, e6⟩ : fld iw 30 2 = 1 ∧ fld iw 24 8 = 0x5F#8 ∧ fld iw 19 5 = d ∧ fld iw 14 5 = a ∧ fld iw 9 5 = b ∧ fld iw 6 3 = k ∧ fld iw 4 2 = g ∧ fld iw 3 1 = s ∧ fld iw 0 3 = t := by
    and_intros <;> simp (disch := decide) only [hf, ext_hi, ext_lo, ext_all, Nat.reduceSub] <;> rfl
  exact ⟨by rw [select_vector c0, selectVector, h1, e0, e1, e2, e3, e4, e5, e6]; rfl, mask_none rfl⟩

theorem vslideu (d a : BitVec 5) (k : BitVec 3) (g : BitVec 2) (t : BitVec 3) (i : BitVec 6) : Statement (.vslideu d a k g t i) := by
  refine roundTrip_via (0x60#8 ++ d ++ a ++ k ++ g ++ t ++ i) rfl rfl fun iw hf => ?_
  obtain ⟨c0, h1, e0, e1, e2, e3, e4, e5⟩ : fld iw 30 2 = 1 ∧ fld iw 24 8 = 0x60#8 ∧ fld iw 19 5 = d ∧ fld iw 14 5 = a ∧ fld iw 11 3 = k ∧ fld iw 9 2 = g ∧ fld iw 6 3 = t ∧ fld iw 0 6 = i := by
    and_intros <;> simp (disch := decide) only [hf, ext_hi, ext_lo, ext_all, Nat.reduceSub] <;> rfl
  exact ⟨by rw [select_vector c0, selectVector, h1, e0, e1, e2, e3, e4, e5]; rfl, mask_none rfl⟩

theorem vslided (d a : BitVec 5) (k : BitVec 3) (g : BitVec 2) (t : BitVec 3) (i : BitVec 6) : Statement (.vslided d a k g t i) := by
  refine roundTrip_via (0x61#8 ++ d ++ a ++ k ++ g ++ t ++ i) rfl rfl fun iw hf => ?_
  obtain ⟨c0, h1, e0, e1, e2, e3, e4, e5⟩ : fld iw 30 2 = 1 ∧ fld iw 24 8 = 0x61#8 ∧ fld iw 19 5 = d ∧ fld iw 14 5 = a ∧ fld iw 11 3 = k ∧ fld iw 9 2 = g ∧ fld iw 6 3 = t ∧ fld iw 0 6 = i := by
    and_intros <;> simp (disch := decide) only [hf, ext_hi, ext_lo, ext_all, Nat.reduceSub] <;> rfl
  exact ⟨by rw [select_vector c0, selectVector, h1, e0, e1, e2, e3, e4, e5]; rfl, mask_none rfl⟩

theorem vbcast (d a : BitVec 5) (k : BitVec 3) (g : BitVec 2) (t : BitVec 3) (i : BitVec 6) : Statement (.vbcast d a k g t i) := by
  refine roundTrip_via (0x62#8 ++ d ++ a ++ k ++ g ++ t ++ i) rfl rfl fun iw hf => ?_
  obtain ⟨c0, h1, e0, e1, e2, e3, e4, e5⟩ : fld iw 30 2 = 1 ∧ fld iw 24 8 = 0x62#8 ∧ fld iw 19 5 = d ∧ fld iw 14 5 = a ∧ fld iw 11 3 = k ∧ fld iw 9 2 = g ∧ fld iw 6 3 = t ∧ fld iw 0 6 = i := by
    and_intros <;> simp (disch := decide) only [hf, ext_hi, ext_lo, ext_all, Nat.reduceSub] <;> rfl
  exact ⟨by rw [select_vector c0, selectVector, h1, e0, e1, e2, e3, e4, e5]; rfl, mask_none rfl⟩

theorem viota (d : BitVec 5) (a k : BitVec 3) (g : BitVec 2) (t : BitVec 3) : Statement (.viota d a k g t) := by
  refine roundTrip_via (0x63#8 ++ d ++ 0x0#2 ++ a ++ 0x0#5 ++ k ++ g ++ 0x0#1 ++ t) rfl rfl fun iw hf => ?_
  obtain ⟨c0, h1, e0, e1, e2, e3, e4, r0, r1, r2⟩ : fld iw 30 2 = 1 ∧ fld iw 24 8 = 0x63#8 ∧ fld iw 19 5 = d ∧ fld iw 14 3 = a ∧ fld iw 6 3 = k ∧ fld iw 4 2 = g ∧ fld iw 0 3 = t ∧ fld iw 3 1 = 0 ∧ fld iw 9 5 = 0 ∧ fld iw 17 2 = 0 := by
    and_intros <;> simp (disch := decide) only [hf, ext_hi, ext_lo, ext_all, Nat.reduceSub] <;> rfl
  exact ⟨by rw [select_vector c0, selectVector, h1, e0, e1, e2, e3, e4]; rfl, mask_runs [(3, 1), (9, 5), (17, 2)] rfl (by simp [r0, r1, r2])⟩

theorem vmv (d a : BitVec 5) (k : BitVec 3) (g : BitVec 2) (t : BitVec 3) : Statement (.vmv d a k g t) := by
  refine roundTrip_via (0x64#8 ++ d ++ a ++ 0x0#5 ++ k ++ g ++ 0x0#1 ++ t) rfl rfl fun iw hf => ?_
  obtain ⟨c0, h1, s0, e0, e1, e2, e3, e4, r0⟩ : fld iw 30 2 = 1 ∧ fld iw 24 8 = 0x64#8 ∧ fld iw 3 1 = 0#1 ∧ fld iw 19 5 = d ∧ fld iw 14 5 = a ∧ fld iw 6 3 = k ∧ fld iw 4 2 = g ∧ fld iw 0 3 = t ∧ fld iw 9 5 = 0 := by
    and_intros <;> simp (disch := decide) only [hf, ext_hi, ext_lo, ext_all, Nat.reduceSub] <;> rfl
  exact ⟨by rw [select_vector c0, selectVector, h1, s0, e0, e1, e2, e3, e4]; rfl, mask_runs [(9, 5)] rfl (by simp [r0])⟩

theorem vmvScalar (d b : BitVec 5) (k : BitVec 3) (g : BitVec 2) (t : BitVec 3) : Statement (.vmvScalar d b k g t) := by
  refine roundTrip_via (0x64#8 ++ d ++ 0x0#5 ++ b ++ k ++ g ++ 0x1#1 ++ t) rfl rfl fun iw hf => ?_
  obtain ⟨c0, h1, s0, e0, e1, e2, e3, e4, r0⟩ : fld iw 30 2 = 1 ∧ fld iw 24 8 = 0x64#8 ∧ fld iw 3 1 = 1#1 ∧ fld iw 19 5 = d ∧ fld iw 9 5 = b ∧ fld iw 6 3 = k ∧ fld iw 4 2 = g ∧ fld iw 0 3 = t ∧ fld iw 14 5 = 0 := by
    and_intros <;> simp (disch := decide) only [hf, ext_hi, ext_lo, ext_all, Nat.reduceSub] <;> rfl
  exact ⟨by rw [select_vector c0, selectVector, h1, s0, e0, e1, e2, e3, e4]; rfl, mask_runs [(14, 5)] rfl (by simp [r0])⟩

theorem vtopk (d a b : BitVec 5) (k : BitVec 3) (g : BitVec 2) (t : BitVec 3) : Statement (.vtopk d a b k g t) := by
  refine roundTrip_via (0x65#8 ++ d ++ a ++ b ++ k ++ g ++ 0x1#1 ++ t) rfl rfl fun iw hf => ?_
  obtain ⟨c0, h1, s0, e0, e1, e2, e3, e4, e5⟩ : fld iw 30 2 = 1 ∧ fld iw 24 8 = 0x65#8 ∧ fld iw 3 1 = 1#1 ∧ fld iw 19 5 = d ∧ fld iw 14 5 = a ∧ fld iw 9 5 = b ∧ fld iw 6 3 = k ∧ fld iw 4 2 = g ∧ fld iw 0 3 = t := by
    and_intros <;> simp (disch := decide) only [hf, ext_hi, ext_lo, ext_all, Nat.reduceSub] <;> rfl
  exact ⟨by rw [select_vector c0, selectVector, h1, s0, e0, e1, e2, e3, e4, e5]; rfl, mask_none rfl⟩

theorem vmfa (d : BitVec 5) (a k t : BitVec 3) : Statement (.vmfa d a k t) := by
  refine roundTrip_via (0x66#8 ++ d ++ 0x0#2 ++ a ++ 0x0#5 ++ k ++ 0x4#3 ++ t) rfl rfl fun iw hf => ?_
  obtain ⟨c0, h1, s0, e0, e1, e2, e3, r0, r1, r2⟩ : fld iw 30 2 = 1 ∧ fld iw 24 8 = 0x66#8 ∧ fld iw 4 2 = 2#2 ∧ fld iw 19 5 = d ∧ fld iw 14 3 = a ∧ fld iw 6 3 = k ∧ fld iw 0 3 = t ∧ fld iw 3 1 = 0 ∧ fld iw 9 5 = 0 ∧ fld iw 17 2 = 0 := by
    and_intros <;> simp (disch := decide) only [hf, ext_hi, ext_lo, ext_all, Nat.reduceSub] <;> rfl
  exact ⟨by rw [select_vector c0, selectVector, h1, s0, e0, e1, e2, e3]; rfl, mask_runs [(3, 1), (9, 5), (17, 2)] rfl (by simp [r0, r1, r2])⟩

theorem vmta (d : BitVec 3) (a : BitVec 5) (k t : BitVec 3) : Statement (.vmta d a k t) := by
  refine roundTrip_via (0x19C#10 ++ d ++ a ++ 0x0#5 ++ k ++ 0x4#3 ++ t) rfl rfl fun iw hf => ?_
  obtain ⟨c0, h1, s0, e0, e1, e2, e3, r0, r1, r2⟩ : fld iw 30 2 = 1 ∧ fld iw 24 8 = 0x67#8 ∧ fld iw 4 2 = 2#2 ∧ fld iw 19 3 = d ∧ fld iw 14 5 = a ∧ fld iw 6 3 = k ∧ fld iw 0 3 = t ∧ fld iw 3 1 = 0 ∧ fld iw 9 5 = 0 ∧ fld iw 22 2 = 0 := by
    and_intros <;> simp (disch := decide) only [hf, ext_hi, ext_lo, ext_all, Nat.reduceSub] <;> rfl
  exact ⟨by rw [select_vector c0, selectVector, h1, s0, e0, e1, e2, e3]; rfl, mask_runs [(3, 1), (9, 5), (22, 2)] rfl (by simp [r0, r1, r2])⟩

theorem vext (d a : BitVec 5) (k t : BitVec 3) (i : BitVec 6) : Statement (.vext d a k t i) := by
  refine roundTrip_via (0x68#8 ++ d ++ a ++ k ++ 0x0#2 ++ t ++ i) rfl rfl fun iw hf => ?_
  obtain ⟨c0, h1, e0, e1, e2, e3, e4, r0⟩ : fld iw 30 2 = 1 ∧ fld iw 24 8 = 0x68#8 ∧ fld iw 19 5 = d ∧ fld iw 14 5 = a ∧ fld iw 11 3 = k ∧ fld iw 6 3 = t ∧ fld iw 0 6 = i ∧ fld iw 9 2 = 0 := by
    and_intros <;> simp (disch := decide) only [hf, ext_hi, ext_lo, ext_all, Nat.reduceSub] <;> rfl
  exact ⟨by rw [select_vector c0, selectVector, h1, e0, e1, e2, e3, e4]; rfl, mask_runs [(9, 2)] rfl (by simp [r0])⟩

theorem vld (d a b : BitVec 5) (k : BitVec 3) (g : BitVec 2) (t : BitVec 3) : Statement (.vld d a b k g t) := by
  refine roundTrip_via (0x70#8 ++ d ++ a ++ b ++ k ++ g ++ 0x0#1 ++ t) rfl rfl fun iw hf => ?_
  obtain ⟨c0, h1, e0, e1, e2, e3, e4, e5, r0⟩ : fld iw 30 2 = 1 ∧ fld iw 24 8 = 0x70#8 ∧ fld iw 19 5 = d ∧ fld iw 14 5 = a ∧ fld iw 9 5 = b ∧ fld iw 6 3 = k ∧ fld iw 4 2 = g ∧ fld iw 0 3 = t ∧ fld iw 3 1 = 0 := by
    and_intros <;> simp (disch := decide) only [hf, ext_hi, ext_lo, ext_all, Nat.reduceSub] <;> rfl
  exact ⟨by rw [select_vector c0, selectVector, h1, e0, e1, e2, e3, e4, e5]; rfl, mask_runs [(3, 1)] rfl (by simp [r0])⟩

theorem vst (d a b : BitVec 5) (k : BitVec 3) (g : BitVec 2) (x : BitVec 1) (t : BitVec 3) : Statement (.vst d a b k g x t) := by
  refine roundTrip_via (0x71#8 ++ d ++ a ++ b ++ k ++ g ++ x ++ t) rfl rfl fun iw hf => ?_
  obtain ⟨c0, h1, e0, e1, e2, e3, e4, e5, e6⟩ : fld iw 30 2 = 1 ∧ fld iw 24 8 = 0x71#8 ∧ fld iw 19 5 = d ∧ fld iw 14 5 = a ∧ fld iw 9 5 = b ∧ fld iw 6 3 = k ∧ fld iw 4 2 = g ∧ fld iw 3 1 = x ∧ fld iw 0 3 = t := by
    and_intros <;> simp (disch := decide) only [hf, ext_hi, ext_lo, ext_all, Nat.reduceSub] <;> rfl
  exact ⟨by rw [select_vector c0, selectVector, h1, e0, e1, e2, e3, e4, e5, e6]; rfl, mask_none rfl⟩

theorem vlds (d a b : BitVec 5) (k : BitVec 3) (g : BitVec 2) (t : BitVec 3) : Statement (.vlds d a b k g t) := by
  refine roundTrip_via (0x72#8 ++ d ++ a ++ b ++ k ++ g ++ 0x0#1 ++ t) rfl rfl fun iw hf => ?_
  obtain ⟨c0, h1, e0, e1, e2, e3, e4, e5, r0⟩ : fld iw 30 2 = 1 ∧ fld iw 24 8 = 0x72#8 ∧ fld iw 19 5 = d ∧ fld iw 14 5 = a ∧ fld iw 9 5 = b ∧ fld iw 6 3 = k ∧ fld iw 4 2 = g ∧ fld iw 0 3 = t ∧ fld iw 3 1 = 0 := by
    and_intros <;> simp (disch := decide) only [hf, ext_hi, ext_lo, ext_all, Nat.reduceSub] <;> rfl
  exact ⟨by rw [select_vector c0, selectVector, h1, e0, e1, e2, e3, e4, e5]; rfl, mask_runs [(3, 1)] rfl (by simp [r0])⟩

theorem vsts (d a b : BitVec 5) (k : BitVec 3) (g : BitVec 2) (x : BitVec 1) (t : BitVec 3) : Statement (.vsts d a b k g x t) := by
  refine roundTrip_via (0x73#8 ++ d ++ a ++ b ++ k ++ g ++ x ++ t) rfl rfl fun iw hf => ?_
  obtain ⟨c0, h1, e0, e1, e2, e3, e4, e5, e6⟩ : fld iw 30 2 = 1 ∧ fld iw 24 8 = 0x73#8 ∧ fld iw 19 5 = d ∧ fld iw 14 5 = a ∧ fld iw 9 5 = b ∧ fld iw 6 3 = k ∧ fld iw 4 2 = g ∧ fld iw 3 1 = x ∧ fld iw 0 3 = t := by
    and_intros <;> simp (disch := decide) only [hf, ext_hi, ext_lo, ext_all, Nat.reduceSub] <;> rfl
  exact ⟨by rw [select_vector c0, selectVector, h1, e0, e1, e2, e3, e4, e5, e6]; rfl, mask_none rfl⟩

theorem vgath (d a b : BitVec 5) (k : BitVec 3) (g : BitVec 2) (t : BitVec 3) : Statement (.vgath d a b k g t) := by
  refine roundTrip_via (0x74#8 ++ d ++ a ++ b ++ k ++ g ++ 0x0#1 ++ t) rfl rfl fun iw hf => ?_
  obtain ⟨c0, h1, e0, e1, e2, e3, e4, e5, r0⟩ : fld iw 30 2 = 1 ∧ fld iw 24 8 = 0x74#8 ∧ fld iw 19 5 = d ∧ fld iw 14 5 = a ∧ fld iw 9 5 = b ∧ fld iw 6 3 = k ∧ fld iw 4 2 = g ∧ fld iw 0 3 = t ∧ fld iw 3 1 = 0 := by
    and_intros <;> simp (disch := decide) only [hf, ext_hi, ext_lo, ext_all, Nat.reduceSub] <;> rfl
  exact ⟨by rw [select_vector c0, selectVector, h1, e0, e1, e2, e3, e4, e5]; rfl, mask_runs [(3, 1)] rfl (by simp [r0])⟩

theorem vscat (d a b : BitVec 5) (k : BitVec 3) (g : BitVec 2) (x : BitVec 1) (t : BitVec 3) : Statement (.vscat d a b k g x t) := by
  refine roundTrip_via (0x75#8 ++ d ++ a ++ b ++ k ++ g ++ x ++ t) rfl rfl fun iw hf => ?_
  obtain ⟨c0, h1, e0, e1, e2, e3, e4, e5, e6⟩ : fld iw 30 2 = 1 ∧ fld iw 24 8 = 0x75#8 ∧ fld iw 19 5 = d ∧ fld iw 14 5 = a ∧ fld iw 9 5 = b ∧ fld iw 6 3 = k ∧ fld iw 4 2 = g ∧ fld iw 3 1 = x ∧ fld iw 0 3 = t := by
    and_intros <;> simp (disch := decide) only [hf, ext_hi, ext_lo, ext_all, Nat.reduceSub] <;> rfl
  exact ⟨by rw [select_vector c0, selectVector, h1, e0, e1, e2, e3, e4, e5, e6]; rfl, mask_none rfl⟩

theorem vscadd (d a b : BitVec 5) (k : BitVec 3) (g : BitVec 2) (x : BitVec 1) (t : BitVec 3) : Statement (.vscadd d a b k g x t) := by
  refine roundTrip_via (0x76#8 ++ d ++ a ++ b ++ k ++ g ++ x ++ t) rfl rfl fun iw hf => ?_
  obtain ⟨c0, h1, e0, e1, e2, e3, e4, e5, e6⟩ : fld iw 30 2 = 1 ∧ fld iw 24 8 = 0x76#8 ∧ fld iw 19 5 = d ∧ fld iw 14 5 = a ∧ fld iw 9 5 = b ∧ fld iw 6 3 = k ∧ fld iw 4 2 = g ∧ fld iw 3 1 = x ∧ fld iw 0 3 = t := by
    and_intros <;> simp (disch := decide) only [hf, ext_hi, ext_lo, ext_all, Nat.reduceSub] <;> rfl
  exact ⟨by rw [select_vector c0, selectVector, h1, e0, e1, e2, e3, e4, e5, e6]; rfl, mask_none rfl⟩

theorem kand (d a b : BitVec 3) : Statement (.kand d a b) := by
  refine roundTrip_via (0x1E0#10 ++ d ++ 0x0#2 ++ a ++ 0x0#2 ++ b ++ 0x0#9) rfl rfl fun iw hf => ?_
  obtain ⟨c0, h1, e0, e1, e2, r0, r1, r2, r3⟩ : fld iw 30 2 = 1 ∧ fld iw 24 8 = 0x78#8 ∧ fld iw 19 3 = d ∧ fld iw 14 3 = a ∧ fld iw 9 3 = b ∧ fld iw 0 9 = 0 ∧ fld iw 12 2 = 0 ∧ fld iw 17 2 = 0 ∧ fld iw 22 2 = 0 := by
    and_intros <;> simp (disch := decide) only [hf, ext_hi, ext_lo, ext_all, Nat.reduceSub] <;> rfl
  exact ⟨by rw [select_vector c0, selectVector, h1, e0, e1, e2]; rfl, mask_runs [(0, 9), (12, 2), (17, 2), (22, 2)] rfl (by simp [r0, r1, r2, r3])⟩

theorem kor (d a b : BitVec 3) : Statement (.kor d a b) := by
  refine roundTrip_via (0x1E4#10 ++ d ++ 0x0#2 ++ a ++ 0x0#2 ++ b ++ 0x0#9) rfl rfl fun iw hf => ?_
  obtain ⟨c0, h1, e0, e1, e2, r0, r1, r2, r3⟩ : fld iw 30 2 = 1 ∧ fld iw 24 8 = 0x79#8 ∧ fld iw 19 3 = d ∧ fld iw 14 3 = a ∧ fld iw 9 3 = b ∧ fld iw 0 9 = 0 ∧ fld iw 12 2 = 0 ∧ fld iw 17 2 = 0 ∧ fld iw 22 2 = 0 := by
    and_intros <;> simp (disch := decide) only [hf, ext_hi, ext_lo, ext_all, Nat.reduceSub] <;> rfl
  exact ⟨by rw [select_vector c0, selectVector, h1, e0, e1, e2]; rfl, mask_runs [(0, 9), (12, 2), (17, 2), (22, 2)] rfl (by simp [r0, r1, r2, r3])⟩

theorem knot (d a : BitVec 3) : Statement (.knot d a) := by
  refine roundTrip_via (0x1E8#10 ++ d ++ 0x0#2 ++ a ++ 0x0#14) rfl rfl fun iw hf => ?_
  obtain ⟨c0, h1, e0, e1, r0, r1, r2⟩ : fld iw 30 2 = 1 ∧ fld iw 24 8 = 0x7A#8 ∧ fld iw 19 3 = d ∧ fld iw 14 3 = a ∧ fld iw 0 14 = 0 ∧ fld iw 17 2 = 0 ∧ fld iw 22 2 = 0 := by
    and_intros <;> simp (disch := decide) only [hf, ext_hi, ext_lo, ext_all, Nat.reduceSub] <;> rfl
  exact ⟨by rw [select_vector c0, selectVector, h1, e0, e1]; rfl, mask_runs [(0, 14), (17, 2), (22, 2)] rfl (by simp [r0, r1, r2])⟩

theorem kpop (d : BitVec 5) (a : BitVec 3) : Statement (.kpop d a) := by
  refine roundTrip_via (0x7B#8 ++ d ++ 0x0#2 ++ a ++ 0x0#14) rfl rfl fun iw hf => ?_
  obtain ⟨c0, h1, e0, e1, r0, r1⟩ : fld iw 30 2 = 1 ∧ fld iw 24 8 = 0x7B#8 ∧ fld iw 19 5 = d ∧ fld iw 14 3 = a ∧ fld iw 0 14 = 0 ∧ fld iw 17 2 = 0 := by
    and_intros <;> simp (disch := decide) only [hf, ext_hi, ext_lo, ext_all, Nat.reduceSub] <;> rfl
  exact ⟨by rw [select_vector c0, selectVector, h1, e0, e1]; rfl, mask_runs [(0, 14), (17, 2)] rfl (by simp [r0, r1])⟩

theorem kfirst (d : BitVec 5) (a : BitVec 3) : Statement (.kfirst d a) := by
  refine roundTrip_via (0x7C#8 ++ d ++ 0x0#2 ++ a ++ 0x0#14) rfl rfl fun iw hf => ?_
  obtain ⟨c0, h1, e0, e1, r0, r1⟩ : fld iw 30 2 = 1 ∧ fld iw 24 8 = 0x7C#8 ∧ fld iw 19 5 = d ∧ fld iw 14 3 = a ∧ fld iw 0 14 = 0 ∧ fld iw 17 2 = 0 := by
    and_intros <;> simp (disch := decide) only [hf, ext_hi, ext_lo, ext_all, Nat.reduceSub] <;> rfl
  exact ⟨by rw [select_vector c0, selectVector, h1, e0, e1]; rfl, mask_runs [(0, 14), (17, 2)] rfl (by simp [r0, r1])⟩

theorem kld (d : BitVec 3) (a b : BitVec 5) : Statement (.kld d a b) := by
  refine roundTrip_via (0x1F4#10 ++ d ++ a ++ b ++ 0x0#9) rfl rfl fun iw hf => ?_
  obtain ⟨c0, h1, e0, e1, e2, r0, r1⟩ : fld iw 30 2 = 1 ∧ fld iw 24 8 = 0x7D#8 ∧ fld iw 19 3 = d ∧ fld iw 14 5 = a ∧ fld iw 9 5 = b ∧ fld iw 0 9 = 0 ∧ fld iw 22 2 = 0 := by
    and_intros <;> simp (disch := decide) only [hf, ext_hi, ext_lo, ext_all, Nat.reduceSub] <;> rfl
  exact ⟨by rw [select_vector c0, selectVector, h1, e0, e1, e2]; rfl, mask_runs [(0, 9), (22, 2)] rfl (by simp [r0, r1])⟩

theorem kst (d : BitVec 3) (a b : BitVec 5) (x : BitVec 1) : Statement (.kst d a b x) := by
  refine roundTrip_via (0x1F8#10 ++ d ++ a ++ b ++ 0x0#5 ++ x ++ 0x0#3) rfl rfl fun iw hf => ?_
  obtain ⟨c0, h1, e0, e1, e2, e3, r0, r1, r2⟩ : fld iw 30 2 = 1 ∧ fld iw 24 8 = 0x7E#8 ∧ fld iw 19 3 = d ∧ fld iw 14 5 = a ∧ fld iw 9 5 = b ∧ fld iw 3 1 = x ∧ fld iw 0 3 = 0 ∧ fld iw 4 5 = 0 ∧ fld iw 22 2 = 0 := by
    and_intros <;> simp (disch := decide) only [hf, ext_hi, ext_lo, ext_all, Nat.reduceSub] <;> rfl
  exact ⟨by rw [select_vector c0, selectVector, h1, e0, e1, e2, e3]; rfl, mask_runs [(0, 3), (4, 5), (22, 2)] rfl (by simp [r0, r1, r2])⟩

theorem hld (a : BitVec 5) (h : BitVec 4) : Statement (.hld a h) := by
  refine roundTrip_via (0x1000#13 ++ a ++ 0x0#5 ++ h ++ 0x0#5) rfl rfl fun iw hf => ?_
  obtain ⟨c0, h1, s0, e0, e1, r0, r1⟩ : fld iw 30 2 = 2 ∧ fld iw 24 8 = 0x80#8 ∧ fld iw 0 5 = 0#5 ∧ fld iw 14 5 = a ∧ fld iw 5 4 = h ∧ fld iw 9 5 = 0 ∧ fld iw 19 5 = 0 := by
    and_intros <;> simp (disch := decide) only [hf, ext_hi, ext_lo, ext_all, Nat.reduceSub] <;> rfl
  exact ⟨by rw [select_engine c0, selectEngine, h1, s0, e0, e1]; rfl, mask_runs [(9, 5), (19, 5)] rfl (by simp [r0, r1])⟩

theorem hset (a : BitVec 5) (h n : BitVec 4) : Statement (.hset a h n) := by
  refine roundTrip_via (0x1020#13 ++ a ++ 0x0#5 ++ h ++ 0x0#1 ++ n) rfl rfl fun iw hf => ?_
  obtain ⟨c0, h1, e0, e1, e2, t0, r0, r1⟩ : fld iw 30 2 = 2 ∧ fld iw 24 8 = 0x81#8 ∧ fld iw 14 5 = a ∧ fld iw 5 4 = h ∧ fld iw 0 4 = n ∧ fld iw 4 1 = 0 ∧ fld iw 9 5 = 0 ∧ fld iw 19 5 = 0 := by
    and_intros <;> simp (disch := decide) only [hf, ext_hi, ext_lo, ext_all, Nat.reduceSub] <;> rfl
  refine ⟨?_, mask_runs [(9, 5), (19, 5)] rfl (by simp [r0, r1])⟩
  rcases low_of_high t0 with s0 | s0 <;> rw [select_engine c0, selectEngine, h1, s0, e0, e1, e2] <;> rfl

theorem hsetD (a : BitVec 5) (h : BitVec 4) (n : BitVec 3) : Statement (.hsetD a h n) := by
  refine roundTrip_via (0x1020#13 ++ a ++ 0x0#5 ++ h ++ 0x2#2 ++ n) rfl rfl fun iw hf => ?_
  obtain ⟨c0, h1, s0, e0, e1, e2, r0, r1⟩ : fld iw 30 2 = 2 ∧ fld iw 24 8 = 0x81#8 ∧ fld iw 3 2 = 2#2 ∧ fld iw 14 5 = a ∧ fld iw 5 4 = h ∧ fld iw 0 3 = n ∧ fld iw 9 5 = 0 ∧ fld iw 19 5 = 0 := by
    and_intros <;> simp (disch := decide) only [hf, ext_hi, ext_lo, ext_all, Nat.reduceSub] <;> rfl
  exact ⟨by rw [select_engine c0, selectEngine, h1, s0, e0, e1, e2]; rfl, mask_runs [(9, 5), (19, 5)] rfl (by simp [r0, r1])⟩

theorem hget (d : BitVec 5) (h n : BitVec 4) : Statement (.hget d h n) := by
  refine roundTrip_via (0x82#8 ++ d ++ 0x0#10 ++ h ++ 0x0#1 ++ n) rfl rfl fun iw hf => ?_
  obtain ⟨c0, h1, e0, e1, e2, t0, r0⟩ : fld iw 30 2 = 2 ∧ fld iw 24 8 = 0x82#8 ∧ fld iw 19 5 = d ∧ fld iw 5 4 = h ∧ fld iw 0 4 = n ∧ fld iw 4 1 = 0 ∧ fld iw 9 10 = 0 := by
    and_intros <;> simp (disch := decide) only [hf, ext_hi, ext_lo, ext_all, Nat.reduceSub] <;> rfl
  refine ⟨?_, mask_runs [(9, 10)] rfl (by simp [r0])⟩
  rcases low_of_high t0 with s0 | s0 <;> rw [select_engine c0, selectEngine, h1, s0, e0, e1, e2] <;> rfl

theorem hgetD (d : BitVec 5) (h : BitVec 4) (n : BitVec 3) : Statement (.hgetD d h n) := by
  refine roundTrip_via (0x82#8 ++ d ++ 0x0#10 ++ h ++ 0x2#2 ++ n) rfl rfl fun iw hf => ?_
  obtain ⟨c0, h1, s0, e0, e1, e2, r0⟩ : fld iw 30 2 = 2 ∧ fld iw 24 8 = 0x82#8 ∧ fld iw 3 2 = 2#2 ∧ fld iw 19 5 = d ∧ fld iw 5 4 = h ∧ fld iw 0 3 = n ∧ fld iw 9 10 = 0 := by
    and_intros <;> simp (disch := decide) only [hf, ext_hi, ext_lo, ext_all, Nat.reduceSub] <;> rfl
  exact ⟨by rw [select_engine c0, selectEngine, h1, s0, e0, e1, e2]; rfl, mask_runs [(9, 10)] rfl (by simp [r0])⟩

theorem halloc (d a : BitVec 5) : Statement (.halloc d a) := by
  refine roundTrip_via (0x84#8 ++ d ++ a ++ 0x0#14) rfl rfl fun iw hf => ?_
  obtain ⟨c0, h1, s0, e0, e1, r0⟩ : fld iw 30 2 = 2 ∧ fld iw 24 8 = 0x84#8 ∧ fld iw 0 5 = 0#5 ∧ fld iw 19 5 = d ∧ fld iw 14 5 = a ∧ fld iw 5 9 = 0 := by
    and_intros <;> simp (disch := decide) only [hf, ext_hi, ext_lo, ext_all, Nat.reduceSub] <;> rfl
  exact ⟨by rw [select_engine c0, selectEngine, h1, s0, e0, e1]; rfl, mask_runs [(5, 9)] rfl (by simp [r0])⟩

theorem hallocN (d a b : BitVec 5) : Statement (.hallocN d a b) := by
  refine roundTrip_via (0x84#8 ++ d ++ a ++ b ++ 0x1#9) rfl rfl fun iw hf => ?_
  obtain ⟨c0, h1, s0, e0, e1, e2, r0⟩ : fld iw 30 2 = 2 ∧ fld iw 24 8 = 0x84#8 ∧ fld iw 0 5 = 1#5 ∧ fld iw 19 5 = d ∧ fld iw 14 5 = a ∧ fld iw 9 5 = b ∧ fld iw 5 4 = 0 := by
    and_intros <;> simp (disch := decide) only [hf, ext_hi, ext_lo, ext_all, Nat.reduceSub] <;> rfl
  exact ⟨by rw [select_engine c0, selectEngine, h1, s0, e0, e1, e2]; rfl, mask_runs [(5, 4)] rfl (by simp [r0])⟩

theorem hfree (a : BitVec 5) : Statement (.hfree a) := by
  refine roundTrip_via (0x10A0#13 ++ a ++ 0x0#14) rfl rfl fun iw hf => ?_
  obtain ⟨c0, h1, s0, e0, r0, r1⟩ : fld iw 30 2 = 2 ∧ fld iw 24 8 = 0x85#8 ∧ fld iw 0 5 = 0#5 ∧ fld iw 14 5 = a ∧ fld iw 5 9 = 0 ∧ fld iw 19 5 = 0 := by
    and_intros <;> simp (disch := decide) only [hf, ext_hi, ext_lo, ext_all, Nat.reduceSub] <;> rfl
  exact ⟨by rw [select_engine c0, selectEngine, h1, s0, e0]; rfl, mask_runs [(5, 9), (19, 5)] rfl (by simp [r0, r1])⟩

theorem hwait (d a b : BitVec 5) : Statement (.hwait d a b) := by
  refine roundTrip_via (0x86#8 ++ d ++ a ++ b ++ 0x0#9) rfl rfl fun iw hf => ?_
  obtain ⟨c0, h1, s0, e0, e1, e2, r0⟩ : fld iw 30 2 = 2 ∧ fld iw 24 8 = 0x86#8 ∧ fld iw 0 5 = 0#5 ∧ fld iw 19 5 = d ∧ fld iw 14 5 = a ∧ fld iw 9 5 = b ∧ fld iw 5 4 = 0 := by
    and_intros <;> simp (disch := decide) only [hf, ext_hi, ext_lo, ext_all, Nat.reduceSub] <;> rfl
  exact ⟨by rw [select_engine c0, selectEngine, h1, s0, e0, e1, e2]; rfl, mask_runs [(5, 4)] rfl (by simp [r0])⟩

theorem hspace (d a b : BitVec 5) : Statement (.hspace d a b) := by
  refine roundTrip_via (0x87#8 ++ d ++ a ++ b ++ 0x0#9) rfl rfl fun iw hf => ?_
  obtain ⟨c0, h1, s0, e0, e1, e2, r0⟩ : fld iw 30 2 = 2 ∧ fld iw 24 8 = 0x87#8 ∧ fld iw 0 5 = 0#5 ∧ fld iw 19 5 = d ∧ fld iw 14 5 = a ∧ fld iw 9 5 = b ∧ fld iw 5 4 = 0 := by
    and_intros <;> simp (disch := decide) only [hf, ext_hi, ext_lo, ext_all, Nat.reduceSub] <;> rfl
  exact ⟨by rw [select_engine c0, selectEngine, h1, s0, e0, e1, e2]; rfl, mask_runs [(5, 4)] rfl (by simp [r0])⟩

theorem hadvP (a b : BitVec 5) : Statement (.hadvP a b) := by
  refine roundTrip_via (0x1100#13 ++ a ++ b ++ 0x0#9) rfl rfl fun iw hf => ?_
  obtain ⟨c0, h1, s0, e0, e1, r0, r1⟩ : fld iw 30 2 = 2 ∧ fld iw 24 8 = 0x88#8 ∧ fld iw 0 5 = 0#5 ∧ fld iw 14 5 = a ∧ fld iw 9 5 = b ∧ fld iw 5 4 = 0 ∧ fld iw 19 5 = 0 := by
    and_intros <;> simp (disch := decide) only [hf, ext_hi, ext_lo, ext_all, Nat.reduceSub] <;> rfl
  exact ⟨by rw [select_engine c0, selectEngine, h1, s0, e0, e1]; rfl, mask_runs [(5, 4), (19, 5)] rfl (by simp [r0, r1])⟩

theorem hadvC (a b : BitVec 5) : Statement (.hadvC a b) := by
  refine roundTrip_via (0x1100#13 ++ a ++ b ++ 0x1#9) rfl rfl fun iw hf => ?_
  obtain ⟨c0, h1, s0, e0, e1, r0, r1⟩ : fld iw 30 2 = 2 ∧ fld iw 24 8 = 0x88#8 ∧ fld iw 0 5 = 1#5 ∧ fld iw 14 5 = a ∧ fld iw 9 5 = b ∧ fld iw 5 4 = 0 ∧ fld iw 19 5 = 0 := by
    and_intros <;> simp (disch := decide) only [hf, ext_hi, ext_lo, ext_all, Nat.reduceSub] <;> rfl
  exact ⟨by rw [select_engine c0, selectEngine, h1, s0, e0, e1]; rfl, mask_runs [(5, 4), (19, 5)] rfl (by simp [r0, r1])⟩

theorem hstat (d a : BitVec 5) : Statement (.hstat d a) := by
  refine roundTrip_via (0x89#8 ++ d ++ a ++ 0x0#14) rfl rfl fun iw hf => ?_
  obtain ⟨c0, h1, s0, e0, e1, r0⟩ : fld iw 30 2 = 2 ∧ fld iw 24 8 = 0x89#8 ∧ fld iw 0 5 = 0#5 ∧ fld iw 19 5 = d ∧ fld iw 14 5 = a ∧ fld iw 5 9 = 0 := by
    and_intros <;> simp (disch := decide) only [hf, ext_hi, ext_lo, ext_all, Nat.reduceSub] <;> rfl
  exact ⟨by rw [select_engine c0, selectEngine, h1, s0, e0, e1]; rfl, mask_runs [(5, 9)] rfl (by simp [r0])⟩

theorem hstatLo (d a : BitVec 5) : Statement (.hstatLo d a) := by
  refine roundTrip_via (0x89#8 ++ d ++ a ++ 0x1#14) rfl rfl fun iw hf => ?_
  obtain ⟨c0, h1, s0, e0, e1, r0⟩ : fld iw 30 2 = 2 ∧ fld iw 24 8 = 0x89#8 ∧ fld iw 0 5 = 1#5 ∧ fld iw 19 5 = d ∧ fld iw 14 5 = a ∧ fld iw 5 9 = 0 := by
    and_intros <;> simp (disch := decide) only [hf, ext_hi, ext_lo, ext_all, Nat.reduceSub] <;> rfl
  exact ⟨by rw [select_engine c0, selectEngine, h1, s0, e0, e1]; rfl, mask_runs [(5, 9)] rfl (by simp [r0])⟩

theorem hstatHi (d a : BitVec 5) : Statement (.hstatHi d a) := by
  refine roundTrip_via (0x89#8 ++ d ++ a ++ 0x2#14) rfl rfl fun iw hf => ?_
  obtain ⟨c0, h1, s0, e0, e1, r0⟩ : fld iw 30 2 = 2 ∧ fld iw 24 8 = 0x89#8 ∧ fld iw 0 5 = 2#5 ∧ fld iw 19 5 = d ∧ fld iw 14 5 = a ∧ fld iw 5 9 = 0 := by
    and_intros <;> simp (disch := decide) only [hf, ext_hi, ext_lo, ext_all, Nat.reduceSub] <;> rfl
  exact ⟨by rw [select_engine c0, selectEngine, h1, s0, e0, e1]; rfl, mask_runs [(5, 9)] rfl (by simp [r0])⟩

theorem tmov (d a b : BitVec 5) (h : BitVec 4) : Statement (.tmov d a b h) := by
  refine roundTrip_via (0x8C#8 ++ d ++ a ++ b ++ h ++ 0x0#5) rfl rfl fun iw hf => ?_
  obtain ⟨c0, h1, s0, e0, e1, e2, e3⟩ : fld iw 30 2 = 2 ∧ fld iw 24 8 = 0x8C#8 ∧ fld iw 0 5 = 0#5 ∧ fld iw 19 5 = d ∧ fld iw 14 5 = a ∧ fld iw 9 5 = b ∧ fld iw 5 4 = h := by
    and_intros <;> simp (disch := decide) only [hf, ext_hi, ext_lo, ext_all, Nat.reduceSub] <;> rfl
  exact ⟨by rw [select_engine c0, selectEngine, h1, s0, e0, e1, e2, e3]; rfl, mask_none rfl⟩

theorem tmovTg (d a b : BitVec 5) (h : BitVec 4) : Statement (.tmovTg d a b h) := by
  refine roundTrip_via (0x8C#8 ++ d ++ a ++ b ++ h ++ 0x1#5) rfl rfl fun iw hf => ?_
  obtain ⟨c0, h1, s0, e0, e1, e2, e3⟩ : fld iw 30 2 = 2 ∧ fld iw 24 8 = 0x8C#8 ∧ fld iw 0 5 = 1#5 ∧ fld iw 19 5 = d ∧ fld iw 14 5 = a ∧ fld iw 9 5 = b ∧ fld iw 5 4 = h := by
    and_intros <;> simp (disch := decide) only [hf, ext_hi, ext_lo, ext_all, Nat.reduceSub] <;> rfl
  exact ⟨by rw [select_engine c0, selectEngine, h1, s0, e0, e1, e2, e3]; rfl, mask_none rfl⟩

theorem ttag (d a b : BitVec 5) : Statement (.ttag d a b) := by
  refine roundTrip_via (0x8D#8 ++ d ++ a ++ b ++ 0x0#9) rfl rfl fun iw hf => ?_
  obtain ⟨c0, h1, s0, e0, e1, e2, r0⟩ : fld iw 30 2 = 2 ∧ fld iw 24 8 = 0x8D#8 ∧ fld iw 0 5 = 0#5 ∧ fld iw 19 5 = d ∧ fld iw 14 5 = a ∧ fld iw 9 5 = b ∧ fld iw 5 4 = 0 := by
    and_intros <;> simp (disch := decide) only [hf, ext_hi, ext_lo, ext_all, Nat.reduceSub] <;> rfl
  exact ⟨by rw [select_engine c0, selectEngine, h1, s0, e0, e1, e2]; rfl, mask_runs [(5, 4)] rfl (by simp [r0])⟩

theorem ttagCas (d a b : BitVec 5) : Statement (.ttagCas d a b) := by
  refine roundTrip_via (0x8D#8 ++ d ++ a ++ b ++ 0x1#9) rfl rfl fun iw hf => ?_
  obtain ⟨c0, h1, s0, e0, e1, e2, r0⟩ : fld iw 30 2 = 2 ∧ fld iw 24 8 = 0x8D#8 ∧ fld iw 0 5 = 1#5 ∧ fld iw 19 5 = d ∧ fld iw 14 5 = a ∧ fld iw 9 5 = b ∧ fld iw 5 4 = 0 := by
    and_intros <;> simp (disch := decide) only [hf, ext_hi, ext_lo, ext_all, Nat.reduceSub] <;> rfl
  exact ⟨by rw [select_engine c0, selectEngine, h1, s0, e0, e1, e2]; rfl, mask_runs [(5, 4)] rfl (by simp [r0])⟩

theorem tget (d a : BitVec 5) : Statement (.tget d a) := by
  refine roundTrip_via (0x8E#8 ++ d ++ a ++ 0x0#14) rfl rfl fun iw hf => ?_
  obtain ⟨c0, h1, s0, e0, e1, r0⟩ : fld iw 30 2 = 2 ∧ fld iw 24 8 = 0x8E#8 ∧ fld iw 0 5 = 0#5 ∧ fld iw 19 5 = d ∧ fld iw 14 5 = a ∧ fld iw 5 9 = 0 := by
    and_intros <;> simp (disch := decide) only [hf, ext_hi, ext_lo, ext_all, Nat.reduceSub] <;> rfl
  exact ⟨by rw [select_engine c0, selectEngine, h1, s0, e0, e1]; rfl, mask_runs [(5, 9)] rfl (by simp [r0])⟩

theorem cpy (d a b : BitVec 5) (h : BitVec 4) : Statement (.cpy d a b h) := by
  refine roundTrip_via (0x90#8 ++ d ++ a ++ b ++ h ++ 0x0#5) rfl rfl fun iw hf => ?_
  obtain ⟨c0, h1, s0, e0, e1, e2, e3⟩ : fld iw 30 2 = 2 ∧ fld iw 24 8 = 0x90#8 ∧ fld iw 0 5 = 0#5 ∧ fld iw 19 5 = d ∧ fld iw 14 5 = a ∧ fld iw 9 5 = b ∧ fld iw 5 4 = h := by
    and_intros <;> simp (disch := decide) only [hf, ext_hi, ext_lo, ext_all, Nat.reduceSub] <;> rfl
  exact ⟨by rw [select_engine c0, selectEngine, h1, s0, e0, e1, e2, e3]; rfl, mask_none rfl⟩

theorem gath (d a b : BitVec 5) (h : BitVec 4) : Statement (.gath d a b h) := by
  refine roundTrip_via (0x91#8 ++ d ++ a ++ b ++ h ++ 0x0#5) rfl rfl fun iw hf => ?_
  obtain ⟨c0, h1, s0, e0, e1, e2, e3⟩ : fld iw 30 2 = 2 ∧ fld iw 24 8 = 0x91#8 ∧ fld iw 0 5 = 0#5 ∧ fld iw 19 5 = d ∧ fld iw 14 5 = a ∧ fld iw 9 5 = b ∧ fld iw 5 4 = h := by
    and_intros <;> simp (disch := decide) only [hf, ext_hi, ext_lo, ext_all, Nat.reduceSub] <;> rfl
  exact ⟨by rw [select_engine c0, selectEngine, h1, s0, e0, e1, e2, e3]; rfl, mask_none rfl⟩

theorem scat (d a b : BitVec 5) (h : BitVec 4) : Statement (.scat d a b h) := by
  refine roundTrip_via (0x92#8 ++ d ++ a ++ b ++ h ++ 0x0#5) rfl rfl fun iw hf => ?_
  obtain ⟨c0, h1, s0, e0, e1, e2, e3⟩ : fld iw 30 2 = 2 ∧ fld iw 24 8 = 0x92#8 ∧ fld iw 0 5 = 0#5 ∧ fld iw 19 5 = d ∧ fld iw 14 5 = a ∧ fld iw 9 5 = b ∧ fld iw 5 4 = h := by
    and_intros <;> simp (disch := decide) only [hf, ext_hi, ext_lo, ext_all, Nat.reduceSub] <;> rfl
  exact ⟨by rw [select_engine c0, selectEngine, h1, s0, e0, e1, e2, e3]; rfl, mask_none rfl⟩

theorem fill (d a b : BitVec 5) (h : BitVec 4) : Statement (.fill d a b h) := by
  refine roundTrip_via (0x93#8 ++ d ++ a ++ b ++ h ++ 0x0#5) rfl rfl fun iw hf => ?_
  obtain ⟨c0, h1, s0, e0, e1, e2, e3⟩ : fld iw 30 2 = 2 ∧ fld iw 24 8 = 0x93#8 ∧ fld iw 0 5 = 0#5 ∧ fld iw 19 5 = d ∧ fld iw 14 5 = a ∧ fld iw 9 5 = b ∧ fld iw 5 4 = h := by
    and_intros <;> simp (disch := decide) only [hf, ext_hi, ext_lo, ext_all, Nat.reduceSub] <;> rfl
  exact ⟨by rw [select_engine c0, selectEngine, h1, s0, e0, e1, e2, e3]; rfl, mask_none rfl⟩

theorem coll (d a b : BitVec 5) (h : BitVec 4) : Statement (.coll d a b h) := by
  refine roundTrip_via (0x94#8 ++ d ++ a ++ b ++ h ++ 0x0#5) rfl rfl fun iw hf => ?_
  obtain ⟨c0, h1, s0, e0, e1, e2, e3⟩ : fld iw 30 2 = 2 ∧ fld iw 24 8 = 0x94#8 ∧ fld iw 0 5 = 0#5 ∧ fld iw 19 5 = d ∧ fld iw 14 5 = a ∧ fld iw 9 5 = b ∧ fld iw 5 4 = h := by
    and_intros <;> simp (disch := decide) only [hf, ext_hi, ext_lo, ext_all, Nat.reduceSub] <;> rfl
  exact ⟨by rw [select_engine c0, selectEngine, h1, s0, e0, e1, e2, e3]; rfl, mask_none rfl⟩

theorem xwait (d a : BitVec 5) : Statement (.xwait d a) := by
  refine roundTrip_via (0x95#8 ++ d ++ a ++ 0x0#14) rfl rfl fun iw hf => ?_
  obtain ⟨c0, h1, s0, e0, e1, r0⟩ : fld iw 30 2 = 2 ∧ fld iw 24 8 = 0x95#8 ∧ fld iw 0 5 = 0#5 ∧ fld iw 19 5 = d ∧ fld iw 14 5 = a ∧ fld iw 5 9 = 0 := by
    and_intros <;> simp (disch := decide) only [hf, ext_hi, ext_lo, ext_all, Nat.reduceSub] <;> rfl
  exact ⟨by rw [select_engine c0, selectEngine, h1, s0, e0, e1]; rfl, mask_runs [(5, 9)] rfl (by simp [r0])⟩

theorem xwaitAll (d : BitVec 5) : Statement (.xwaitAll d) := by
  refine roundTrip_via (0x95#8 ++ d ++ 0x1#19) rfl rfl fun iw hf => ?_
  obtain ⟨c0, h1, s0, e0, r0⟩ : fld iw 30 2 = 2 ∧ fld iw 24 8 = 0x95#8 ∧ fld iw 0 5 = 1#5 ∧ fld iw 19 5 = d ∧ fld iw 5 14 = 0 := by
    and_intros <;> simp (disch := decide) only [hf, ext_hi, ext_lo, ext_all, Nat.reduceSub] <;> rfl
  exact ⟨by rw [select_engine c0, selectEngine, h1, s0, e0]; rfl, mask_runs [(5, 14)] rfl (by simp [r0])⟩

theorem xstat (d a : BitVec 5) : Statement (.xstat d a) := by
  refine roundTrip_via (0x96#8 ++ d ++ a ++ 0x0#14) rfl rfl fun iw hf => ?_
  obtain ⟨c0, h1, s0, e0, e1, r0⟩ : fld iw 30 2 = 2 ∧ fld iw 24 8 = 0x96#8 ∧ fld iw 0 5 = 0#5 ∧ fld iw 19 5 = d ∧ fld iw 14 5 = a ∧ fld iw 5 9 = 0 := by
    and_intros <;> simp (disch := decide) only [hf, ext_hi, ext_lo, ext_all, Nat.reduceSub] <;> rfl
  exact ⟨by rw [select_engine c0, selectEngine, h1, s0, e0, e1]; rfl, mask_runs [(5, 9)] rfl (by simp [r0])⟩

theorem mma (d : BitVec 3) (a b : BitVec 6) (h : BitVec 4) (w v u : BitVec 1) : Statement (.mma d a b h w v u) := by
  refine roundTrip_via (0x98#8 ++ d ++ a ++ b ++ h ++ 0x0#2 ++ w ++ v ++ u) rfl rfl fun iw hf => ?_
  obtain ⟨c0, h1, e0, e1, e2, e3, e4, e5, e6, r0⟩ : fld iw 30 2 = 2 ∧ fld iw 24 8 = 0x98#8 ∧ fld iw 21 3 = d ∧ fld iw 15 6 = a ∧ fld iw 9 6 = b ∧ fld iw 5 4 = h ∧ fld iw 2 1 = w ∧ fld iw 1 1 = v ∧ fld iw 0 1 = u ∧ fld iw 3 2 = 0 := by
    and_intros <;> simp (disch := decide) only [hf, ext_hi, ext_lo, ext_all, Nat.reduceSub] <;> rfl
  exact ⟨by rw [select_engine c0, selectEngine, h1, e0, e1, e2, e3, e4, e5, e6]; rfl, mask_runs [(3, 2)] rfl (by simp [r0])⟩

theorem mmaz (d : BitVec 3) (a b : BitVec 6) (h : BitVec 4) (w v u : BitVec 1) : Statement (.mmaz d a b h w v u) := by
  refine roundTrip_via (0x99#8 ++ d ++ a ++ b ++ h ++ 0x0#2 ++ w ++ v ++ u) rfl rfl fun iw hf => ?_
  obtain ⟨c0, h1, e0, e1, e2, e3, e4, e5, e6, r0⟩ : fld iw 30 2 = 2 ∧ fld iw 24 8 = 0x99#8 ∧ fld iw 21 3 = d ∧ fld iw 15 6 = a ∧ fld iw 9 6 = b ∧ fld iw 5 4 = h ∧ fld iw 2 1 = w ∧ fld iw 1 1 = v ∧ fld iw 0 1 = u ∧ fld iw 3 2 = 0 := by
    and_intros <;> simp (disch := decide) only [hf, ext_hi, ext_lo, ext_all, Nat.reduceSub] <;> rfl
  exact ⟨by rw [select_engine c0, selectEngine, h1, e0, e1, e2, e3, e4, e5, e6]; rfl, mask_runs [(3, 2)] rfl (by simp [r0])⟩

theorem mmas (d : BitVec 3) (a b : BitVec 6) (h : BitVec 4) (w v u : BitVec 1) : Statement (.mmas d a b h w v u) := by
  refine roundTrip_via (0x9A#8 ++ d ++ a ++ b ++ h ++ 0x0#2 ++ w ++ v ++ u) rfl rfl fun iw hf => ?_
  obtain ⟨c0, h1, e0, e1, e2, e3, e4, e5, e6, r0⟩ : fld iw 30 2 = 2 ∧ fld iw 24 8 = 0x9A#8 ∧ fld iw 21 3 = d ∧ fld iw 15 6 = a ∧ fld iw 9 6 = b ∧ fld iw 5 4 = h ∧ fld iw 2 1 = w ∧ fld iw 1 1 = v ∧ fld iw 0 1 = u ∧ fld iw 3 2 = 0 := by
    and_intros <;> simp (disch := decide) only [hf, ext_hi, ext_lo, ext_all, Nat.reduceSub] <;> rfl
  exact ⟨by rw [select_engine c0, selectEngine, h1, e0, e1, e2, e3, e4, e5, e6]; rfl, mask_runs [(3, 2)] rfl (by simp [r0])⟩

theorem azeroF32 (d : BitVec 3) : Statement (.azeroF32 d) := by
  refine roundTrip_via (0x9B#8 ++ d ++ 0x0#21) rfl rfl fun iw hf => ?_
  obtain ⟨c0, h1, s0, e0, r0⟩ : fld iw 30 2 = 2 ∧ fld iw 24 8 = 0x9B#8 ∧ fld iw 0 1 = 0#1 ∧ fld iw 21 3 = d ∧ fld iw 1 20 = 0 := by
    and_intros <;> simp (disch := decide) only [hf, ext_hi, ext_lo, ext_all, Nat.reduceSub] <;> rfl
  exact ⟨by rw [select_engine c0, selectEngine, h1, s0, e0]; rfl, mask_runs [(1, 20)] rfl (by simp [r0])⟩

theorem azeroI32 (d : BitVec 3) : Statement (.azeroI32 d) := by
  refine roundTrip_via (0x9B#8 ++ d ++ 0x1#21) rfl rfl fun iw hf => ?_
  obtain ⟨c0, h1, s0, e0, r0⟩ : fld iw 30 2 = 2 ∧ fld iw 24 8 = 0x9B#8 ∧ fld iw 0 1 = 1#1 ∧ fld iw 21 3 = d ∧ fld iw 1 20 = 0 := by
    and_intros <;> simp (disch := decide) only [hf, ext_hi, ext_lo, ext_all, Nat.reduceSub] <;> rfl
  exact ⟨by rw [select_engine c0, selectEngine, h1, s0, e0]; rfl, mask_runs [(1, 20)] rfl (by simp [r0])⟩

theorem ald (d : BitVec 3) (e a : BitVec 5) (t : BitVec 3) : Statement (.ald d e a t) := by
  refine roundTrip_via (0x9C#8 ++ d ++ e ++ 0x0#3 ++ a ++ 0x0#5 ++ t) rfl rfl fun iw hf => ?_
  obtain ⟨c0, h1, s0, e0, e1, e2, e3, r0, r1⟩ : fld iw 30 2 = 2 ∧ fld iw 24 8 = 0x9C#8 ∧ fld iw 3 1 = 0#1 ∧ fld iw 21 3 = d ∧ fld iw 16 5 = e ∧ fld iw 8 5 = a ∧ fld iw 0 3 = t ∧ fld iw 4 4 = 0 ∧ fld iw 13 3 = 0 := by
    and_intros <;> simp (disch := decide) only [hf, ext_hi, ext_lo, ext_all, Nat.reduceSub] <;> rfl
  exact ⟨by rw [select_engine c0, selectEngine, h1, s0, e0, e1, e2, e3]; rfl, mask_runs [(4, 4), (13, 3)] rfl (by simp [r0, r1])⟩

theorem aldV (d : BitVec 3) (v : BitVec 5) (t : BitVec 3) : Statement (.aldV d v t) := by
  refine roundTrip_via (0x9C#8 ++ d ++ 0x0#8 ++ v ++ 0x1#5 ++ t) rfl rfl fun iw hf => ?_
  obtain ⟨c0, h1, s0, e0, e1, e2, r0, r1⟩ : fld iw 30 2 = 2 ∧ fld iw 24 8 = 0x9C#8 ∧ fld iw 3 1 = 1#1 ∧ fld iw 21 3 = d ∧ fld iw 8 5 = v ∧ fld iw 0 3 = t ∧ fld iw 4 4 = 0 ∧ fld iw 13 8 = 0 := by
    and_intros <;> simp (disch := decide) only [hf, ext_hi, ext_lo, ext_all, Nat.reduceSub] <;> rfl
  exact ⟨by rw [select_engine c0, selectEngine, h1, s0, e0, e1, e2]; rfl, mask_runs [(4, 4), (13, 8)] rfl (by simp [r0, r1])⟩

theorem ast (e : BitVec 5) (c : BitVec 3) (a : BitVec 5) (x k : BitVec 1) (t : BitVec 3) : Statement (.ast e c a x k t) := by
  refine roundTrip_via (0x4E8#11 ++ e ++ c ++ a ++ 0x0#2 ++ x ++ k ++ 0x0#1 ++ t) rfl rfl fun iw hf => ?_
  obtain ⟨c0, h1, s0, e0, e1, e2, e3, e4, e5, r0, r1⟩ : fld iw 30 2 = 2 ∧ fld iw 24 8 = 0x9D#8 ∧ fld iw 3 1 = 0#1 ∧ fld iw 16 5 = e ∧ fld iw 13 3 = c ∧ fld iw 8 5 = a ∧ fld iw 5 1 = x ∧ fld iw 4 1 = k ∧ fld iw 0 3 = t ∧ fld iw 6 2 = 0 ∧ fld iw 21 3 = 0 := by
    and_intros <;> simp (disch := decide) only [hf, ext_hi, ext_lo, ext_all, Nat.reduceSub] <;> rfl
  exact ⟨by rw [select_engine c0, selectEngine, h1, s0, e0, e1, e2, e3, e4, e5]; rfl, mask_runs [(6, 2), (21, 3)] rfl (by simp [r0, r1])⟩

theorem astV (v : BitVec 5) (c : BitVec 3) (x : BitVec 1) (t : BitVec 3) : Statement (.astV v c x t) := by
  refine roundTrip_via (0x4E8#11 ++ v ++ c ++ 0x0#7 ++ x ++ 0x1#2 ++ t) rfl rfl fun iw hf => ?_
  obtain ⟨c0, h1, s0, e0, e1, e2, e3, r0, r1, r2⟩ : fld iw 30 2 = 2 ∧ fld iw 24 8 = 0x9D#8 ∧ fld iw 3 1 = 1#1 ∧ fld iw 16 5 = v ∧ fld iw 13 3 = c ∧ fld iw 5 1 = x ∧ fld iw 0 3 = t ∧ fld iw 4 1 = 0 ∧ fld iw 6 7 = 0 ∧ fld iw 21 3 = 0 := by
    and_intros <;> simp (disch := decide) only [hf, ext_hi, ext_lo, ext_all, Nat.reduceSub] <;> rfl
  exact ⟨by rw [select_engine c0, selectEngine, h1, s0, e0, e1, e2, e3]; rfl, mask_runs [(4, 1), (6, 7), (21, 3)] rfl (by simp [r0, r1, r2])⟩

theorem cbld (n : BitVec 2) (a : BitVec 5) : Statement (.cbld n a) := by
  refine roundTrip_via (0x4F0#11 ++ n ++ a ++ 0x0#14) rfl rfl fun iw hf => ?_
  obtain ⟨c0, h1, e0, e1, r0, r1⟩ : fld iw 30 2 = 2 ∧ fld iw 24 8 = 0x9E#8 ∧ fld iw 19 2 = n ∧ fld iw 14 5 = a ∧ fld iw 0 14 = 0 ∧ fld iw 21 3 = 0 := by
    and_intros <;> simp (disch := decide) only [hf, ext_hi, ext_lo, ext_all, Nat.reduceSub] <;> rfl
  exact ⟨by rw [select_engine c0, selectEngine, h1, e0, e1]; rfl, mask_runs [(0, 14), (21, 3)] rfl (by simp [r0, r1])⟩

theorem mcmd (a b : BitVec 5) (h : BitVec 4) : Statement (.mcmd a b h) := by
  refine roundTrip_via (0x13E0#13 ++ a ++ b ++ h ++ 0x0#5) rfl rfl fun iw hf => ?_
  obtain ⟨c0, h1, e0, e1, e2, r0, r1⟩ : fld iw 30 2 = 2 ∧ fld iw 24 8 = 0x9F#8 ∧ fld iw 14 5 = a ∧ fld iw 9 5 = b ∧ fld iw 5 4 = h ∧ fld iw 0 5 = 0 ∧ fld iw 19 5 = 0 := by
    and_intros <;> simp (disch := decide) only [hf, ext_hi, ext_lo, ext_all, Nat.reduceSub] <;> rfl
  exact ⟨by rw [select_engine c0, selectEngine, h1, e0, e1, e2]; rfl, mask_runs [(0, 5), (19, 5)] rfl (by simp [r0, r1])⟩

theorem cgemv (d a b : BitVec 5) (h : BitVec 4) : Statement (.cgemv d a b h) := by
  refine roundTrip_via (0xA0#8 ++ d ++ a ++ b ++ h ++ 0x0#5) rfl rfl fun iw hf => ?_
  obtain ⟨c0, h1, s0, e0, e1, e2, e3⟩ : fld iw 30 2 = 2 ∧ fld iw 24 8 = 0xA0#8 ∧ fld iw 0 5 = 0#5 ∧ fld iw 19 5 = d ∧ fld iw 14 5 = a ∧ fld iw 9 5 = b ∧ fld iw 5 4 = h := by
    and_intros <;> simp (disch := decide) only [hf, ext_hi, ext_lo, ext_all, Nat.reduceSub] <;> rfl
  exact ⟨by rw [select_engine c0, selectEngine, h1, s0, e0, e1, e2, e3]; rfl, mask_none rfl⟩

theorem gld (d a : BitVec 5) (y t : BitVec 1) : Statement (.gld d a y t) := by
  refine roundTrip_via (0xA4#8 ++ d ++ a ++ 0x0#9 ++ y ++ 0x0#3 ++ t) rfl rfl fun iw hf => ?_
  obtain ⟨c0, h1, e0, e1, e2, e3, r0, r1⟩ : fld iw 30 2 = 2 ∧ fld iw 24 8 = 0xA4#8 ∧ fld iw 19 5 = d ∧ fld iw 14 5 = a ∧ fld iw 4 1 = y ∧ fld iw 0 1 = t ∧ fld iw 1 3 = 0 ∧ fld iw 5 9 = 0 := by
    and_intros <;> simp (disch := decide) only [hf, ext_hi, ext_lo, ext_all, Nat.reduceSub] <;> rfl
  exact ⟨by rw [select_engine c0, selectEngine, h1, e0, e1, e2, e3]; rfl, mask_runs [(1, 3), (5, 9)] rfl (by simp [r0, r1])⟩

theorem gst (d a : BitVec 5) (y : BitVec 1) : Statement (.gst d a y) := by
  refine roundTrip_via (0xA5#8 ++ d ++ a ++ 0x0#9 ++ y ++ 0x0#4) rfl rfl fun iw hf => ?_
  obtain ⟨c0, h1, e0, e1, e2, r0, r1⟩ : fld iw 30 2 = 2 ∧ fld iw 24 8 = 0xA5#8 ∧ fld iw 19 5 = d ∧ fld iw 14 5 = a ∧ fld iw 4 1 = y ∧ fld iw 0 4 = 0 ∧ fld iw 5 9 = 0 := by
    and_intros <;> simp (disch := decide) only [hf, ext_hi, ext_lo, ext_all, Nat.reduceSub] <;> rfl
  exact ⟨by rw [select_engine c0, selectEngine, h1, e0, e1, e2]; rfl, mask_runs [(0, 4), (5, 9)] rfl (by simp [r0, r1])⟩

theorem gacc (d a b : BitVec 5) (h : BitVec 4) (y : BitVec 1) : Statement (.gacc d a b h y) := by
  refine roundTrip_via (0xA6#8 ++ d ++ a ++ b ++ h ++ y ++ 0x0#4) rfl rfl fun iw hf => ?_
  obtain ⟨c0, h1, e0, e1, e2, e3, e4, r0⟩ : fld iw 30 2 = 2 ∧ fld iw 24 8 = 0xA6#8 ∧ fld iw 19 5 = d ∧ fld iw 14 5 = a ∧ fld iw 9 5 = b ∧ fld iw 5 4 = h ∧ fld iw 4 1 = y ∧ fld iw 0 4 = 0 := by
    and_intros <;> simp (disch := decide) only [hf, ext_hi, ext_lo, ext_all, Nat.reduceSub] <;> rfl
  exact ⟨by rw [select_engine c0, selectEngine, h1, e0, e1, e2, e3, e4]; rfl, mask_runs [(0, 4)] rfl (by simp [r0])⟩

theorem gsub (d a b : BitVec 5) (h : BitVec 4) (y : BitVec 1) : Statement (.gsub d a b h y) := by
  refine roundTrip_via (0xA7#8 ++ d ++ a ++ b ++ h ++ y ++ 0x0#4) rfl rfl fun iw hf => ?_
  obtain ⟨c0, h1, e0, e1, e2, e3, e4, r0⟩ : fld iw 30 2 = 2 ∧ fld iw 24 8 = 0xA7#8 ∧ fld iw 19 5 = d ∧ fld iw 14 5 = a ∧ fld iw 9 5 = b ∧ fld iw 5 4 = h ∧ fld iw 4 1 = y ∧ fld iw 0 4 = 0 := by
    and_intros <;> simp (disch := decide) only [hf, ext_hi, ext_lo, ext_all, Nat.reduceSub] <;> rfl
  exact ⟨by rw [select_engine c0, selectEngine, h1, e0, e1, e2, e3, e4]; rfl, mask_runs [(0, 4)] rfl (by simp [r0])⟩

theorem gschur (d a : BitVec 5) (h : BitVec 4) (y : BitVec 1) : Statement (.gschur d a h y) := by
  refine roundTrip_via (0xA8#8 ++ d ++ a ++ 0x0#5 ++ h ++ y ++ 0x0#4) rfl rfl fun iw hf => ?_
  obtain ⟨c0, h1, e0, e1, e2, e3, r0, r1⟩ : fld iw 30 2 = 2 ∧ fld iw 24 8 = 0xA8#8 ∧ fld iw 19 5 = d ∧ fld iw 14 5 = a ∧ fld iw 5 4 = h ∧ fld iw 4 1 = y ∧ fld iw 0 4 = 0 ∧ fld iw 9 5 = 0 := by
    and_intros <;> simp (disch := decide) only [hf, ext_hi, ext_lo, ext_all, Nat.reduceSub] <;> rfl
  exact ⟨by rw [select_engine c0, selectEngine, h1, e0, e1, e2, e3]; rfl, mask_runs [(0, 4), (9, 5)] rfl (by simp [r0, r1])⟩

theorem gdamp (d a b : BitVec 5) (y : BitVec 1) : Statement (.gdamp d a b y) := by
  refine roundTrip_via (0xA9#8 ++ d ++ a ++ b ++ 0x0#4 ++ y ++ 0x0#4) rfl rfl fun iw hf => ?_
  obtain ⟨c0, h1, e0, e1, e2, e3, r0, r1⟩ : fld iw 30 2 = 2 ∧ fld iw 24 8 = 0xA9#8 ∧ fld iw 19 5 = d ∧ fld iw 14 5 = a ∧ fld iw 9 5 = b ∧ fld iw 4 1 = y ∧ fld iw 0 4 = 0 ∧ fld iw 5 4 = 0 := by
    and_intros <;> simp (disch := decide) only [hf, ext_hi, ext_lo, ext_all, Nat.reduceSub] <;> rfl
  exact ⟨by rw [select_engine c0, selectEngine, h1, e0, e1, e2, e3]; rfl, mask_runs [(0, 4), (5, 4)] rfl (by simp [r0, r1])⟩

theorem gsolve (d a : BitVec 5) (y : BitVec 1) : Statement (.gsolve d a y) := by
  refine roundTrip_via (0xAA#8 ++ d ++ a ++ 0x0#9 ++ y ++ 0x0#4) rfl rfl fun iw hf => ?_
  obtain ⟨c0, h1, e0, e1, e2, r0, r1⟩ : fld iw 30 2 = 2 ∧ fld iw 24 8 = 0xAA#8 ∧ fld iw 19 5 = d ∧ fld iw 14 5 = a ∧ fld iw 4 1 = y ∧ fld iw 0 4 = 0 ∧ fld iw 5 9 = 0 := by
    and_intros <;> simp (disch := decide) only [hf, ext_hi, ext_lo, ext_all, Nat.reduceSub] <;> rfl
  exact ⟨by rw [select_engine c0, selectEngine, h1, e0, e1, e2]; rfl, mask_runs [(0, 4), (5, 9)] rfl (by simp [r0, r1])⟩

theorem gresid (d a b : BitVec 5) (y : BitVec 1) : Statement (.gresid d a b y) := by
  refine roundTrip_via (0xAB#8 ++ d ++ a ++ b ++ 0x0#4 ++ y ++ 0x0#4) rfl rfl fun iw hf => ?_
  obtain ⟨c0, h1, e0, e1, e2, e3, r0, r1⟩ : fld iw 30 2 = 2 ∧ fld iw 24 8 = 0xAB#8 ∧ fld iw 19 5 = d ∧ fld iw 14 5 = a ∧ fld iw 9 5 = b ∧ fld iw 4 1 = y ∧ fld iw 0 4 = 0 ∧ fld iw 5 4 = 0 := by
    and_intros <;> simp (disch := decide) only [hf, ext_hi, ext_lo, ext_all, Nat.reduceSub] <;> rfl
  exact ⟨by rw [select_engine c0, selectEngine, h1, e0, e1, e2, e3]; rfl, mask_runs [(0, 4), (5, 4)] rfl (by simp [r0, r1])⟩

theorem gsend (d a b : BitVec 5) (y r : BitVec 1) : Statement (.gsend d a b y r) := by
  refine roundTrip_via (0xAC#8 ++ d ++ a ++ b ++ 0x0#4 ++ y ++ 0x0#3 ++ r) rfl rfl fun iw hf => ?_
  obtain ⟨c0, h1, e0, e1, e2, e3, e4, r0, r1⟩ : fld iw 30 2 = 2 ∧ fld iw 24 8 = 0xAC#8 ∧ fld iw 19 5 = d ∧ fld iw 14 5 = a ∧ fld iw 9 5 = b ∧ fld iw 4 1 = y ∧ fld iw 0 1 = r ∧ fld iw 1 3 = 0 ∧ fld iw 5 4 = 0 := by
    and_intros <;> simp (disch := decide) only [hf, ext_hi, ext_lo, ext_all, Nat.reduceSub] <;> rfl
  exact ⟨by rw [select_engine c0, selectEngine, h1, e0, e1, e2, e3, e4]; rfl, mask_runs [(1, 3), (5, 4)] rfl (by simp [r0, r1])⟩

theorem snap (d a b : BitVec 5) : Statement (.snap d a b) := by
  refine roundTrip_via (0xB0#8 ++ d ++ a ++ b ++ 0x0#9) rfl rfl fun iw hf => ?_
  obtain ⟨c0, h1, s0, e0, e1, e2, r0⟩ : fld iw 30 2 = 2 ∧ fld iw 24 8 = 0xB0#8 ∧ fld iw 0 5 = 0#5 ∧ fld iw 19 5 = d ∧ fld iw 14 5 = a ∧ fld iw 9 5 = b ∧ fld iw 5 4 = 0 := by
    and_intros <;> simp (disch := decide) only [hf, ext_hi, ext_lo, ext_all, Nat.reduceSub] <;> rfl
  exact ⟨by rw [select_engine c0, selectEngine, h1, s0, e0, e1, e2]; rfl, mask_runs [(5, 4)] rfl (by simp [r0])⟩

theorem snapOpen (d a : BitVec 5) : Statement (.snapOpen d a) := by
  refine roundTrip_via (0xB0#8 ++ d ++ a ++ 0x1#14) rfl rfl fun iw hf => ?_
  obtain ⟨c0, h1, s0, e0, e1, r0⟩ : fld iw 30 2 = 2 ∧ fld iw 24 8 = 0xB0#8 ∧ fld iw 0 5 = 1#5 ∧ fld iw 19 5 = d ∧ fld iw 14 5 = a ∧ fld iw 5 9 = 0 := by
    and_intros <;> simp (disch := decide) only [hf, ext_hi, ext_lo, ext_all, Nat.reduceSub] <;> rfl
  exact ⟨by rw [select_engine c0, selectEngine, h1, s0, e0, e1]; rfl, mask_runs [(5, 9)] rfl (by simp [r0])⟩

theorem snapJoin (a : BitVec 5) : Statement (.snapJoin a) := by
  refine roundTrip_via (0x1600#13 ++ a ++ 0x2#14) rfl rfl fun iw hf => ?_
  obtain ⟨c0, h1, s0, e0, r0, r1⟩ : fld iw 30 2 = 2 ∧ fld iw 24 8 = 0xB0#8 ∧ fld iw 0 5 = 2#5 ∧ fld iw 14 5 = a ∧ fld iw 5 9 = 0 ∧ fld iw 19 5 = 0 := by
    and_intros <;> simp (disch := decide) only [hf, ext_hi, ext_lo, ext_all, Nat.reduceSub] <;> rfl
  exact ⟨by rw [select_engine c0, selectEngine, h1, s0, e0]; rfl, mask_runs [(5, 9), (19, 5)] rfl (by simp [r0, r1])⟩

theorem snapFin (a : BitVec 5) : Statement (.snapFin a) := by
  refine roundTrip_via (0x1600#13 ++ a ++ 0x3#14) rfl rfl fun iw hf => ?_
  obtain ⟨c0, h1, s0, e0, r0, r1⟩ : fld iw 30 2 = 2 ∧ fld iw 24 8 = 0xB0#8 ∧ fld iw 0 5 = 3#5 ∧ fld iw 14 5 = a ∧ fld iw 5 9 = 0 ∧ fld iw 19 5 = 0 := by
    and_intros <;> simp (disch := decide) only [hf, ext_hi, ext_lo, ext_all, Nat.reduceSub] <;> rfl
  exact ⟨by rw [select_engine c0, selectEngine, h1, s0, e0]; rfl, mask_runs [(5, 9), (19, 5)] rfl (by simp [r0, r1])⟩

theorem scommit (d a b : BitVec 5) : Statement (.scommit d a b) := by
  refine roundTrip_via (0xB1#8 ++ d ++ a ++ b ++ 0x0#9) rfl rfl fun iw hf => ?_
  obtain ⟨c0, h1, s0, e0, e1, e2, r0⟩ : fld iw 30 2 = 2 ∧ fld iw 24 8 = 0xB1#8 ∧ fld iw 0 5 = 0#5 ∧ fld iw 19 5 = d ∧ fld iw 14 5 = a ∧ fld iw 9 5 = b ∧ fld iw 5 4 = 0 := by
    and_intros <;> simp (disch := decide) only [hf, ext_hi, ext_lo, ext_all, Nat.reduceSub] <;> rfl
  exact ⟨by rw [select_engine c0, selectEngine, h1, s0, e0, e1, e2]; rfl, mask_runs [(5, 4)] rfl (by simp [r0])⟩

theorem sabort (a : BitVec 5) : Statement (.sabort a) := by
  refine roundTrip_via (0x1640#13 ++ a ++ 0x0#14) rfl rfl fun iw hf => ?_
  obtain ⟨c0, h1, s0, e0, r0, r1⟩ : fld iw 30 2 = 2 ∧ fld iw 24 8 = 0xB2#8 ∧ fld iw 0 5 = 0#5 ∧ fld iw 14 5 = a ∧ fld iw 5 9 = 0 ∧ fld iw 19 5 = 0 := by
    and_intros <;> simp (disch := decide) only [hf, ext_hi, ext_lo, ext_all, Nat.reduceSub] <;> rfl
  exact ⟨by rw [select_engine c0, selectEngine, h1, s0, e0]; rfl, mask_runs [(5, 9), (19, 5)] rfl (by simp [r0, r1])⟩

theorem spawn (d a b : BitVec 5) : Statement (.spawn d a b) := by
  refine roundTrip_via (0xC0#8 ++ d ++ a ++ b ++ 0x0#9) rfl rfl fun iw hf => ?_
  obtain ⟨c0, h1, e0, e1, e2, r0⟩ : fld iw 30 2 = 3 ∧ fld iw 24 8 = 0xC0#8 ∧ fld iw 19 5 = d ∧ fld iw 14 5 = a ∧ fld iw 9 5 = b ∧ fld iw 0 9 = 0 := by
    and_intros <;> simp (disch := decide) only [hf, ext_hi, ext_lo, ext_all, Nat.reduceSub] <;> rfl
  exact ⟨by rw [select_control c0, selectControl, h1, e0, e1, e2]; rfl, mask_runs [(0, 9)] rfl (by simp [r0])⟩

theorem halt : Statement (.halt) := by
  refine roundTrip_via (0xC1000000#32) rfl rfl fun iw hf => ?_
  obtain ⟨c0, h1, s0, r0⟩ : fld iw 30 2 = 3 ∧ fld iw 24 8 = 0xC1#8 ∧ fld iw 0 9 = 0#9 ∧ fld iw 9 15 = 0 := by
    and_intros <;> simp (disch := decide) only [hf, ext_hi, ext_lo, ext_all, Nat.reduceSub] <;> rfl
  exact ⟨by rw [select_control c0, selectControl, h1, s0]; rfl, mask_runs [(9, 15)] rfl (by simp [r0])⟩

theorem haltS (a b : BitVec 5) : Statement (.haltS a b) := by
  refine roundTrip_via (0x1820#13 ++ a ++ b ++ 0x1#9) rfl rfl fun iw hf => ?_
  obtain ⟨c0, h1, s0, e0, e1, r0⟩ : fld iw 30 2 = 3 ∧ fld iw 24 8 = 0xC1#8 ∧ fld iw 0 9 = 1#9 ∧ fld iw 14 5 = a ∧ fld iw 9 5 = b ∧ fld iw 19 5 = 0 := by
    and_intros <;> simp (disch := decide) only [hf, ext_hi, ext_lo, ext_all, Nat.reduceSub] <;> rfl
  exact ⟨by rw [select_control c0, selectControl, h1, s0, e0, e1]; rfl, mask_runs [(19, 5)] rfl (by simp [r0])⟩

theorem yield : Statement (.yield) := by
  refine roundTrip_via (0xC2000000#32) rfl rfl fun iw hf => ?_
  obtain ⟨c0, h1, r0⟩ : fld iw 30 2 = 3 ∧ fld iw 24 8 = 0xC2#8 ∧ fld iw 0 24 = 0 := by
    and_intros <;> simp (disch := decide) only [hf, ext_hi, ext_lo, ext_all, Nat.reduceSub] <;> rfl
  exact ⟨by rw [select_control c0, selectControl, h1]; rfl, mask_runs [(0, 24)] rfl (by simp [r0])⟩

theorem join (d a : BitVec 5) : Statement (.join d a) := by
  refine roundTrip_via (0xC3#8 ++ d ++ a ++ 0x0#14) rfl rfl fun iw hf => ?_
  obtain ⟨c0, h1, e0, e1, r0⟩ : fld iw 30 2 = 3 ∧ fld iw 24 8 = 0xC3#8 ∧ fld iw 19 5 = d ∧ fld iw 14 5 = a ∧ fld iw 0 14 = 0 := by
    and_intros <;> simp (disch := decide) only [hf, ext_hi, ext_lo, ext_all, Nat.reduceSub] <;> rfl
  exact ⟨by rw [select_control c0, selectControl, h1, e0, e1]; rfl, mask_runs [(0, 14)] rfl (by simp [r0])⟩

theorem leave (d : BitVec 5) : Statement (.leave d) := by
  refine roundTrip_via (0xC4#8 ++ d ++ 0x0#19) rfl rfl fun iw hf => ?_
  obtain ⟨c0, h1, e0, r0⟩ : fld iw 30 2 = 3 ∧ fld iw 24 8 = 0xC4#8 ∧ fld iw 19 5 = d ∧ fld iw 0 19 = 0 := by
    and_intros <;> simp (disch := decide) only [hf, ext_hi, ext_lo, ext_all, Nat.reduceSub] <;> rfl
  exact ⟨by rw [select_control c0, selectControl, h1, e0]; rfl, mask_runs [(0, 19)] rfl (by simp [r0])⟩

theorem barset (d a : BitVec 5) (n : BitVec 3) : Statement (.barset d a n) := by
  refine roundTrip_via (0xC5#8 ++ d ++ a ++ 0x0#11 ++ n) rfl rfl fun iw hf => ?_
  obtain ⟨c0, h1, e0, e1, e2, r0⟩ : fld iw 30 2 = 3 ∧ fld iw 24 8 = 0xC5#8 ∧ fld iw 19 5 = d ∧ fld iw 14 5 = a ∧ fld iw 0 3 = n ∧ fld iw 3 11 = 0 := by
    and_intros <;> simp (disch := decide) only [hf, ext_hi, ext_lo, ext_all, Nat.reduceSub] <;> rfl
  exact ⟨by rw [select_control c0, selectControl, h1, e0, e1, e2]; rfl, mask_runs [(3, 11)] rfl (by simp [r0])⟩

theorem bararr (d : BitVec 5) (n : BitVec 3) : Statement (.bararr d n) := by
  refine roundTrip_via (0xC6#8 ++ d ++ 0x0#16 ++ n) rfl rfl fun iw hf => ?_
  obtain ⟨c0, h1, e0, e1, r0⟩ : fld iw 30 2 = 3 ∧ fld iw 24 8 = 0xC6#8 ∧ fld iw 19 5 = d ∧ fld iw 0 3 = n ∧ fld iw 3 16 = 0 := by
    and_intros <;> simp (disch := decide) only [hf, ext_hi, ext_lo, ext_all, Nat.reduceSub] <;> rfl
  exact ⟨by rw [select_control c0, selectControl, h1, e0, e1]; rfl, mask_runs [(3, 16)] rfl (by simp [r0])⟩

theorem barwt (d a : BitVec 5) (n : BitVec 3) : Statement (.barwt d a n) := by
  refine roundTrip_via (0xC7#8 ++ d ++ a ++ 0x0#11 ++ n) rfl rfl fun iw hf => ?_
  obtain ⟨c0, h1, e0, e1, e2, r0⟩ : fld iw 30 2 = 3 ∧ fld iw 24 8 = 0xC7#8 ∧ fld iw 19 5 = d ∧ fld iw 14 5 = a ∧ fld iw 0 3 = n ∧ fld iw 3 11 = 0 := by
    and_intros <;> simp (disch := decide) only [hf, ext_hi, ext_lo, ext_all, Nat.reduceSub] <;> rfl
  exact ⟨by rw [select_control c0, selectControl, h1, e0, e1, e2]; rfl, mask_runs [(3, 11)] rfl (by simp [r0])⟩

theorem barsync (d : BitVec 5) (n : BitVec 3) : Statement (.barsync d n) := by
  refine roundTrip_via (0xC8#8 ++ d ++ 0x0#16 ++ n) rfl rfl fun iw hf => ?_
  obtain ⟨c0, h1, e0, e1, r0⟩ : fld iw 30 2 = 3 ∧ fld iw 24 8 = 0xC8#8 ∧ fld iw 19 5 = d ∧ fld iw 0 3 = n ∧ fld iw 3 16 = 0 := by
    and_intros <;> simp (disch := decide) only [hf, ext_hi, ext_lo, ext_all, Nat.reduceSub] <;> rfl
  exact ⟨by rw [select_control c0, selectControl, h1, e0, e1]; rfl, mask_runs [(3, 16)] rfl (by simp [r0])⟩

theorem waitm (d a : BitVec 5) : Statement (.waitm d a) := by
  refine roundTrip_via (0xC9#8 ++ d ++ a ++ 0x0#14) rfl rfl fun iw hf => ?_
  obtain ⟨c0, h1, e0, e1, r0⟩ : fld iw 30 2 = 3 ∧ fld iw 24 8 = 0xC9#8 ∧ fld iw 19 5 = d ∧ fld iw 14 5 = a ∧ fld iw 0 14 = 0 := by
    and_intros <;> simp (disch := decide) only [hf, ext_hi, ext_lo, ext_all, Nat.reduceSub] <;> rfl
  exact ⟨by rw [select_control c0, selectControl, h1, e0, e1]; rfl, mask_runs [(0, 14)] rfl (by simp [r0])⟩

theorem send (d a : BitVec 5) (c : BitVec 2) : Statement (.send d a c) := by
  refine roundTrip_via (0xCA#8 ++ d ++ a ++ 0x0#12 ++ c) rfl rfl fun iw hf => ?_
  obtain ⟨c0, h1, e0, e1, e2, r0⟩ : fld iw 30 2 = 3 ∧ fld iw 24 8 = 0xCA#8 ∧ fld iw 19 5 = d ∧ fld iw 14 5 = a ∧ fld iw 0 2 = c ∧ fld iw 2 12 = 0 := by
    and_intros <;> simp (disch := decide) only [hf, ext_hi, ext_lo, ext_all, Nat.reduceSub] <;> rfl
  exact ⟨by rw [select_control c0, selectControl, h1, e0, e1, e2]; rfl, mask_runs [(2, 12)] rfl (by simp [r0])⟩

theorem sendw (d a : BitVec 5) (c : BitVec 2) : Statement (.sendw d a c) := by
  refine roundTrip_via (0xCB#8 ++ d ++ a ++ 0x0#12 ++ c) rfl rfl fun iw hf => ?_
  obtain ⟨c0, h1, e0, e1, e2, r0⟩ : fld iw 30 2 = 3 ∧ fld iw 24 8 = 0xCB#8 ∧ fld iw 19 5 = d ∧ fld iw 14 5 = a ∧ fld iw 0 2 = c ∧ fld iw 2 12 = 0 := by
    and_intros <;> simp (disch := decide) only [hf, ext_hi, ext_lo, ext_all, Nat.reduceSub] <;> rfl
  exact ⟨by rw [select_control c0, selectControl, h1, e0, e1, e2]; rfl, mask_runs [(2, 12)] rfl (by simp [r0])⟩

theorem capmk (d a : BitVec 5) : Statement (.capmk d a) := by
  refine roundTrip_via (0xCC#8 ++ d ++ a ++ 0x0#14) rfl rfl fun iw hf => ?_
  obtain ⟨c0, h1, s0, e0, e1, r0⟩ : fld iw 30 2 = 3 ∧ fld iw 24 8 = 0xCC#8 ∧ fld iw 0 9 = 0#9 ∧ fld iw 19 5 = d ∧ fld iw 14 5 = a ∧ fld iw 9 5 = 0 := by
    and_intros <;> simp (disch := decide) only [hf, ext_hi, ext_lo, ext_all, Nat.reduceSub] <;> rfl
  exact ⟨by rw [select_control c0, selectControl, h1, s0, e0, e1]; rfl, mask_runs [(9, 5)] rfl (by simp [r0])⟩

theorem capmkDv (d a b : BitVec 5) : Statement (.capmkDv d a b) := by
  refine roundTrip_via (0xCC#8 ++ d ++ a ++ b ++ 0x1#9) rfl rfl fun iw hf => ?_
  obtain ⟨c0, h1, s0, e0, e1, e2⟩ : fld iw 30 2 = 3 ∧ fld iw 24 8 = 0xCC#8 ∧ fld iw 0 9 = 1#9 ∧ fld iw 19 5 = d ∧ fld iw 14 5 = a ∧ fld iw 9 5 = b := by
    and_intros <;> simp (disch := decide) only [hf, ext_hi, ext_lo, ext_all, Nat.reduceSub] <;> rfl
  exact ⟨by rw [select_control c0, selectControl, h1, s0, e0, e1, e2]; rfl, mask_none rfl⟩

theorem caprv (d a : BitVec 5) : Statement (.caprv d a) := by
  refine roundTrip_via (0xCD#8 ++ d ++ a ++ 0x0#14) rfl rfl fun iw hf => ?_
  obtain ⟨c0, h1, s0, e0, e1, r0⟩ : fld iw 30 2 = 3 ∧ fld iw 24 8 = 0xCD#8 ∧ fld iw 0 9 = 0#9 ∧ fld iw 19 5 = d ∧ fld iw 14 5 = a ∧ fld iw 9 5 = 0 := by
    and_intros <;> simp (disch := decide) only [hf, ext_hi, ext_lo, ext_all, Nat.reduceSub] <;> rfl
  exact ⟨by rw [select_control c0, selectControl, h1, s0, e0, e1]; rfl, mask_runs [(9, 5)] rfl (by simp [r0])⟩

theorem fwd (a : BitVec 5) : Statement (.fwd a) := by
  refine roundTrip_via (0x19C0#13 ++ a ++ 0x0#14) rfl rfl fun iw hf => ?_
  obtain ⟨c0, h1, e0, r0, r1⟩ : fld iw 30 2 = 3 ∧ fld iw 24 8 = 0xCE#8 ∧ fld iw 14 5 = a ∧ fld iw 0 14 = 0 ∧ fld iw 19 5 = 0 := by
    and_intros <;> simp (disch := decide) only [hf, ext_hi, ext_lo, ext_all, Nat.reduceSub] <;> rfl
  exact ⟨by rw [select_control c0, selectControl, h1, e0]; rfl, mask_runs [(0, 14), (19, 5)] rfl (by simp [r0, r1])⟩

theorem expect (d : BitVec 5) (c : BitVec 2) : Statement (.expect d c) := by
  refine roundTrip_via (0xCF#8 ++ d ++ 0x0#17 ++ c) rfl rfl fun iw hf => ?_
  obtain ⟨c0, h1, e0, e1, r0⟩ : fld iw 30 2 = 3 ∧ fld iw 24 8 = 0xCF#8 ∧ fld iw 19 5 = d ∧ fld iw 0 2 = c ∧ fld iw 2 17 = 0 := by
    and_intros <;> simp (disch := decide) only [hf, ext_hi, ext_lo, ext_all, Nat.reduceSub] <;> rfl
  exact ⟨by rw [select_control c0, selectControl, h1, e0, e1]; rfl, mask_runs [(2, 17)] rfl (by simp [r0])⟩

theorem dcnt (d a b : BitVec 5) : Statement (.dcnt d a b) := by
  refine roundTrip_via (0xD0#8 ++ d ++ a ++ b ++ 0x0#9) rfl rfl fun iw hf => ?_
  obtain ⟨c0, h1, e0, e1, e2, r0⟩ : fld iw 30 2 = 3 ∧ fld iw 24 8 = 0xD0#8 ∧ fld iw 19 5 = d ∧ fld iw 14 5 = a ∧ fld iw 9 5 = b ∧ fld iw 0 9 = 0 := by
    and_intros <;> simp (disch := decide) only [hf, ext_hi, ext_lo, ext_all, Nat.reduceSub] <;> rfl
  exact ⟨by rw [select_control c0, selectControl, h1, e0, e1, e2]; rfl, mask_runs [(0, 9)] rfl (by simp [r0])⟩

theorem taskq (a b : BitVec 5) (m : BitVec 1) : Statement (.taskq a b m) := by
  refine roundTrip_via (0x1A20#13 ++ a ++ b ++ 0x0#6 ++ m ++ 0x0#2) rfl rfl fun iw hf => ?_
  obtain ⟨c0, h1, s0, e0, e1, e2, r0, r1⟩ : fld iw 30 2 = 3 ∧ fld iw 24 8 = 0xD1#8 ∧ fld iw 0 2 = 0#2 ∧ fld iw 14 5 = a ∧ fld iw 9 5 = b ∧ fld iw 2 1 = m ∧ fld iw 3 6 = 0 ∧ fld iw 19 5 = 0 := by
    and_intros <;> simp (disch := decide) only [hf, ext_hi, ext_lo, ext_all, Nat.reduceSub] <;> rfl
  exact ⟨by rw [select_control c0, selectControl, h1, s0, e0, e1, e2]; rfl, mask_runs [(3, 6), (19, 5)] rfl (by simp [r0, r1])⟩

theorem taskqCap (a b : BitVec 5) (m : BitVec 1) : Statement (.taskqCap a b m) := by
  refine roundTrip_via (0x1A20#13 ++ a ++ b ++ 0x0#6 ++ m ++ 0x1#2) rfl rfl fun iw hf => ?_
  obtain ⟨c0, h1, s0, e0, e1, e2, r0, r1⟩ : fld iw 30 2 = 3 ∧ fld iw 24 8 = 0xD1#8 ∧ fld iw 0 2 = 1#2 ∧ fld iw 14 5 = a ∧ fld iw 9 5 = b ∧ fld iw 2 1 = m ∧ fld iw 3 6 = 0 ∧ fld iw 19 5 = 0 := by
    and_intros <;> simp (disch := decide) only [hf, ext_hi, ext_lo, ext_all, Nat.reduceSub] <;> rfl
  exact ⟨by rw [select_control c0, selectControl, h1, s0, e0, e1, e2]; rfl, mask_runs [(3, 6), (19, 5)] rfl (by simp [r0, r1])⟩

theorem taskqOwn (a b : BitVec 5) : Statement (.taskqOwn a b) := by
  refine roundTrip_via (0x1A20#13 ++ a ++ b ++ 0x2#9) rfl rfl fun iw hf => ?_
  obtain ⟨c0, h1, s0, e0, e1, r0, r1⟩ : fld iw 30 2 = 3 ∧ fld iw 24 8 = 0xD1#8 ∧ fld iw 0 2 = 2#2 ∧ fld iw 14 5 = a ∧ fld iw 9 5 = b ∧ fld iw 2 7 = 0 ∧ fld iw 19 5 = 0 := by
    and_intros <;> simp (disch := decide) only [hf, ext_hi, ext_lo, ext_all, Nat.reduceSub] <;> rfl
  exact ⟨by rw [select_control c0, selectControl, h1, s0, e0, e1]; rfl, mask_runs [(2, 7), (19, 5)] rfl (by simp [r0, r1])⟩

theorem taskend (a : BitVec 5) : Statement (.taskend a) := by
  refine roundTrip_via (0x1A40#13 ++ a ++ 0x0#14) rfl rfl fun iw hf => ?_
  obtain ⟨c0, h1, e0, r0, r1⟩ : fld iw 30 2 = 3 ∧ fld iw 24 8 = 0xD2#8 ∧ fld iw 14 5 = a ∧ fld iw 0 14 = 0 ∧ fld iw 19 5 = 0 := by
    and_intros <;> simp (disch := decide) only [hf, ext_hi, ext_lo, ext_all, Nat.reduceSub] <;> rfl
  exact ⟨by rw [select_control c0, selectControl, h1, e0]; rfl, mask_runs [(0, 14), (19, 5)] rfl (by simp [r0, r1])⟩

theorem opcall (d a : BitVec 5) (o : BitVec 14) : Statement (.opcall d a o) := by
  refine roundTrip_via (0xD3#8 ++ d ++ a ++ o) rfl rfl fun iw hf => ?_
  obtain ⟨c0, h1, e0, e1, e2⟩ : fld iw 30 2 = 3 ∧ fld iw 24 8 = 0xD3#8 ∧ fld iw 19 5 = d ∧ fld iw 14 5 = a ∧ fld iw 0 14 = o := by
    and_intros <;> simp (disch := decide) only [hf, ext_hi, ext_lo, ext_all, Nat.reduceSub] <;> rfl
  exact ⟨by rw [select_control c0, selectControl, h1, e0, e1, e2]; rfl, mask_none rfl⟩

theorem wfe (d a : BitVec 5) : Statement (.wfe d a) := by
  refine roundTrip_via (0xD4#8 ++ d ++ a ++ 0x0#14) rfl rfl fun iw hf => ?_
  obtain ⟨c0, h1, e0, e1, r0⟩ : fld iw 30 2 = 3 ∧ fld iw 24 8 = 0xD4#8 ∧ fld iw 19 5 = d ∧ fld iw 14 5 = a ∧ fld iw 0 14 = 0 := by
    and_intros <;> simp (disch := decide) only [hf, ext_hi, ext_lo, ext_all, Nat.reduceSub] <;> rfl
  exact ⟨by rw [select_control c0, selectControl, h1, e0, e1]; rfl, mask_runs [(0, 14)] rfl (by simp [r0])⟩

theorem trap (a n : BitVec 5) : Statement (.trap a n) := by
  refine roundTrip_via (0x1B00#13 ++ a ++ 0x0#9 ++ n) rfl rfl fun iw hf => ?_
  obtain ⟨c0, h1, e0, e1, r0, r1⟩ : fld iw 30 2 = 3 ∧ fld iw 24 8 = 0xD8#8 ∧ fld iw 14 5 = a ∧ fld iw 0 5 = n ∧ fld iw 5 9 = 0 ∧ fld iw 19 5 = 0 := by
    and_intros <;> simp (disch := decide) only [hf, ext_hi, ext_lo, ext_all, Nat.reduceSub] <;> rfl
  exact ⟨by rw [select_control c0, selectControl, h1, e0, e1]; rfl, mask_runs [(5, 9), (19, 5)] rfl (by simp [r0, r1])⟩

theorem eret : Statement (.eret) := by
  refine roundTrip_via (0xD9000000#32) rfl rfl fun iw hf => ?_
  obtain ⟨c0, h1, r0⟩ : fld iw 30 2 = 3 ∧ fld iw 24 8 = 0xD9#8 ∧ fld iw 0 24 = 0 := by
    and_intros <;> simp (disch := decide) only [hf, ext_hi, ext_lo, ext_all, Nat.reduceSub] <;> rfl
  exact ⟨by rw [select_control c0, selectControl, h1]; rfl, mask_runs [(0, 24)] rfl (by simp [r0])⟩

theorem ckpt (d a : BitVec 5) (f : BitVec 1) : Statement (.ckpt d a f) := by
  refine roundTrip_via (0xDA#8 ++ d ++ a ++ 0x0#13 ++ f) rfl rfl fun iw hf => ?_
  obtain ⟨c0, h1, e0, e1, e2, r0⟩ : fld iw 30 2 = 3 ∧ fld iw 24 8 = 0xDA#8 ∧ fld iw 19 5 = d ∧ fld iw 14 5 = a ∧ fld iw 0 1 = f ∧ fld iw 1 13 = 0 := by
    and_intros <;> simp (disch := decide) only [hf, ext_hi, ext_lo, ext_all, Nat.reduceSub] <;> rfl
  exact ⟨by rw [select_control c0, selectControl, h1, e0, e1, e2]; rfl, mask_runs [(1, 13)] rfl (by simp [r0])⟩

theorem step (d : BitVec 5) (n : BitVec 14) : Statement (.step d n) := by
  refine roundTrip_via (0xDB#8 ++ d ++ 0x0#5 ++ n) rfl rfl fun iw hf => ?_
  obtain ⟨c0, h1, e0, e1, r0⟩ : fld iw 30 2 = 3 ∧ fld iw 24 8 = 0xDB#8 ∧ fld iw 19 5 = d ∧ fld iw 0 14 = n ∧ fld iw 14 5 = 0 := by
    and_intros <;> simp (disch := decide) only [hf, ext_hi, ext_lo, ext_all, Nat.reduceSub] <;> rfl
  exact ⟨by rw [select_control c0, selectControl, h1, e0, e1]; rfl, mask_runs [(14, 5)] rfl (by simp [r0])⟩

theorem migpt (d : BitVec 5) : Statement (.migpt d) := by
  refine roundTrip_via (0xDC#8 ++ d ++ 0x0#19) rfl rfl fun iw hf => ?_
  obtain ⟨c0, h1, s0, e0, r0⟩ : fld iw 30 2 = 3 ∧ fld iw 24 8 = 0xDC#8 ∧ fld iw 0 2 = 0#2 ∧ fld iw 19 5 = d ∧ fld iw 2 17 = 0 := by
    and_intros <;> simp (disch := decide) only [hf, ext_hi, ext_lo, ext_all, Nat.reduceSub] <;> rfl
  exact ⟨by rw [select_control c0, selectControl, h1, s0, e0]; rfl, mask_runs [(2, 17)] rfl (by simp [r0])⟩

theorem migptBind (d : BitVec 5) : Statement (.migptBind d) := by
  refine roundTrip_via (0xDC#8 ++ d ++ 0x1#19) rfl rfl fun iw hf => ?_
  obtain ⟨c0, h1, s0, e0, r0⟩ : fld iw 30 2 = 3 ∧ fld iw 24 8 = 0xDC#8 ∧ fld iw 0 2 = 1#2 ∧ fld iw 19 5 = d ∧ fld iw 2 17 = 0 := by
    and_intros <;> simp (disch := decide) only [hf, ext_hi, ext_lo, ext_all, Nat.reduceSub] <;> rfl
  exact ⟨by rw [select_control c0, selectControl, h1, s0, e0]; rfl, mask_runs [(2, 17)] rfl (by simp [r0])⟩

theorem migptFree (d : BitVec 5) : Statement (.migptFree d) := by
  refine roundTrip_via (0xDC#8 ++ d ++ 0x2#19) rfl rfl fun iw hf => ?_
  obtain ⟨c0, h1, s0, e0, r0⟩ : fld iw 30 2 = 3 ∧ fld iw 24 8 = 0xDC#8 ∧ fld iw 0 2 = 2#2 ∧ fld iw 19 5 = d ∧ fld iw 2 17 = 0 := by
    and_intros <;> simp (disch := decide) only [hf, ext_hi, ext_lo, ext_all, Nat.reduceSub] <;> rfl
  exact ⟨by rw [select_control c0, selectControl, h1, s0, e0]; rfl, mask_runs [(2, 17)] rfl (by simp [r0])⟩

theorem casc (d a : BitVec 5) (m : BitVec 1) : Statement (.casc d a m) := by
  refine roundTrip_via (0xDD#8 ++ d ++ a ++ 0x0#13 ++ m) rfl rfl fun iw hf => ?_
  obtain ⟨c0, h1, e0, e1, e2, r0⟩ : fld iw 30 2 = 3 ∧ fld iw 24 8 = 0xDD#8 ∧ fld iw 19 5 = d ∧ fld iw 14 5 = a ∧ fld iw 0 1 = m ∧ fld iw 1 13 = 0 := by
    and_intros <;> simp (disch := decide) only [hf, ext_hi, ext_lo, ext_all, Nat.reduceSub] <;> rfl
  exact ⟨by rw [select_control c0, selectControl, h1, e0, e1, e2]; rfl, mask_runs [(1, 13)] rfl (by simp [r0])⟩

theorem wideInstructionAtHead : Statement .wideInstructionAtHead := device rfl

theorem scalarResultReturn : Statement .scalarResultReturn := device rfl

theorem windowSpill : Statement .windowSpill := device rfl

theorem windowFill : Statement .windowFill := device rfl

theorem storeResolve : Statement .storeResolve := device rfl

theorem storePerform : Statement .storePerform := device rfl

theorem storeFaultRecord : Statement .storeFaultRecord := device rfl

theorem ldqEntryArrival : Statement .ldqEntryArrival := device rfl

theorem waitEntryRetry : Statement .waitEntryRetry := device rfl

theorem remoteWindowAccess : Statement .remoteWindowAccess := device rfl

theorem bridgeHold : Statement .bridgeHold := device rfl

theorem tlbMissWalkStart : Statement .tlbMissWalkStart := device rfl

theorem walkComplete : Statement .walkComplete := device rfl

theorem patrolScrub : Statement .patrolScrub := device rfl

theorem engineCommandStart : Statement .engineCommandStart := device rfl

theorem engineCommandComplete : Statement .engineCommandComplete := device rfl

theorem engineFault : Statement .engineFault := device rfl

theorem engineError : Statement .engineError := device rfl

theorem slotBecomesFull : Statement .slotBecomesFull := device rfl

theorem slotBecomesFree : Statement .slotBecomesFree := device rfl

theorem deliveryArrival : Statement .deliveryArrival := device rfl

theorem deliveryAck : Statement .deliveryAck := device rfl

theorem remoteCommandAccept : Statement .remoteCommandAccept := device rfl

theorem hostWrite : Statement .hostWrite := device rfl

theorem hostRead : Statement .hostRead := device rfl

theorem dramChannelExit : Statement .dramChannelExit := device rfl

theorem channelPowerDownEntry : Statement .channelPowerDownEntry := device rfl

theorem channelSelfRefreshEntry : Statement .channelSelfRefreshEntry := device rfl

theorem lumWrite : Statement .lumWrite := device rfl

theorem xltinvPartition : Statement .xltinvPartition := device rfl

theorem xltinvAsn : Statement .xltinvAsn := device rfl

theorem xltinvAsnPage : Statement .xltinvAsnPage := device rfl

theorem xltinvPageAllAsn : Statement .xltinvPageAllAsn := device rfl

theorem xltinvWalkCaches : Statement .xltinvWalkCaches := device rfl

theorem xltinvDone : Statement .xltinvDone := device rfl

theorem sharingMapWrite : Statement .sharingMapWrite := device rfl

theorem sharingMapClearDone : Statement .sharingMapClearDone := device rfl

theorem capkeyStageLow : Statement .capkeyStageLow := device rfl

theorem capkeyCommit : Statement .capkeyCommit := device rfl

theorem fpFlagsSync : Statement .fpFlagsSync := device rfl

theorem ovrInfoClear : Statement .ovrInfoClear := device rfl

theorem launchqWrite : Statement .launchqWrite := device rfl

theorem launchRecordTake : Statement .launchRecordTake := device rfl

theorem launchNextRecord : Statement .launchNextRecord := device rfl

theorem slotcfgWrite : Statement .slotcfgWrite := device rfl

theorem rotWrite : Statement .rotWrite := device rfl

theorem contextPlace : Statement .contextPlace := device rfl

theorem contextPreempt : Statement .contextPreempt := device rfl

theorem parkedEvict : Statement .parkedEvict := device rfl

theorem timeSliceExpiry : Statement .timeSliceExpiry := device rfl

theorem budgetPeriod : Statement .budgetPeriod := device rfl

theorem grpkill : Statement .grpkill := device rfl

theorem barrierRowSignal : Statement .barrierRowSignal := device rfl

theorem barrierColumnSignal : Statement .barrierColumnSignal := device rfl

theorem barrierRelease : Statement .barrierRelease := device rfl

theorem barrierBreak : Statement .barrierBreak := device rfl

theorem staggeredReleaseApply : Statement .staggeredReleaseApply := device rfl

theorem wfeDeadline : Statement .wfeDeadline := device rfl

theorem loadBalance : Statement .loadBalance := device rfl

theorem memberFinished : Statement .memberFinished := device rfl

theorem trapEntryHandler : Statement .trapEntryHandler := device rfl

theorem trapToCmc : Statement .trapToCmc := device rfl

theorem ctxcmdResume : Statement .ctxcmdResume := device rfl

theorem ctxcmdResumeAt : Statement .ctxcmdResumeAt := device rfl

theorem ctxcmdReset : Statement .ctxcmdReset := device rfl

theorem ctxcmdReleaseFrozen : Statement .ctxcmdReleaseFrozen := device rfl

theorem ctxcmdRaise : Statement .ctxcmdRaise := device rfl

theorem tmbheadAdvance : Statement .tmbheadAdvance := device rfl

theorem tmbfreeMark : Statement .tmbfreeMark := device rfl

theorem errcntRead : Statement .errcntRead := device rfl

theorem cmcGroupStop : Statement .cmcGroupStop := device rfl

theorem hangWatchdog : Statement .hangWatchdog := device rfl

theorem wallTimeLimit : Statement .wallTimeLimit := device rfl

theorem imageWriteback : Statement .imageWriteback := device rfl

theorem contextSave : Statement .contextSave := device rfl

theorem contextRestore : Statement .contextRestore := device rfl

theorem checkpointTimer : Statement .checkpointTimer := device rfl

theorem resumeqWrite : Statement .resumeqWrite := device rfl

theorem resumeImageTake : Statement .resumeImageTake := device rfl

theorem meshLinkFailure : Statement .meshLinkFailure := device rfl

theorem islctlWake : Statement .islctlWake := device rfl

theorem islctlRetention : Statement .islctlRetention := device rfl

theorem islctlOff : Statement .islctlOff := device rfl

theorem acreAutoRetention : Statement .acreAutoRetention := device rfl

theorem acreAutoOff : Statement .acreAutoOff := device rfl

theorem acreEntryDone : Statement .acreEntryDone := device rfl

theorem acreWakeDone : Statement .acreWakeDone := device rfl

theorem croftStandbyEntry : Statement .croftStandbyEntry := device rfl

theorem croftWake : Statement .croftWake := device rfl

theorem unitPowerGate : Statement .unitPowerGate := device rfl

theorem unitWake : Statement .unitWake := device rfl

theorem pspatWrite : Statement .pspatWrite := device rfl

theorem lendingPeriod : Statement .lendingPeriod := device rfl

theorem lenderRecall : Statement .lenderRecall := device rfl

theorem recallComplete : Statement .recallComplete := device rfl

theorem launchSkewExpiry : Statement .launchSkewExpiry := device rfl

theorem thermalMigrationCrossing : Statement .thermalMigrationCrossing := device rfl

theorem thermalRequestWithdraw : Statement .thermalRequestWithdraw := device rfl

theorem throttleStep : Statement .throttleStep := device rfl

theorem emergencySave : Statement .emergencySave := device rfl

theorem thermalTrip : Statement .thermalTrip := device rfl

theorem croftThermalTrip : Statement .croftThermalTrip := device rfl

theorem inhibitClear : Statement .inhibitClear := device rfl

theorem retentionRecordClear : Statement .retentionRecordClear := device rfl

theorem migreqRaise : Statement .migreqRaise := device rfl

theorem migrationHonour : Statement .migrationHonour := device rfl

theorem migrationTimeout : Statement .migrationTimeout := device rfl

theorem migrationComplete : Statement .migrationComplete := device rfl

theorem partitionSwapOut : Statement .partitionSwapOut := device rfl

theorem partitionSwapIn : Statement .partitionSwapIn := device rfl

theorem linkPortFailure : Statement .linkPortFailure := device rfl

theorem vfFlr : Statement .vfFlr := device rfl

theorem powerOnBoot : Statement .powerOnBoot := device rfl

theorem measExtend : Statement .measExtend := device rfl

theorem getMeasurements : Statement .getMeasurements := device rfl

theorem registerWrite : Statement .registerWrite := device rfl

theorem receiveQueueArrival : Statement .receiveQueueArrival := device rfl

theorem apertureAccess : Statement .apertureAccess := device rfl

theorem deviceOff : Statement .deviceOff := device rfl

end Sys2Proof.Laws.RoundTrip
end

