-- ==== Sys2Proof/Tests/Slice0.lean ====
section
/-! SUPPORT. Tests. First every encoded instruction's word and the example words of the spec, and the terms the well-formedness
check refuses; then, statement by statement, states and operands that meet the hypotheses of each clause together, each with
what the rule says happens there, worked out by hand from the rules. -/

namespace Sys2Proof.Tests

set_option Elab.async false

open Sys2Proof Sys2Proof.Machine Sys2Proof.Claim

/-- A context in slot 0 of Croft's first unit, the unit's scratchpad on, with a context record and a unit record to vary. -/
def one (x : Ctx) (y : UnitSt) : State :=
  { dir := [(5, { st := 1, part := 1, home := 3, place := .slot 256 0, gens := 0x41041041041 })], ctxs := [(5, { x with pc := 0x400 })], cur := 5
    units := [(256, { y with slots := [(0, 5)], segOn := 0xFF })], parts := [(1, { en := true, lum := [(3, 0x80000100)], key := 7 })] }

/-- The instruction answers a next state of which something holds. -/
def runs (i : Instr) (s : State) (f : State → Bool) : Bool := match exec i s with | .next t => f t | _ => false

/-- The instruction answers exactly this next state. -/
def gives (i : Instr) (s t : State) : Bool := runs i s (fun u => decide (u = t))

/-- Registers, a full message register, a bound ld port with a value, a ring with a value. -/
def sA : State := one { sreg := [(1, 7), (2, 0xFFFFFFFFFFFFFFFE), (3, 0x3F800000)], mreg := [(3, 9)], mFull := 8
                        ports := [(0, { kind := 1, ldq := [{ id := 1, loc := 0, arrived := true, val := 5 }] }), (1, { kind := 4, ring := 2 })] }
  { rings := [(2, { owner := some 5, part := 1, q := [6] })] }

/-! ### Finding the homes that a statement's hypotheses name -/

/-- An operand in a window, from decidable facts. -/
theorem operand_of {s : State} {va : Word} {lo hi : Int} {k : Acc} {o : Opnd} {r : Region} (room loc : Nat)
    (h : isWindow va = true ∧ windowRoom va = some room ∧ 0 ≤ (windowOff va : Int) + lo ∧ hi ≤ room ∧
      s.windowHome (s.unitOf s.cur) (s.dirE s.cur).part va k = .ok loc ∧
      o = { va := va, home := some loc } ∧ r = { lo := 2 ^ 64 + ((loc : Int) + lo).toNat, len := (hi - lo).toNat }) : Operand s va lo hi k o r := by
  unfold Operand; rw [if_pos h.1]; exact ⟨room, loc, h.2⟩

/-- The homes of addresses in windows, found one after another. -/
def homesB (k : Acc) (s : State) : List Word → List Nat → Bool
  | [], [] => true
  | va :: vs, loc :: ls => decide (resolvesMem s va k loc s) && homesB k s vs ls
  | _, _ => false
theorem homes_of {k : Acc} {s : State} : {vs : List Word} → {ls : List Nat} → homesB k s vs ls = true → Homes k s vs ls s
  | [], [], _ => ⟨rfl, rfl⟩
  | [], _ :: _, h => by simp [homesB] at h
  | _ :: _, [], h => by simp [homesB] at h
  | _ :: _, _ :: _, h => by
    rw [homesB, Bool.and_eq_true, decide_eq_true_iff] at h
    exact ⟨_, _, s, rfl, h.1, homes_of h.2⟩

/-- Reads at homes whose touching changes nothing. -/
def readsB (n : Nat) (s : State) : List Nat → List Nat → Bool
  | [], [] => true
  | loc :: ls, v :: vs => decide (v = leVal s.mem loc n ∧ near s loc ∧ noStoreMeets s loc n ∧ sound s loc n ∧ s.touchRun loc n = s) && readsB n s ls vs
  | _, _ => false
theorem reads_of {n : Nat} {s : State} : {ls vs : List Nat} → readsB n s ls vs = true → Reads n s ls vs s
  | [], [], _ => ⟨rfl, rfl⟩
  | [], _ :: _, h => by simp [readsB] at h
  | _ :: _, [], h => by simp [readsB] at h
  | _ :: _, _ :: vs, h => by
    rw [readsB, Bool.and_eq_true, decide_eq_true_iff] at h
    exact ⟨_, vs, s, rfl, .inl ⟨h.1.1, h.1.2.1, h.1.2.2.1, h.1.2.2.2.1, h.1.2.2.2.2.symm⟩, reads_of h.2⟩

/-- Doublewords from an address in a window upwards. -/
def dwordsB (s : State) : Word → List (Nat × Nat) → Bool
  | _, [] => true
  | va, (loc, v) :: vs => decide (resolvesMem s va accR loc s ∧ v = leVal s.mem loc 8 ∧ near s loc ∧ noStoreMeets s loc 8 ∧ sound s loc 8 ∧ s.touchRun loc 8 = s) &&
      dwordsB s (va + 8) vs
theorem dwords_of {s : State} : {va : Word} → {l : List (Nat × Nat)} → dwordsB s va l = true → Dwords l.length s va (l.map (·.2)) s
  | _, [], _ => ⟨rfl, rfl⟩
  | _, (_, _) :: vs, h => by
    rw [dwordsB, Bool.and_eq_true, decide_eq_true_iff] at h
    exact ⟨_, _, s, s, _, h.1.1, rfl, .inl ⟨h.1.2.1, h.1.2.2.1, h.1.2.2.2.1, h.1.2.2.2.2.1, h.1.2.2.2.2.2.symm⟩, dwords_of h.2⟩

/-- A shape image from its fields. -/
def shp (l : List (Nat × Nat)) : BitVec 512 := BitVec.ofNat 512 (l.foldl (fun n f => n + f.2 * 2 ^ (32 * f.1)) 0)
/-- Addresses in the own scratchpad and shapes in h1 to h4. -/
def sE (h : List (Nat × BitVec 512)) (cmds : List Cmd) : State := { one
  { sreg := [(9, 0xFFFF100000000400), (10, 0xFFFF100000000800), (11, 0xFFFF100000000C00), (12, 1), (13, 0xFFFF200000000000)], hreg := h }
  { cmds := cmds, seq := 0xFFFFFF } with mem := [(unitLoc 256 0x800, 0x11)] }
/-- The region of bytes in the own scratchpad. -/
def regn (off n : Nat) : Region := { lo := 2 ^ 64 + (unitLoc 256 off), len := n }
/-- An operand in it. -/
def opn (off : Nat) : Opnd := { va := 0xFFFF100000000000 + BitVec.ofNat 64 off, home := some (unitLoc 256 off) }

/-! ### Decoding -/

/-- Words of the scalar class, laid out by the encoding tables (R63 to R71): fixed bits with the operands in their places. -/
theorem test_decode_scalar_1 : ([(0x004A9621, .add 9 10 11 0 1),
    (0x004A9622, .sub 9 10 11 0 1),
    (0x004A9623, .and 9 10 11 0 1),
    (0x004A9624, .or 9 10 11 0 1),
    (0x004A9625, .xor 9 10 11 0 1),
    (0x004A9626, .andn 9 10 11 0 1),
    (0x004A9627, .sll 9 10 11 0 1),
    (0x004A9628, .srl 9 10 11 0 1),
    (0x004A9629, .sra 9 10 11 0 1),
    (0x004A962A, .mul 9 10 11 0 1),
    (0x004A962B, .mulh 9 10 11 0 1),
    (0x004A962C, .mulhu 9 10 11 0 1),
    (0x004A962D, .div 9 10 11 0 1),
    (0x004A962E, .divu 9 10 11 0 1),
    (0x004A962F, .rem 9 10 11 0 1),
    (0x004A9630, .remu 9 10 11 0 1),
    (0x004A9631, .slt 9 10 11 0 1),
    (0x004A9632, .sltu 9 10 11 0 1),
    (0x004A9633, .min 9 10 11 0 1),
    (0x004A9634, .max 9 10 11 0 1),
    (0x004A9635, .minu 9 10 11 0 1),
    (0x004A9636, .maxu 9 10 11 0 1),
    (0x004A8037, .clz 9 10 0 1),
    (0x004A8038, .ctz 9 10 0 1),
    (0x004A8039, .popc 9 10 0 1),
    (0x014ABFFE, .addi 9 10 0x3FFE),
    (0x024ABFFE, .andi 9 10 0x3FFE),
    (0x034ABFFE, .ori 9 10 0x3FFE),
    (0x044ABFFE, .xori 9 10 0x3FFE),
    (0x054A803E, .slli 9 10 0x3E)] : List (BitVec 32 × Instr)).all (fun p => decide (decode p.1 = .instr p.2)) = true := by decide +kernel

/-- Words of the scalar class, laid out by the encoding tables (R63 to R71): fixed bits with the operands in their places. -/
theorem test_decode_scalar_2 : ([(0x064A803E, .srli 9 10 0x3E),
    (0x074A803E, .srai 9 10 0x3E),
    (0x084ABFFE, .slti 9 10 0x3FFE),
    (0x094ABFFE, .sltiu 9 10 0x3FFE),
    (0x0A4FFFFE, .lui 9 0x7FFFE),
    (0x0B4FFFFE, .auipc 9 0x7FFFE),
    (0x0C4A9608, .lea 9 10 11 1 0),
    (0x0D4A9621, .fadd 9 10 11 0 1),
    (0x0D4A9622, .fsub 9 10 11 0 1),
    (0x0D4A9623, .fmul 9 10 11 0 1),
    (0x0D4A9624, .fdiv 9 10 11 0 1),
    (0x0D4A8025, .fsqrt 9 10 0 1),
    (0x0D4A9626, .fmin 9 10 11 0 1),
    (0x0D4A9627, .fmax 9 10 11 0 1),
    (0x0D4A9628, .feq 9 10 11 0 1),
    (0x0D4A9629, .flt 9 10 11 0 1),
    (0x0D4A962A, .fle 9 10 11 0 1),
    (0x0D4A802B, .fcvtif 9 10 0 1),
    (0x0D4A802C, .fcvtfi 9 10 0 1),
    (0x0D4A802D, .fclass 9 10 0 1),
    (0x0E480000, .rand 9),
    (0x0E480001, .randF32 9),
    (0x0E481602, .randBnd 9 11),
    (0x1052FFFD, .beq 10 11 0x3FFD),
    (0x1152FFFD, .bne 10 11 0x3FFD),
    (0x1252FFFD, .blt 10 11 0x3FFD),
    (0x1352FFFD, .bge 10 11 0x3FFD),
    (0x1452FFFD, .bltu 10 11 0x3FFD),
    (0x1552FFFD, .bgeu 10 11 0x3FFD),
    (0x16FFFFFD, .jal 0xFFFFFD)] : List (BitVec 32 × Instr)).all (fun p => decide (decode p.1 = .instr p.2)) = true := by decide +kernel

/-- Words of the scalar class, laid out by the encoding tables (R63 to R71): fixed bits with the operands in their places. -/
theorem test_decode_scalar_3 : ([(0x174ABFFE, .jalr 9 10 0x3FFE),
    (0x18FFFFFD, .callw 0xFFFFFD),
    (0x1902BFFE, .callwr 10 0x3FFE),
    (0x1A000000, .retw),
    (0x204A97FD, .ld8 9 10 1 1 0x3FD),
    (0x214A97FD, .ld8u 9 10 1 1 0x3FD),
    (0x224A97FD, .ld16 9 10 1 1 0x3FD),
    (0x234A97FD, .ld16u 9 10 1 1 0x3FD),
    (0x244A97FD, .ld32 9 10 1 1 0x3FD),
    (0x254A97FD, .ld32u 9 10 1 1 0x3FD),
    (0x264A97FD, .ld64 9 10 1 1 0x3FD),
    (0x274A9BFD, .st8 9 10 1 2 0x3FD),
    (0x284A9BFD, .st16 9 10 1 2 0x3FD),
    (0x294A9BFD, .st32 9 10 1 2 0x3FD),
    (0x2A4A9BFD, .st64 9 10 1 2 0x3FD),
    (0x2B0283FD, .ldq 0 10 0x3FD),
    (0x2C4A97FD, .ldfe 9 10 1 1 0x3FD),
    (0x2D4A97FD, .ldff 9 10 1 1 0x3FD),
    (0x2E4A9BFD, .stef 9 10 1 2 0x3FD),
    (0x2F4A9BFD, .stff 9 10 1 2 0x3FD),
    (0x304A960B, .amoadd 9 10 11 1 1 1),
    (0x304A962B, .amoand 9 10 11 1 1 1),
    (0x304A964B, .amoor 9 10 11 1 1 1),
    (0x304A966B, .amoxor 9 10 11 1 1 1),
    (0x304A968B, .amomin 9 10 11 1 1 1),
    (0x304A96AB, .amomax 9 10 11 1 1 1),
    (0x304A96CB, .amominu 9 10 11 1 1 1),
    (0x304A96EB, .amomaxu 9 10 11 1 1 1),
    (0x304A970B, .amoswap 9 10 11 1 1 1),
    (0x304A972B, .amocas 9 10 11 1 1 1)] : List (BitVec 32 × Instr)).all (fun p => decide (decode p.1 = .instr p.2)) = true := by decide +kernel

/-- Words of the scalar class, laid out by the encoding tables (R63 to R71): fixed bits with the operands in their places. -/
theorem test_decode_scalar_4 : ([(0x304A974A, .amofadd32 9 10 11 1 1),
    (0x304A976A, .amobfadd2 9 10 11 1 1),
    (0x31000005, .fence 0 1 1),
    (0x32000000, .drain),
    (0x33480003, .csrr 9 3),
    (0x34028010, .csrw 10 16),
    (0x36000000, .qbindUn 0),
    (0x36000800, .qbindLd 0),
    (0x36001200, .qbindTx 0 1),
    (0x36001A00, .qbindRx 0 1),
    (0x3602A000, .qbindRr 0 10),
    (0x37480000, .qstat 9 0)] : List (BitVec 32 × Instr)).all (fun p => decide (decode p.1 = .instr p.2)) = true := by decide +kernel

/-- Words of the vector class, laid out by the encoding tables (R63 to R71): fixed bits with the operands in their places. -/
theorem test_decode_vector_1 : ([(0x40432091, .vadd 8 12 16 2 1 0 1),
    (0x41432091, .vsub 8 12 16 2 1 0 1),
    (0x42432091, .vmul 8 12 16 2 1 0 1),
    (0x43432091, .vfma 8 12 16 2 1 0 1),
    (0x44432091, .vfms 8 12 16 2 1 0 1),
    (0x45432091, .vmin 8 12 16 2 1 0 1),
    (0x46432091, .vmax 8 12 16 2 1 0 1),
    (0x47432091, .vdiv 8 12 16 2 1 0 1),
    (0x48430091, .vabs 8 12 2 1 1),
    (0x49430091, .vneg 8 12 2 1 1),
    (0x4A430091, .vsqrt 8 12 2 1 1),
    (0x4B430091, .vrsqrt 8 12 2 1 1),
    (0x4C430091, .vrcp 8 12 2 1 1),
    (0x4D430091, .vexp2 8 12 2 1 1),
    (0x4E430091, .vlog2 8 12 2 1 1),
    (0x4F430091, .vtanh 8 12 2 1 1),
    (0x50432091, .vand 8 12 16 2 1 0 1),
    (0x51432091, .vor 8 12 16 2 1 0 1),
    (0x52432091, .vxor 8 12 16 2 1 0 1),
    (0x53432094, .vshl 8 12 16 2 1 0 4),
    (0x54432094, .vshr 8 12 16 2 1 0 4),
    (0x55432094, .vsra 8 12 16 2 1 0 4),
    (0x560B2091, .vcmpeq 1 12 16 2 1 0 1),
    (0x570B2091, .vcmplt 1 12 16 2 1 0 1),
    (0x580B2091, .vcmple 1 12 16 2 1 0 1),
    (0x59430291, .vcvt 8 12 1 2 1 1),
    (0x5A432091, .vsel 8 12 16 2 1 0 1),
    (0x5B430091, .vredsum 8 12 2 1 1),
    (0x5C430091, .vredmax 8 12 2 1 1),
    (0x5D430091, .vredmin 8 12 2 1 1)] : List (BitVec 32 × Instr)).all (fun p => decide (decode p.1 = .instr p.2)) = true := by decide +kernel

/-- Words of the vector class, laid out by the encoding tables (R63 to R71): fixed bits with the operands in their places. -/
theorem test_decode_vector_2 : ([(0x5E430091, .vargmax 8 12 2 1 1),
    (0x5F432091, .vperm 8 12 16 2 1 0 1),
    (0x6043127E, .vslideu 8 12 2 1 1 0x3E),
    (0x6143127E, .vslided 8 12 2 1 1 0x3E),
    (0x6243127E, .vbcast 8 12 2 1 1 0x3E),
    (0x63410094, .viota 8 4 2 1 4),
    (0x64430091, .vmv 8 12 2 1 1),
    (0x64402099, .vmvScalar 8 16 2 1 1),
    (0x65432099, .vtopk 8 12 16 2 1 1),
    (0x664100A4, .vmfa 8 4 2 4),
    (0x670300A4, .vmta 0 12 2 4),
    (0x6843107E, .vext 8 12 2 1 0x3E),
    (0x70432091, .vld 8 12 16 2 1 1),
    (0x71432099, .vst 8 12 16 2 1 1 1),
    (0x72432091, .vlds 8 12 16 2 1 1),
    (0x73432099, .vsts 8 12 16 2 1 1 1),
    (0x74432091, .vgath 8 12 16 2 1 1),
    (0x75432099, .vscat 8 12 16 2 1 1 1),
    (0x76432099, .vscadd 8 12 16 2 1 1 1),
    (0x78010000, .kand 0 4 0),
    (0x79010000, .kor 0 4 0),
    (0x7A010000, .knot 0 4),
    (0x7B410000, .kpop 8 4),
    (0x7C410000, .kfirst 8 4),
    (0x7D032000, .kld 0 12 16),
    (0x7E032008, .kst 0 12 16 1)] : List (BitVec 32 × Instr)).all (fun p => decide (decode p.1 = .instr p.2)) = true := by decide +kernel

/-- Words of the engine class, laid out by the encoding tables (R63 to R71): fixed bits with the operands in their places. -/
theorem test_decode_engine_1 : ([(0x800280A0, .hld 10 5),
    (0x810280A3, .hset 10 5 3),
    (0x810280B3, .hsetD 10 5 3),
    (0x824800A3, .hget 9 5 3),
    (0x824800B3, .hgetD 9 5 3),
    (0x844A8000, .halloc 9 10),
    (0x844A9601, .hallocN 9 10 11),
    (0x85028000, .hfree 10),
    (0x864A9600, .hwait 9 10 11),
    (0x874A9600, .hspace 9 10 11),
    (0x88029600, .hadvP 10 11),
    (0x88029601, .hadvC 10 11),
    (0x894A8000, .hstat 9 10),
    (0x894A8001, .hstatLo 9 10),
    (0x894A8002, .hstatHi 9 10),
    (0x8C4A96A0, .tmov 9 10 11 5),
    (0x8C4A96A1, .tmovTg 9 10 11 5),
    (0x8D4A9600, .ttag 9 10 11),
    (0x8D4A9601, .ttagCas 9 10 11),
    (0x8E4A8000, .tget 9 10),
    (0x904A96A0, .cpy 9 10 11 5),
    (0x914A96A0, .gath 9 10 11 5),
    (0x924A96A0, .scat 9 10 11 5),
    (0x934A96A0, .fill 9 10 11 5),
    (0x944A96A0, .coll 9 10 11 5),
    (0x954A8000, .xwait 9 10),
    (0x95480001, .xwaitAll 9),
    (0x964A8000, .xstat 9 10),
    (0x982516A7, .mma 1 10 11 5 1 1 1),
    (0x992516A7, .mmaz 1 10 11 5 1 1 1)] : List (BitVec 32 × Instr)).all (fun p => decide (decode p.1 = .instr p.2)) = true := by decide +kernel

/-- Words of the engine class, laid out by the encoding tables (R63 to R71): fixed bits with the operands in their places. -/
theorem test_decode_engine_2 : ([(0x9A2516A7, .mmas 1 10 11 5 1 1 1),
    (0x9B200000, .azeroF32 1),
    (0x9B200001, .azeroI32 1),
    (0x9C210A00, .ald 1 1 10 0),
    (0x9C200C0C, .aldV 1 12 4),
    (0x9D012A20, .ast 1 1 10 1 0 0),
    (0x9D0C202C, .astV 12 1 1 4),
    (0x9E1A8000, .cbld 3 10),
    (0x9F0296A0, .mcmd 10 11 5),
    (0xA04A96A0, .cgemv 9 10 11 5),
    (0xA44A8010, .gld 9 10 1 0),
    (0xA54A8010, .gst 9 10 1),
    (0xA64A96B0, .gacc 9 10 11 5 1),
    (0xA74A96B0, .gsub 9 10 11 5 1),
    (0xA84A80B0, .gschur 9 10 5 1),
    (0xA94A9610, .gdamp 9 10 11 1),
    (0xAA4A8010, .gsolve 9 10 1),
    (0xAB4A9610, .gresid 9 10 11 1),
    (0xAC4A9611, .gsend 9 10 11 1 1),
    (0xB04A9600, .snap 9 10 11),
    (0xB04A8001, .snapOpen 9 10),
    (0xB0028002, .snapJoin 10),
    (0xB0028003, .snapFin 10),
    (0xB14A9600, .scommit 9 10 11),
    (0xB2028000, .sabort 10)] : List (BitVec 32 × Instr)).all (fun p => decide (decode p.1 = .instr p.2)) = true := by decide +kernel

/-- Words of the control class, laid out by the encoding tables (R63 to R71): fixed bits with the operands in their places. -/
theorem test_decode_control_1 : ([(0xC04A9600, .spawn 9 10 11),
    (0xC1000000, .halt),
    (0xC1029601, .haltS 10 11),
    (0xC2000000, .yield),
    (0xC34A8000, .join 9 10),
    (0xC4480000, .leave 9),
    (0xC54A8003, .barset 9 10 3),
    (0xC6480003, .bararr 9 3),
    (0xC74A8003, .barwt 9 10 3),
    (0xC8480003, .barsync 9 3),
    (0xC94A8000, .waitm 9 10),
    (0xCA4A8001, .send 9 10 1),
    (0xCB4A8001, .sendw 9 10 1),
    (0xCC4A8000, .capmk 9 10),
    (0xCC4A9601, .capmkDv 9 10 11),
    (0xCD4A8000, .caprv 9 10),
    (0xCE028000, .fwd 10),
    (0xCF480001, .expect 9 1),
    (0xD04A9600, .dcnt 9 10 11),
    (0xD1029604, .taskq 10 11 1),
    (0xD1029605, .taskqCap 10 11 1),
    (0xD1029602, .taskqOwn 10 11),
    (0xD2028000, .taskend 10),
    (0xD34ABFFD, .opcall 9 10 0x3FFD),
    (0xD44A8000, .wfe 9 10),
    (0xD8028003, .trap 10 3),
    (0xD9000000, .eret),
    (0xDA4A8001, .ckpt 9 10 1),
    (0xDB480003, .step 9 3),
    (0xDC480000, .migpt 9)] : List (BitVec 32 × Instr)).all (fun p => decide (decode p.1 = .instr p.2)) = true := by decide +kernel

/-- Words of the control class, laid out by the encoding tables (R63 to R71): fixed bits with the operands in their places. -/
theorem test_decode_control_2 : ([(0xDC480001, .migptBind 9),
    (0xDC480002, .migptFree 9),
    (0xDD4A8001, .casc 9 10 1)] : List (BitVec 32 × Instr)).all (fun p => decide (decode p.1 = .instr p.2)) = true := by decide +kernel

/-- The example words of R83, R117, R162, R175, R195 to R219, R231 to R263, R264 to R269, R289, R369. -/
theorem test_decode_examples_1 : ([(0x01480005, .addi 9 0 5), (0x00529201, .add 10 10 9 0 0), (0x11483FFE, .bne 9 0 0x3FFE), (0x2F520000, .stff 10 8 0 0 0),
    (0xC1000000, .halt), (0x8D4A9600, .ttag 9 10 11), (0x8E628000, .tget 12 10), (0x8D7A9C01, .ttagCas 15 10 14), (0x80024020, .hld 9 1),
    (0x91635440, .gath 12 13 10 2), (0x95730000, .xwait 14 12), (0x33480010, .csrr 9 0x10), (0x34028010, .csrw 10 0x10), (0x004A9602, .sub 9 10 11 0 0),
    (0x00635C0E, .divu 12 13 14 0 0), (0x004A8019, .popc 9 10 0 0), (0x024A80FF, .andi 9 10 0xFF), (0x074A803F, .srai 9 10 63),
    (0x094A8001, .sltiu 9 10 1), (0x0C4A9603, .lea 9 10 11 0 3), (0x0C4A960A, .lea 9 10 11 1 2), (0x0D4A9601, .fadd 9 10 11 0 0),
    (0x0D4A800C, .fcvtfi 9 10 0 0), (0x0E480000, .rand 9), (0x0E480001, .randF32 9), (0x104A8004, .beq 9 10 4), (0x18000010, .callw 16),
    (0x19024000, .callwr 9 0), (0x1A000000, .retw), (0x26610002, .ld64 12 4 0 0 2)] : List (BitVec 32 × Instr)).all
    (fun p => decide (decode p.1 = .instr p.2)) = true := by decide +kernel

theorem test_decode_examples_2 : ([(0x204A83FF, .ld8 9 10 0 0 0x3FF), (0x254A8001, .ld32u 9 10 0 0 1), (0x294A8002, .st32 9 10 0 0 2),
    (0x2A4A9800, .st64 9 10 1 2 0), (0x2B0A8001, .ldq 1 10 1), (0x2C620000, .ldfe 12 8 0 0 0), (0x2C621400, .ldfe 12 8 1 1 0), (0x2D4A8000, .ldff 9 10 0 0 0),
    (0x304A9601, .amoadd 9 10 11 0 0 1), (0x304A972A, .amocas 9 10 11 1 1 0), (0x304A9740, .amofadd32 9 10 11 0 0), (0x31000078, .fence 15 0 0),
    (0x3100007E, .fence 15 1 2), (0x32000000, .drain), (0x48220006, .vabs 4 8 0 0 6), (0x4D220082, .vexp2 4 8 2 0 2), (0x5321520C, .vshl 4 5 9 0 0 1 4),
    (0x7D0AC000, .kld 1 11 0), (0x70224001, .vld 4 9 0 0 0 1), (0x76221841, .vscadd 4 8 12 1 0 0 1), (0x65521A09, .vtopk 10 8 13 0 0 1),
    (0x9E0A4000, .cbld 1 9), (0x9F025480, .mcmd 9 10 4), (0x84A29601, .hallocN 20 10 11), (0x876AD800, .hspace 13 11 12), (0x938B6020, .fill 17 13 16 1),
    (0x8802D800, .hadvP 11 12), (0x99000264, .mmaz 0 0 1 3 1 0 0), (0x9A000263, .mmas 0 0 1 3 0 1 1), (0xA06254A0, .cgemv 12 9 10 5),
    (0xA64A9650, .gacc 9 10 11 2 1), (0xAC6D4001, .gsend 13 21 0 0 1), (0x95700001, .xwaitAll 14), (0xD8028003, .trap 10 3), (0xD9000000, .eret)] :
    List (BitVec 32 × Instr)).all (fun p => decide (decode p.1 = .instr p.2)) = true := by decide +kernel

/-- R72: an unassigned opcode and an unassigned sub-field, a reserved bit, groups that overlap in part. -/
theorem test_decode_refuses : decode 0x00000000 = .illegal .unassigned ∧ decode 0xFFFFFFFF = .illegal .unassigned ∧
    decode 0x0E480003 = .illegal .unassigned ∧ decode 0x32000001 = .illegal .reserved ∧ decode 0x402A2011 = .illegal .unassigned ∧ decode 0x68290000 = .illegal .overlap := by decide +kernel

/-- Terms the check refuses: a store with acquire order and a group that starts at no multiple of its size (unassigned), an m destination
above 7 and a mask number above 7 (reserved), a pair over its destination (overlap); and one it accepts. -/
theorem test_wellFormed_refuses : (Instr.st64 9 10 0 1 0).wellFormed = false ∧ (Instr.vadd 5 8 16 0 1 0 1).wellFormed = false ∧
    (Instr.add 9 8 3 1 0).wellFormed = false ∧ (Instr.send 9 8 2).wellFormed = false ∧ (Instr.vext 5 4 0 0 0).wellFormed = false ∧
    (Instr.vext 4 6 0 0 0).wellFormed = true := by decide +kernel

/-! ### Registers, branches and windows -/

/-- IntegerResults, an s source and destination: 7 + (-2) = 5. -/
theorem test_add_registers : (taken (begun sA (.add 4 1 2 0 0)) 1 0 7 (begun sA (.add 4 1 2 0 0)) ∧ canRead sA 2 ∧
    canPut (begun sA (.add 4 1 2 0 0)) 4 0) ∧ gives (.add 4 1 2 0 0) sA ((put (begun sA (.add 4 1 2 0 0)) 4 0 5).retire false) = true := by decide +kernel

/-- The state after m3 was read: it is empty. -/
def sA1 : State := (begun sA (.sub 0 3 1 0 1)).modCtx 5 (fun x => { x with mFull := 0 })
/-- An m source, and s0 as the destination: nothing is written, m3 empties. -/
theorem test_sub_message_source : (taken (begun sA (.sub 0 3 1 0 1)) 3 1 9 sA1 ∧ canRead sA 1 ∧ canPut sA1 0 0) ∧
    gives (.sub 0 3 1 0 1) sA (sA1.retire false) = true := by decide +kernel

/-- The state after q0 was popped. -/
def sA2 (i : Instr) : State := (begun sA i).modCtx 5 (fun x => { x with ports := [(0, { kind := 1 }), (1, { kind := 4, ring := 2 })] })
/-- A queue source and a ring destination: 5 × 7 is pushed behind 6. -/
theorem test_mul_queue_to_ring : (taken (begun sA (.mul 1 0 1 1 2)) 0 2 5 (sA2 (.mul 1 0 1 1 2)) ∧ canRead sA 1 ∧ canPut (sA2 (.mul 1 0 1 1 2)) 1 1) ∧
    runs (.mul 1 0 1 1 2) sA (fun t => (t.ring 256 2).q == [6, 35] && ((t.ctx 5).ports.length == 2) && ((t.ctx 5).pc == 0x404)) = true := by decide +kernel

/-- One source (R194): three ones in 7. An immediate (R196), -1 in 14 bits. -/
theorem test_popc_addi : (taken (begun sA (.popc 4 1 0 0)) 1 0 7 (begun sA (.popc 4 1 0 0)) ∧ canPut (begun sA (.popc 4 1 0 0)) 4 0 ∧ canName sA 4) ∧
    gives (.popc 4 1 0 0) sA ((written (begun sA (.popc 4 1 0 0)) 4 3).retire false) = true ∧
    gives (.addi 4 1 0x3FFF) sA ((written (begun sA (.addi 4 1 0x3FFF)) 4 6).retire false) = true ∧
    gives (.lui 4 3) sA ((written (begun sA (.lui 4 3)) 4 0xC000).retire false) = true ∧
    gives (.auipc 4 1) sA ((written (begun sA (.auipc 4 1)) 4 0x4400).retire false) = true ∧
    gives (.lea 4 1 2 1 3) sA ((written (begun sA (.lea 4 1 2 1 3)) 4 0x7FFFFFFF7).retire false) = true := by decide +kernel

/-- R195's worked results, and R200's: value and flags. -/
theorem test_worked_results : quotient 7 (-2) = -3 ∧ remainder 7 (-2) = 1 ∧ remainder (-7) 2 = -1 ∧ remainder (-9) 0 = -9 ∧
    quotient 0x8000000000000000 (-1) = 0x8000000000000000 ∧ fDiv 0x3F800000 0x3F800000 0 = (0x7F800000, 8) ∧ fDiv 0 0 0 = (0x7FC00000, 16) ∧
    fSqrt 0 0x80000000 = (0x80000000, 0) ∧ fMinMax true 0x80000000 0 = 0x80000000 ∧ fMinMax true 0x7FC00000 0x3F800000 = 0x7FC00000 ∧
    (fToInt 0 0x40600000).1 = 4 ∧ fToInt 0 0x4F000000 = (0x7FFFFFFF, 16) ∧ (fFromInt 0 16777217).1 = 0x4B800000 ∧ fClass 1 = 0x20 := by decide +kernel

/-- R194's worked results by the instruction itself: s5 and s6 hold the operands. -/
def op2 (i : Instr) (a b : Word) : Word := match exec i (one { sreg := [(5, a), (6, b)] } {}) with | .next t => (t.ctx 5).s 4 | _ => 0xBAD
theorem test_worked_instructions : op2 (.div 4 5 6 0 0) 7 (-2) = -3 ∧ op2 (.rem 4 5 6 0 0) (-7) 2 = -1 ∧ op2 (.divu 4 5 6 0 0) 5 0 = 0xFFFFFFFFFFFFFFFF ∧
    op2 (.mulhu 4 5 6 0 0) (-1) (-1) = -2 ∧ op2 (.mulh 4 5 6 0 0) (-1) (-1) = 0 ∧ op2 (.sra 4 5 6 0 0) 0x8000000000000000 63 = -1 ∧
    op2 (.sll 4 5 6 0 0) 1 64 = 1 ∧ op2 (.clz 4 5 0 0) 0 0 = 64 ∧ op2 (.andn 4 5 6 0 0) 0xF 5 = 0xA ∧ op2 (.srl 4 5 6 0 0) (-1) 60 = 15 ∧
    op2 (.slt 4 5 6 0 0) (-1) 0 = 1 ∧ op2 (.sltu 4 5 6 0 0) (-1) 0 = 0 ∧ op2 (.min 4 5 6 0 0) (-1) 0 = -1 ∧ op2 (.minu 4 5 6 0 0) (-1) 0 = 0 ∧
    op2 (.max 4 5 6 0 0) (-1) 0 = 0 ∧ op2 (.maxu 4 5 6 0 0) (-1) 0 = -1 ∧ op2 (.ctz 4 5 0 0) 8 0 = 3 ∧ op2 (.remu 4 5 6 0 0) 9 4 = 1 := by decide +kernel
theorem test_worked_immediates : op2 (.andi 4 5 0x3FF0) 0xFF 0 = 0xF0 ∧ op2 (.ori 4 5 1) 6 0 = 7 ∧ op2 (.xori 4 5 0x3FFF) 1 0 = -2 ∧ op2 (.slli 4 5 63) 3 0 = 0x8000000000000000 ∧
    op2 (.srli 4 5 4) (-1) 0 = 0x0FFFFFFFFFFFFFFF ∧ op2 (.srai 4 5 4) (-16) 0 = -1 ∧ op2 (.slti 4 5 0x3FFF) (-2) 0 = 1 ∧ op2 (.sltiu 4 5 0x3FFF) 5 0 = 1 ∧
    op2 (.xor 4 5 6 0 0) 6 3 = 5 ∧ op2 (.and 4 5 6 0 0) 6 3 = 2 ∧ op2 (.or 4 5 6 0 0) 6 3 = 7 := by decide +kernel

/-- FloatAndRandomResults: 1.0 + 1.0, with no flag; and the draw for key 0, counter 0, whose value R201's formula gives. -/
theorem test_fadd_rand : (taken (begun sA (.fadd 4 3 3 0 0)) 3 0 0x3F800000 (begun sA (.fadd 4 3 3 0 0)) ∧ canRead sA 3 ∧ canPut (begun sA (.fadd 4 3 3 0 0)) 4 0) ∧
    gives (.fadd 4 3 3 0 0) sA ((written (begun sA (.fadd 4 3 3 0 0)) 4 0x40000000).retire false) = true ∧
    gives (.rand 4) sA ((written (counted (begun sA (.rand 4))) 4 0xE220A8397B1DCDAF).retire false) = true ∧
    gives (.randBnd 4 1) sA ((written (counted (begun sA (.randBnd 4 1))) 4 6).retire false) = true := by decide +kernel
theorem test_float_group : op2 (.fsub 4 5 6 0 0) 0x40400000 0x3F800000 = 0x40000000 ∧ op2 (.fmul 4 5 6 0 0) 0x40400000 0x40000000 = 0x40C00000 ∧
    op2 (.fdiv 4 5 6 0 0) 0x40400000 0x40000000 = 0x3FC00000 ∧ op2 (.fsqrt 4 5 0 0) 0x40800000 0 = 0x40000000 ∧ op2 (.fmin 4 5 6 0 0) 0xBF800000 0 = 0xBF800000 ∧
    op2 (.fmax 4 5 6 0 0) 0xBF800000 0 = 0 ∧ op2 (.feq 4 5 6 0 0) 0x80000000 0 = 1 ∧ op2 (.flt 4 5 6 0 0) 0xBF800000 0 = 1 ∧ op2 (.fle 4 5 6 0 0) 0x7FC00000 0 = 0 ∧
    op2 (.fcvtif 4 5 0 0) 3 0 = 0x40400000 ∧ op2 (.fcvtfi 4 5 0 0) 0xC0400000 0 = -3 ∧ op2 (.fclass 4 5 0 0) 0xFF800000 0 = 1 := by decide +kernel
/-- UnitDrawIsExact at its largest k, and FloatSpecialResults' hypotheses, one clause each. -/
theorem test_unit_draw_top : (2 ^ 24 - 1 < 2 ^ 24) ∧ (f32.roundNE (.rat false (2 ^ 24 - 1) 1 (-24) false)) = (0x3F7FFFFF, 0) := by decide +kernel
theorem test_float_specials : f32.decode 0x7FC00000 = .nan ∧ f32.decode 0 = .fin false 0 (-149) ∧ f32.decode 0x3F800000 = .fin false 0x800000 (-23) ∧
    f32.decode 0xFF800000 = .inf true ∧ f32.decode 0xBF800000 = .fin true 0x800000 (-23) ∧ fAdd 0 0x7FC00000 0 = (0x7FC00000, 0) ∧
    fDiv 0 0xBF800000 0 = (0xFF800000, 8) ∧ fAdd 0 0x7F800000 0xFF800000 = (0x7FC00000, 16) ∧ fSqrt 0 0xBF800000 = (0x7FC00000, 16) := by decide +kernel

/-- ConditionalBranches: s1 = 7 and s2 = -2. Taken four words back, and not taken. -/
theorem test_branches : (canRead sA 1 ∧ canRead sA 2) ∧
    gives (.blt 2 1 0x3FFC) sA ({ begun sA (.blt 2 1 0x3FFC) with npc := 0x3F0 }.retire false) = true ∧
    gives (.bltu 2 1 4) sA ((begun sA (.bltu 2 1 4)).retire false) = true ∧ gives (.beq 1 2 4) sA ((begun sA (.beq 1 2 4)).retire false) = true ∧
    gives (.bne 1 2 4) sA ({ begun sA (.bne 1 2 4) with npc := 0x410 }.retire false) = true ∧
    gives (.bge 1 2 4) sA ({ begun sA (.bge 1 2 4) with npc := 0x410 }.retire false) = true ∧
    gives (.bgeu 1 2 4) sA ((begun sA (.bgeu 1 2 4)).retire false) = true := by decide +kernel

/-- JumpsLink: forward, backward, and through s0, which keeps nothing. -/
theorem test_jumps : (canName sA 7 ∧ canRead sA 1 ∧ canName sA 0) ∧
    gives (.jal 0xFFFFFF) sA ({ written (begun sA (.jal 0xFFFFFF)) 7 0x404 with npc := 0x3FC }.retire false) = true ∧
    gives (.jalr 0 1 1) sA ({ begun sA (.jalr 0 1 1) with npc := 8 }.retire false) = true := by decide +kernel

/-- Three windows behind the current one, and a frame pointer with no room. -/
def sW (l : List Win) (n : Word) : State := one { sreg := [(9, 1), (15, 0x800), (24, 5)], wins := l, csr := [(0x29, n)] } {}
/-- WindowedCalls: room for a window; a window to return to; neither room nor leave to spill; nothing to return to. -/
theorem test_windows : (noResults (sW [{}, {}] 0) ∧ (sW [{}, {}] 0).cur = 5 ∧ ((sW [{}, {}] 0).ctx 5).wins.length < 3 ∧ canRead (sW [{}] 0) 15 ∧ ((sW [{}] 0).ctx 5).wins ≠ []) ∧
    runs (.callw 2) (sW [{}, {}] 0) (fun t => (t.ctx 5).s 8 == 5 && (t.ctx 5).s 15 == 0x404 && (t.ctx 5).wins.length == 3 && (t.ctx 5).pc == 0x408) = true ∧
    runs (.callwr 9 3) (sW [{}, {}] 0) (fun t => (t.ctx 5).s 8 == 5 && (t.ctx 5).pc == 4) = true ∧
    runs .retw (sW [{ regs := [(8, 3)] }] 0) (fun t => (t.ctx 5).s 8 == 3 && (t.ctx 5).s 25 == 1 && (t.ctx 5).wins == [] && (t.ctx 5).pc == 0x800) = true := by decide +kernel
theorem test_window_traps : (noResults (sW [{}, {}, {}] 0) ∧ ((sW [{}, {}, {}] 0).ctx 5).wins.length = 3 ∧ ((sW [{}, {}, {}] 0).ctx 5).depth ≥ ((sW [{}, {}, {}] 0).ctx 5).limit) ∧
    gives (.callw 2) (sW [{}, {}, {}] 0) (trapped (sW [{}, {}, {}] 0) (.callw 2) 0x0E) = true ∧
    (noResults (sW [] 0) ∧ ((sW [] 0).ctx 5).wins = [] ∧ ((sW [] 0).ctx 5).depth = 0) ∧ gives .retw (sW [] 0) (trapped (sW [] 0) .retw 0x0F) = true := by decide +kernel
/-- ReturnUndoesCall: two windows behind, no error in s15. -/
theorem test_call_return : (noResults (sW [{}, {}] 0) ∧ ((sW [{}, {}] 0).ctx 5).wins.length < 3 ∧ mget (sW [{}, {}] 0).regErr (regKey 5 0 15) 0 = 0) ∧
    runs (.callw 2) (sW [{}, {}] 0) (fun t => runs .retw t (fun u => (u.ctx 5).pc == 0x404 && (u.ctx 5).s 9 == 1 && (u.ctx 5).s 15 == 0x800 && (u.ctx 5).s 31 == 0x404)) = true := by decide +kernel

/-- A frame area at 0x1000 for two frames. -/
def sF (l : List Win) (d : Nat) : State := { one { wins := l, csr := [(0x28, 0x1000), (0x29, BitVec.ofNat 64 (2 * 65536 + d))] } {} with arg := { n0 := 5 } }
/-- WindowsSpillAndFill: the oldest window to frame 1, which ends within the scratchpad; and back. -/
theorem test_spill : ((sF [{}, {}, { regs := [(8, 0x11), (23, 0x22)] }] 1).dirE 5).place = .slot 256 0 ∧
    ((sF [{}, {}, { regs := [(8, 0x11), (23, 0x22)] }] 1).ctx 5).depth < ((sF [{}, {}, { regs := [(8, 0x11), (23, 0x22)] }] 1).ctx 5).limit ∧
    ((sF [{}, {}, {}] 1).ctx 5).winBase + ((sF [{}, {}, {}] 1).ctx 5).depth * 136 + 136 ≤ 0x80000 ∧ Memory.wf (sF [{}, {}, {}] 1).mem = true ∧
    runs .windowSpill (sF [{}, {}, { regs := [(8, 0x11), (23, 0x22)] }] 1) (fun t => leVal t.mem (unitLoc 256 0x1088) 8 == 0x11 &&
      leVal t.mem (unitLoc 256 0x1100) 8 == 0x22 && leVal t.mem (unitLoc 256 0x1108) 8 == 0xFFFF && (t.ctx 5).depth == 2 && (t.ctx 5).wins.length == 2 &&
      runs .windowFill { t with ctxs := [(5, { t.ctx 5 with wins := [] })] } (fun u => (u.ctx 5).depth == 1 && (u.ctx 5).wins.all (fun w => mget w.regs 8 0 == 0x11 && mget w.regs 23 0 == 0x22) && (u.ctx 5).wins.length == 1)) = true := by decide +kernel

/-! ### Loads, stores, atomics -/

/-- s10 is the own unit's scratchpad; eight bytes stand at 0x100, one full word at 0x108. -/
def sM (sb : List Store) : State := { one { sreg := [(10, 0xFFFF100000000100), (11, 3), (12, 0xFFFF100000000102), (13, 0xFFFF100000000200)] } { sb := sb } with
  mem := [(unitLoc 256 0x100, 0x81), (unitLoc 256 0x101, 0xFF), (unitLoc 256 0x108, 5)], fe := [unitLoc 256 0x108 / 8] }
/-- A store of another context's nowhere near. -/
def stFar : Store := { id := 9, ctx := 5, pc := 0, size := 3, rs := 1, pieces := [{ va := 0, loc := unitLoc 256 0x300, n := 8, data := 1 }] }

/-- LoadsAndStores: bytes, signed and not, in little-endian order; each with its hypotheses. -/
theorem test_load_hypotheses : canRead (sM [stFar]) 10 ∧ canName (sM [stFar]) 4 ∧ (scalarVa (sM [stFar]) 10 0x3FF 8).toNat % 8 = 0 ∧ (sM []).relOk 5 = true ∧
    resolves (begun (sM [stFar]) (.ld64 4 10 0 0 0)) (scalarVa (sM [stFar]) 10 0 8) accR (unitLoc 256 0x100) (begun (sM [stFar]) (.ld64 4 10 0 0 0)) ∧
    near (begun (sM [stFar]) (.ld64 4 10 0 0 0)) (unitLoc 256 0x100) ∧ noStoreMeets (begun (sM [stFar]) (.ld64 4 10 0 0 0)) (unitLoc 256 0x100) 8 ∧
    sound (begun (sM [stFar]) (.ld64 4 10 0 0 0)) (unitLoc 256 0x100) 8 := by decide +kernel
theorem test_loads : ([(.ld8 4 10 0 0 0, 0xFFFFFFFFFFFFFF81), (.ld8u 4 10 0 0 1, 0xFF), (.ld16 4 10 0 0 0, 0xFFFFFFFFFFFFFF81), (.ld16u 4 10 0 0 0, 0xFF81),
    (.ld32 4 10 0 0 0, 0xFF81), (.ld32u 4 10 0 3 0, 0xFF81), (.ld64 4 10 0 0 1, 5)] : List (Instr × Word)).all (fun p =>
      gives p.1 (sM []) ((written ((begun (sM []) p.1).touch (unitLoc 256 0x100)) 4 p.2).retire false)) = true := by decide +kernel
/-- An address that is no multiple of the size traps with cause 0x05. -/
theorem test_load_misaligned : runs (.ld64 4 12 0 0 0) (sM []) (fun t => (t.ctx 5).held && ((t.ctx 5).trec.getD 0 0).toNat % 128 == 5) = true := by decide +kernel

/-- Stores: a window address resolves at once; any other waits in the buffer. -/
theorem test_store_hypotheses : canRead (sM []) 10 ∧ canRead (sM []) 11 ∧ isWindow (scalarVa (sM []) 10 0 8) = true ∧ storeRoom (begun (sM []) (.stff 11 10 0 0 0)) ∧
    resolves (begun (sM []) (.stff 11 10 0 0 0)) (scalarVa (sM []) 10 0 8) accW (unitLoc 256 0x100) (begun (sM []) (.stff 11 10 0 0 0)) ∧
    isWindow (scalarVa (sM []) 11 0x3FF 1) = false := by decide +kernel
theorem test_stores : gives (.stff 11 10 1 2 0) (sM []) ((entered (begun (sM []) (.stff 11 10 1 2 0)) { id := 0, ctx := 0, pc := 0, size := 3, setFull := true, rel := true, sc := 1, rs := 1, pieces := [{ va := 0xFFFF100000000100, loc := unitLoc 256 0x100, n := 8, data := 3 }] }).retire false) = true ∧
    gives (.st8 11 11 0 0 0x3FF) (sM []) ((entered (begun (sM []) (.st8 11 11 0 0 0x3FF)) { id := 0, ctx := 0, pc := 0, size := 0, pieces := [{ va := 2, n := 1, data := 3 }] }).retire false) = true ∧
    runs (.st16 10 10 0 0 0) (sM []) (fun t => (t.unit 256).sb.any (fun e => e.size == 1 && e.pieces.any (fun p => p.n == 2 && p.data == 0x100))) = true ∧
    runs (.st32 10 10 0 0 0) (sM []) (fun t => (t.unit 256).sb.any (fun e => e.size == 2 && e.pieces.any (fun p => p.n == 4 && p.data == 0x100))) = true ∧
    runs (.st64 10 10 0 3 0) (sM []) (fun t => (t.unit 256).sb.any (fun e => e.ar && e.pieces.any (fun p => p.n == 8 && p.data == 0xFFFF100000000100))) = true := by decide +kernel

/-- The context's own pending store to the word it loads. -/
def stOwn : Store := { id := 1, ctx := 5, pc := 0, size := 3, rs := 1, pieces := [{ va := 0xFFFF100000000100, loc := unitLoc 256 0x100, n := 8, data := 77 }] }
theorem test_load_own_store : (canRead (sM [stOwn]) 10 ∧ canName (sM [stOwn]) 4 ∧
    resolves (begun (sM [stOwn]) (.ld64 4 10 0 0 0)) (scalarVa (sM [stOwn]) 10 0 8) accR (unitLoc 256 0x100) (begun (sM [stOwn]) (.ld64 4 10 0 0 0)) ∧
    near (sM [stOwn]) (unitLoc 256 0x100) ∧ sound (sM [stOwn]) (unitLoc 256 0x100) 8 ∧ ((sM [stOwn]).unit 256).sb = [stOwn]) ∧
    gives (.ld64 4 10 0 0 0) (sM [stOwn]) ((written ((begun (sM [stOwn]) (.ld64 4 10 0 0 0)).touch (unitLoc 256 0x100)) 4 77).retire false) = true := by decide +kernel

/-- FullEmptyAccesses: the full word at 0x108 is taken or read; the empty one at 0x100 is filled, or waited for. -/
theorem test_full_empty_hypotheses : resolves (begun (sM [stFar]) (.ldfe 4 10 0 2 1)) (scalarVa (sM [stFar]) 10 1 8) accFW (unitLoc 256 0x108) (begun (sM [stFar]) (.ldfe 4 10 0 2 1)) ∧
    resolves (begun (sM [stFar]) (.ldff 4 10 0 0 1)) (scalarVa (sM [stFar]) 10 1 8) accFR (unitLoc 256 0x108) (begun (sM [stFar]) (.ldff 4 10 0 0 1)) ∧
    wordFree (sM [stFar]) (unitLoc 256 0x108) ∧ noWaiter (sM [stFar]) (unitLoc 256 0x108) ∧ (sM []).feAt (unitLoc 256 0x108) = true ∧ (sM []).feAt (unitLoc 256 0x100) = false ∧
    Memory.wf (sM []).mem = true ∧ ((sM []).ctx 5).task.active = false := by decide +kernel
theorem test_full_empty : gives (.ldfe 4 10 0 0 1) (sM []) ((written (((begun (sM []) (.ldfe 4 10 0 0 1)).touch (unitLoc 256 0x108)).setFe (unitLoc 256 0x108) false) 4 5).retire false) = true ∧
    gives (.ldff 4 10 0 0 1) (sM []) ((written ((begun (sM []) (.ldff 4 10 0 0 1)).touch (unitLoc 256 0x108)) 4 5).retire false) = true ∧
    runs (.stef 11 10 0 0 0) (sM []) (fun t => t.feAt (unitLoc 256 0x100) && leVal t.mem (unitLoc 256 0x100) 8 == 3 && leVal t.mem (unitLoc 256 0x108) 8 == 5 && (t.ctx 5).pc == 0x404) = true ∧
    runs (.ldfe 4 10 0 0 0) (sM []) (fun t => t.waits.any (fun w => w.req.loc == unitLoc 256 0x100 && w.req.ctx == 5 && w.req.rd == 4) && t.waits.length == 1 && (t.ctx 5).pc == 0x400) = true := by decide +kernel
theorem test_full_empty_in_task : gives (.ldfe 4 10 0 0 0) ((sM []).modCtx 5 (fun x => { x with task := { active := true } }))
    ((begun ((sM []).modCtx 5 (fun x => { x with task := { active := true } })) (.ldfe 4 10 0 0 0)).preciseTrap { cause := 0x18 } ((encode (.ldfe 4 10 0 0 0)).getD 0)) = true := by decide +kernel

/-- AtomicOperations: old values to s4 (a 32-bit one sign-extended), new ones to memory. -/
theorem test_atomic_hypotheses : canRead (sM []) 10 ∧ canRead (sM []) 11 ∧ canName (sM []) 4 ∧ (regVal (sM []) 10).toNat % 8 = 0 ∧ (sM []).relOk 5 = true ∧
    resolves (begun (sM []) (.amoadd 4 10 11 0 2 1)) (regVal (sM []) 10) accFW (unitLoc 256 0x100) (begun (sM []) (.amoadd 4 10 11 0 2 1)) ∧ sound (sM []) (unitLoc 256 0x100) 8 ∧
    near (sM [stFar]) (unitLoc 256 0x100) ∧ wordFree (sM [stFar]) (unitLoc 256 0x100) ∧ canRead (sM []) 4 ∧ Memory.wf (sM []).mem = true := by decide +kernel
/-- What an atomic operation leaves: the old value, the word, and the word after it. -/
def atom (i : Instr) (r : Word) (w : Nat) : Bool := runs i (sM []) (fun t => (t.ctx 5).s 4 == r && leVal t.mem (unitLoc 256 0x100) 8 == w && leVal t.mem (unitLoc 256 0x108) 8 == 5 && (t.ctx 5).pc == 0x404)
theorem test_atomics_1 : atom (.amoadd 4 10 11 0 0 1) 0xFF81 0xFF84 ∧ atom (.amoand 4 10 11 0 0 0) 0xFF81 1 ∧ atom (.amoor 4 10 11 0 0 1) 0xFF81 0xFF83 ∧ atom (.amoxor 4 10 11 0 0 0) 0xFF81 0xFF82 ∧
    atom (.amomin 4 10 11 0 0 1) 0xFF81 3 ∧ atom (.amomax 4 10 11 0 0 1) 0xFF81 0xFF81 ∧ atom (.amominu 4 10 11 0 0 0) 0xFF81 3 ∧ atom (.amomaxu 4 10 11 0 0 0) 0xFF81 0xFF81 := by decide +kernel
theorem test_atomics_2 : atom (.amoswap 4 10 11 0 0 1) 0xFF81 3 ∧ atom (.amocas 4 10 11 0 0 1) 0xFF81 0xFF81 ∧ atom (.amofadd32 4 10 0 0 0) 0xFF81 0xFF81 ∧
    runs (.amocas 4 10 11 0 0 0) ((sM []).modCtx 5 (fun x => { x with sreg := mset x.sreg 4 0xFF81 })) (fun t => (t.ctx 5).s 4 == 0xFF81 && leVal t.mem (unitLoc 256 0x100) 8 == 3) ∧
    runs (.amobfadd2 4 10 11 0 0) ({ (sM []).modCtx 5 (fun x => { x with sreg := mset x.sreg 11 0x3F803F80 }) with mem := memWrite [] (unitLoc 256 0x100) [0x80, 0x3F, 0, 0x40] })
      (fun t => leVal t.mem (unitLoc 256 0x100) 4 == 0x40404000) := by decide +kernel

/-- QueuedLoadsAndOrdering: a place in the queue; a fence whose stores have ended or that waits for reads alone; a drain. -/
def sQ : State := (sM []).modCtx 5 (fun x => { x with ports := [(2, { kind := 1, ldq := List.replicate 7 { id := 3, loc := 0, arrived := true } })] })
theorem test_ldq : (mget (sQ.ctx 5).ports (2 : BitVec 3).toNat {} = ({ kind := 1, ldq := List.replicate 7 { id := 3, loc := 0, arrived := true } } : Port) ∧
    resolves (begun sQ (.ldq 2 10 1)) (scalarVa sQ 10 1 8) accR (unitLoc 256 0x108) (begun sQ (.ldq 2 10 1)) ∧ isRegBlock (unitLoc 256 0x108) = false) ∧
    runs (.ldq 2 10 1) sQ (fun t => ((mget (t.ctx 5).ports 2 {}).ldq.getD 7 { id := 0, loc := 0 }) == { id := 0, loc := unitLoc 256 0x108, va := 0xFFFF100000000108 }) = true := by decide +kernel
theorem test_fence_drain : ((∀ e ∈ ((sM [{ stFar with rs := 2 }]).unit 256).sb, e.ctx = 5 → e.rs = 2) ∧ (∀ e ∈ ((sM [stFar]).unit 256).sb, e.id ∉ ((sM []).dirE 5).sibRead) ∧
      ((sM []).ctx 5).ldqOut = [] ∧ (sM []).enginesBusy 5 = false ∧ (sQ.ctx 5).ldqOut = []) ∧
    gives (.fence 15 1 2) (sM [{ stFar with rs := 2 }]) ((begun (sM [{ stFar with rs := 2 }]) (.fence 15 1 2)).retire false) = true ∧
    gives (.fence 12 0 2) (sM [stFar]) ((begun (sM [stFar]) (.fence 12 0 2)).retire false) = true ∧
    ((∀ e ∈ ((sM [{ stFar with ctx := 6 }]).unit 256).sb, e.ctx ≠ 5) ∧ ((sM []).dirE 5).unacked = 0) ∧
    gives .drain (sM [{ stFar with ctx := 6 }]) (((begun (sM [{ stFar with ctx := 6 }]) .drain).retire false).modDir 5 (fun d => { d with drained := true })) = true := by decide +kernel

/-! ### Control registers and ports -/

/-- A supervisor with some control registers. -/
def sC (sup : Bool) : State := one { sup := sup, sreg := [(9, 0xFFFFFFFFFFFFFFFF)], csr := [(0x10, 0x3F800000), (0x11, 1), (0x40, 9), (0x100, 3)], ovr := { v := true, idx := 2 } } {}
theorem test_csr_reads : (canName (sC true) 4 ∧ (sC true).flagsDue 5 = false ∧ ((sC true).ctx 5).sup = true ∧ ((sC false).ctx 5).sup = false) ∧
    gives (.csrr 4 0x40) (sC false) ((written (begun (sC false) (.csrr 4 0x40)) 4 9).retire false) = true ∧ gives (.csrr 4 0x100) (sC true) ((written (begun (sC true) (.csrr 4 0x100)) 4 3).retire false) = true ∧
    runs (.csrr 4 0x11) (sC false) (fun t => (t.ctx 5).s 4 == 1 && (t.ctx 5).pc == 0x404) = true ∧ gives (.csrr 4 0x1FF) (sC false) (trapped (sC false) (.csrr 4 0x1FF) 0x04) = true := by decide +kernel
theorem test_csr_writes : canRead (sC true) 9 ∧
    gives (.csrw 9 0x10) (sC true) (((begun (sC true) (.csrw 9 0x10)).modCtx 5 (fun x => x.csrSet 0x10 0xFFFF008F)).retire false) = true ∧
    gives (.csrw 0 0x10) (sC true) (((begun (sC true) (.csrw 0 0x10)).modCtx 5 (fun x => x.csrSet 0x10 0)).retire false) = true ∧
    runs (.csrw 0 0x11) (sC true) (fun t => (t.ctx 5).csrGet 0x11 == 0 && (t.ctx 5).pc == 0x404) = true ∧
    gives (.csrw 9 0x50) (sC true) (((begun (sC true) (.csrw 9 0x50)).modCtx 5 (fun x => { x with ovr := {} })).retire false) = true ∧
    gives (.csrw 9 0x100) (sC false) (trapped (sC false) (.csrw 9 0x100) 0x04) = true ∧
    ([0x11, 0x18, 0x28, 0x29, 0x30, 0x102] : List Nat).all (fun n => runs (.csrw 9 (BitVec.ofNat 14 n)) (sC true) (fun t => (t.ctx 5).csrGet n == rwBits n)) = true := by decide +kernel
theorem test_csr_steps : (mfind (sC true).ctxs 5).isSome = true ∧ (sC true).flagsDue 5 = false ∧
    runs .fpFlagsSync { (sC true).modDir 5 (fun d => { d with flagsAcc := 6 }) with arg := { n0 := 5 } } (fun t => (t.ctx 5).csrGet 0x11 == 7 && (t.dirE 5).flagsAcc == 0) = true ∧
    gives .ovrInfoClear { sC true with arg := { n0 := 5 } } (({ sC true with arg := { n0 := 5 } } : State).modCtx 5 (fun x => { x with ovr := {} })) = true := by decide +kernel

/-- QueuePortsBind: a free direction and one the unit has no neighbour in; a ring; a ring number above 7; counts. -/
theorem test_qbind : gives (.qbindUn 1) sA (((begun sA (.qbindUn 1)).modCtx 5 (fun x => { x with ports := mset x.ports 1 {} })).retire false) = true ∧
    runs (.qbindLd 3) sA (fun t => (mget (t.ctx 5).ports 3 {}).kind == 1) = true ∧
    (neighbour 256 1 = some 257 ∧ neighbour 256 3 = none ∧ sA.dirTaken 5 256 2 1 = false) ∧
    gives (.qbindTx 3 1) sA (((begun sA (.qbindTx 3 1)).modCtx 5 (fun x => { x with ports := mset x.ports 3 { kind := 2, dir := 1 } })).retire false) = true ∧
    gives (.qbindRx 3 3) sA (trapped sA (.qbindRx 3 3) 0x06) = true ∧ (canRead sA 1 ∧ canRead sA 2) ∧
    gives (.qbindRr 3 1) sA (((begun sA (.qbindRr 3 1)).modCtx 5 (fun x => { x with ports := mset x.ports 3 { kind := 4, ring := 7 } })).retire false) = true ∧
    gives (.qbindRr 3 2) sA (trapped sA (.qbindRr 3 2) 0x06) = true ∧
    gives (.qstat 4 0) sA ((written (begun sA (.qstat 4 0)) 4 (sA.qstatWord 256 1 (mget (sA.ctx 5).ports 0 {}))).retire false) = true := by decide +kernel

/-! ### The wide side -/

/-- Three entries in the dispatch queue, and a vector and mask file. -/
def sV (n : Nat) : State := one { sreg := [(9, 4), (10, 0xFFFF100000000100), (11, 0)], dq := List.replicate n { word := 0x7A000000, pc := 0, scalars := [] }
                                  vreg := [(4, 0x0000000700000005), (5, 0xFFFFFFFF00000003)], kreg := [(2, 3)] } {}
theorem test_wide_queues : ((sV 3).ctx 5).dq.length < 4 ∧ canRead (sV 3) 9 ∧ canName (sV 3) 6 ∧
    ([.vadd 8 4 5 2 0 0 4, .vcmpeq 1 4 5 2 0 0 4, .vabs 8 4 2 0 4, .vslideu 8 4 2 0 4 1, .viota 8 1 2 0 4, .kand 1 2 3, .astV 8 1 0 4] : List Instr).all (fun i =>
      gives i (sV 3) ((queued (sV 3) i []).retire false)) = true ∧
    ([.vmul 8 4 9 2 0 1 4, .vcmplt 1 4 9 2 0 1 4, .vmvScalar 8 9 2 0 4, .vtopk 8 4 9 2 0 4] : List Instr).all (fun i =>
      gives i (sV 3) ((queued (sV 3) i [4]).retire false)) = true ∧
    gives (.vredsum 6 4 2 0 4) (sV 3) (((queued (sV 3) (.vredsum 6 4 2 0 4) []).modCtx 5 (fun x => { x with sFull := putBit x.sFull 6 false, outst := putBit x.outst 6 true })).retire false) = true := by decide +kernel
/-- An entry at the head: the sum of v4 and v5 in elements 0 and 1, which k2 makes active. -/
def sHead : State := { (sV 0).modCtx 5 (fun x => { x with dq := [{ word := 0x40_42_0A_84, pc := 0, scalars := [] }] }) with arg := { n0 := 5 } }
theorem test_head_ready : (sHead.dirE 5).place = .slot 256 0 ∧ decode 0x40420A84 = .instr (.vadd 8 8 5 2 0 0 4) ∧ headReady sHead 5 (.vadd 8 8 5 2 0 0 4) := by
  refine ⟨by decide +kernel, by decide +kernel, by decide +kernel, by decide +kernel, fun a w h => ?_⟩
  simp [wideAcc] at h
theorem test_head_runs : runs .wideInstructionAtHead sHead (fun t => (t.ctx 5).elt 8 32 0 == 3 && (t.ctx 5).elt 8 32 1 == 0xFFFFFFFF && (t.ctx 5).elt 8 32 2 == 0 && ((t.ctx 5).dq == [])) = true ∧
    runs .scalarResultReturn ({ (sV 0).modCtx 5 (fun x => { x with results := [(6, 8)], outst := 64, sFull := 0 }) with arg := { n0 := 5 } }) (fun t =>
      (t.ctx 5).s 6 == 8 && bit (t.ctx 5).sFull 6 && !bit (t.ctx 5).outst 6) = true := by decide +kernel
/-- VectorResults: fmt.cfg at reset has ISAT 0, the sum wraps. -/
theorem test_vadd_wraps : bit (0x3F800000 : Word) 3 = false ∧ ((wideEffect (.vadd 8 4 5 2 0 0 4) { fmt := 0x3F800000, sc := [] } ((sV 0).ctx 5)).1).elt 8 32 1 = 6 := by decide +kernel
/-- LoadedElementsEnterTheirGroup: the last element of a group of two registers of bytes. -/
theorem test_load_group : 511 < eltCount 1 6 ∧ ((({} : Ctx).loadGroup 4 8 512 [(511, 9)]).elt 4 8 511 = 9) ∧ ((({} : Ctx).loadGroup 4 8 512 [(511, 9)]).elt 4 8 510 = 0) := by decide +kernel

/-- Vector memory: one active element, its address in the own scratchpad. -/
def sVM : State := { (sV 0).modCtx 5 (fun x => { x with kreg := [(1, 1)] }) with mem := [(unitLoc 256 0x100, 0x34), (unitLoc 256 0x101, 0x12)] }
theorem test_vector_load_hypotheses : (canRead sVM 10 ∧ canRead sVM 11 ∧ (sVM.ctx 5).dq = [] ∧ sumOk (regVal sVM 10) (regVal sVM 11) 2 ∧ strideFits (regVal sVM 10) (regVal sVM 11) 2 ∧
    activeOf sVM 1 (eltCount 0 5) = [0] ∧ storeRoom sVM ∧ settled sVM 1 [] ∧ settled sVM 0 (rangeFrom 9 1)) ∧
    Homes accR (begun sVM (.vld 8 10 11 1 0 5)) [0xFFFF100000000100] [unitLoc 256 0x100] (begun sVM (.vld 8 10 11 1 0 5)) ∧
    Reads 2 (begun sVM (.vld 8 10 11 1 0 5)) [unitLoc 256 0x100] [0x1234] (begun sVM (.vld 8 10 11 1 0 5)) ∧
    Homes accW (begun sVM (.vst 4 10 11 1 0 0 5)) [0xFFFF100000000100] [unitLoc 256 0x100] (begun sVM (.vst 4 10 11 1 0 0 5)) :=
  ⟨by decide +kernel, homes_of (by decide +kernel), reads_of (by decide +kernel), homes_of (by decide +kernel)⟩
theorem test_vector_loads : gives (.vld 8 10 11 1 0 5) sVM (((begun sVM (.vld 8 10 11 1 0 5)).modCtx 5 (fun x => x.loadGroup 8 16 128 [(0, 0x1234)])).retire false) = true ∧
    gives (.vlds 8 10 11 1 0 5) sVM (((begun sVM (.vlds 8 10 11 1 0 5)).modCtx 5 (fun x => x.loadGroup 8 16 128 [(0, 0x1234)])).retire false) = true ∧
    runs (.vgath 8 10 9 1 0 5) sVM (fun t => (t.ctx 5).elt 8 16 0 == 0x1234 && (t.ctx 5).k 1 == 0) = true := by decide +kernel
theorem test_vector_stores : gives (.vst 4 10 11 1 0 0 5) sVM ((vectorStored (begun sVM (.vst 4 10 11 1 0 0 5)) (.vst 4 10 11 1 0 0 5) [regVal sVM 10, regVal sVM 11] [0] [0xFFFF100000000100] [unitLoc 256 0x100] 2 false none 0).retire false) = true ∧
    gives (.vsts 4 10 11 1 0 1 5) sVM ((vectorStored (begun sVM (.vsts 4 10 11 1 0 1 5)) (.vsts 4 10 11 1 0 1 5) [regVal sVM 10, regVal sVM 11] [0] [0xFFFF100000000100] [unitLoc 256 0x100] 2 true none 0).retire false) = true ∧
    gives (.vscat 4 10 9 1 0 0 5) sVM ((vectorStored (begun sVM (.vscat 4 10 9 1 0 0 5)) (.vscat 4 10 9 1 0 0 5) [regVal sVM 10, regVal sVM 9] [0] [0xFFFF100000000106] [unitLoc 256 0x106] 2 false none 0).retire false) = true ∧
    gives (.vscadd 4 10 9 1 0 0 5) sVM ((vectorStored (begun sVM (.vscadd 4 10 9 1 0 0 5)) (.vscadd 4 10 9 1 0 0 5) [regVal sVM 10, regVal sVM 9] [0] [0xFFFF100000000106] [unitLoc 256 0x106] 2 false (some 5) 0).retire false) = true := by decide +kernel
/-- A gather whose active index lies outside the table: no read, a zero element, its bit in the mask. -/
theorem test_gather_bad_index : ((sVM.ctx 5).badIndex 9 16 (regVal sVM 12) 0 = true ∧ bit (regVal sVM 12) 63 = false) ∧
    Homes accR (begun sVM (.vgath 8 10 12 1 0 5)) [] [] (begun sVM (.vgath 8 10 12 1 0 5)) ∧ runs (.vgath 8 10 12 1 0 5) sVM (fun t => (t.ctx 5).elt 8 16 0 == 0 && (t.ctx 5).k 1 == 1) = true :=
  ⟨by decide +kernel, ⟨rfl, rfl⟩, by decide +kernel⟩
/-- The eight-byte pieces of a mask, the rows of an accumulator, the columns of a codebook. -/
theorem test_mask_loads : Homes accR (begun sVM (.kld 1 10 11)) [0xFFFF100000000100, 0xFFFF100000000108, 0xFFFF100000000110, 0xFFFF100000000118]
      [unitLoc 256 0x100, unitLoc 256 0x108, unitLoc 256 0x110, unitLoc 256 0x118] (begun sVM (.kld 1 10 11)) ∧
    runs (.kld 1 10 11) sVM (fun t => (t.ctx 5).k 1 == 0x1234) = true ∧ runs (.cbld 1 10) sVM (fun t => mget (t.ctx 5).cb 1 0 == 0x1234) = true ∧
    runs (.kst 1 10 11 0) sVM (fun t => (t.unit 256).sb.all (fun e => e.pieces.length == 4 && !e.data && e.rs == 1) && (t.ctx 5).dq.length == 1) = true :=
  ⟨homes_of (by decide +kernel), by decide +kernel, by decide +kernel, by decide +kernel⟩
theorem test_accumulator_moves : (sVM.accBusy 5 1 = false ∧ (16 * (tyWidth 4 / 8)) % 4 = 0) ∧
    runs (.ald 1 0 10 4) sVM (fun t => (mget (t.ctx 5).areg 1 0).toNat % 2 ^ 32 == 0x1234 && bit (t.ctx 5).aInt 1) = true ∧
    runs (.ast 0 1 10 0 0 4) sVM (fun t => (t.unit 256).sb.all (fun e => e.pieces.length == 256) && (t.ctx 5).dq.length == 1) = true := by decide +kernel

/-! ### Engine commands -/

/-- One row of four doublewords. -/
def hCopy : BitVec 512 := shp [(0, 1), (1, 4), (4, 8), (6, 8), (8, 0xC0)]
def sCopy : State := sE [(1, hCopy)] []
theorem test_copy_hypotheses : (canRead sCopy 9 ∧ canRead sCopy 10 ∧ canName sCopy 4 ∧ CopyFields (shapeAt sCopy 1) 1 false false ∧ CopyFields (shapeAt sCopy 1) 1 true false ∧
    Multiples [((regVal sCopy 10).toNat : Int), ((regVal sCopy 9).toNat : Int), 8, 0, 8, 0] 8 ∧ spanOf (copyShape hCopy) 8 0 = (0, 32) ∧ schedFree sCopy ∧
    apart [regn 0x800 32] [regn 0x400 32] ∧ apart [] [regn 0x400 32]) ∧
    Operand sCopy (regVal sCopy 10) 0 32 accR (opn 0x800) (regn 0x800 32) ∧ Operand sCopy (regVal sCopy 9) 0 32 accW (opn 0x400) (regn 0x400 32) :=
  ⟨by decide +kernel, operand_of 0x7F800 (unitLoc 256 0x800) (by decide +kernel), operand_of 0x7FC00 (unitLoc 256 0x400) (by decide +kernel)⟩
theorem test_copy_accepted : gives (.cpy 4 9 10 1) sCopy ((accepted sCopy (.cpy 4 9 10 1) 4 { command sCopy (.cpy 4 9 10 1) with shape := hCopy, ops := [opn 0x400, opn 0x800], reads := [regn 0x800 32], writes := [regn 0x400 32] }).retire false) = true ∧
    gives (.fill 4 9 12 1) sCopy ((accepted sCopy (.fill 4 9 12 1) 4 { command sCopy (.fill 4 9 12 1) with shape := hCopy, ops := [opn 0x400], args := [1], writes := [regn 0x400 32] }).retire false) = true := by decide +kernel

/-- Two indices into rows of one doubleword, with a miss bitmap for the gather. -/
def hIdx (mbe : Nat) : BitVec 512 := shp [(0, 2 + mbe * 2048), (1, 2), (2, 2), (4, 8), (6, 8), (8, 0xC0), (12, 0x100)]
def sIdx : State := sE [(1, hIdx 0), (2, hIdx 1)] []
theorem test_index_hypotheses : (canRead sIdx 9 ∧ canRead sIdx 10 ∧ canRead sIdx 11 ∧ CopyFields (shapeAt sIdx 1) 2 false true ∧ CopyFields (shapeAt sIdx 2) 2 false true ∧
    rowSpan (copyShape (hIdx 0)) 2 8 = (0, 16) ∧ Multiples [((regVal sIdx 10).toNat : Int), ((regVal sIdx 9).toNat : Int), 8, 8] 8 ∧ (regVal sIdx 11).toNat % 4 = 0 ∧
    (copyShape (hIdx 1)).sp % 8 = 0 ∧ apart [regn 0xC00 8, regn 0x800 16] [regn 0x400 16, homeRegion (unitLoc 256 0x100) 1] ∧ schedFree sIdx) ∧
    Operand sIdx (regVal sIdx 11) 0 8 accR (opn 0xC00) (regn 0xC00 8) ∧ Operand sIdx (regVal sIdx 10) 0 16 accR (opn 0x800) (regn 0x800 16) ∧
    Operand sIdx (regVal sIdx 9) 0 16 accW (opn 0x400) (regn 0x400 16) :=
  ⟨by decide +kernel, operand_of 0x7F400 (unitLoc 256 0xC00) (by decide +kernel), operand_of 0x7F800 (unitLoc 256 0x800) (by decide +kernel), operand_of 0x7FC00 (unitLoc 256 0x400) (by decide +kernel)⟩
theorem test_index_accepted : gives (.gath 11 9 10 2) sIdx ((accepted sIdx (.gath 11 9 10 2) 11 { command sIdx (.gath 11 9 10 2) with shape := hIdx 1, ops := [opn 0x400, opn 0x800, opn 0xC00], reads := [regn 0xC00 8, regn 0x800 16], writes := [regn 0x400 16, homeRegion (unitLoc 256 0x100) 1] }).retire false) = true ∧
    gives (.scat 11 9 10 1) sIdx ((accepted sIdx (.scat 11 9 10 1) 11 { command sIdx (.scat 11 9 10 1) with shape := hIdx 0, ops := [opn 0x400, opn 0x800, opn 0xC00], reads := [regn 0xC00 8, regn 0x800 16], writes := [regn 0x400 16] }).retire false) = true := by decide +kernel

/-- One granule. -/
def sTile : State := sE [(1, shp [(1, 1)])] []
theorem test_tile_hypotheses : (1 ≤ shapeF (shapeAt sTile 1) 1 ∧ tagOk (shapeF (shapeAt sTile 1) 8 / 2 ^ 16) = true ∧ (regVal sTile 11).toNat % 1024 = 0 ∧ (regVal sTile 9).toNat % 1024 = 0 ∧ isWindow (regVal sTile 9) = true ∧ canName sTile 4) ∧
    Operand sTile (regVal sTile 11) 0 ((1024 * 1 : Nat) : Int) accR (opn 0xC00) (regn 0xC00 1024) ∧ Operand sTile (regVal sTile 9) 0 ((1024 * 1 : Nat) : Int) accW (opn 0x400) (regn 0x400 1024) :=
  ⟨by decide +kernel, operand_of 0x7F400 (unitLoc 256 0xC00) (by decide +kernel), operand_of 0x7FC00 (unitLoc 256 0x400) (by decide +kernel)⟩
theorem test_tile_accepted : ([.tmov 4 9 11 1, .tmovTg 4 9 11 1] : List Instr).all (fun i => gives i sTile ((accepted sTile i 4 { command sTile i with shape := shp [(1, 1)], ops := [opn 0x400, opn 0xC00], reads := [regn 0xC00 1024], writes := [regn 0x400 1024] }).retire false)) = true := by decide +kernel

/-- A collective over units 0 and 3 of Croft: a broadcast within windows of the units. -/
def hColl : BitVec 512 := shp [(0, 3 + 0x40000), (1, 4), (8, 0x44)]
def sColl : State := (sE [(1, shp [(0, 3), (1, 4), (8, 0xC0)])] []).modCtx 5 (fun x => { x with sreg := mset x.sreg 12 9 })
theorem test_collective : (canRead sColl 9 ∧ canRead sColl 12 ∧ canRead sColl 10 ∧ CopyFields (shapeAt sColl 1) 3 false false ∧ (copyShape (shapeAt sColl 1)).cop < 5 ∧ (regVal sColl 12).toNat < 2 ^ 16 ∧
    isWindow (regVal sColl 9) = true ∧ bits (regVal sColl 9) 47 44 = 1 ∧ regVal sColl 12 ≠ 0 ∧ apart (declared 256 false true (opn 0x800) (regn 0x800 32)) (declared 256 true true (opn 0x400) (regn 0x400 32)) ∧ schedFree sColl) ∧
    gives (.coll 10 9 12 1) sColl ((accepted sColl (.coll 10 9 12 1) 10 { command sColl (.coll 10 9 12 1) with shape := shp [(0, 3), (1, 4), (8, 0xC0)], ops := [opn 0x400, opn 0x800], args := [9], reads := declared 256 false true (opn 0x800) (regn 0x800 32), writes := declared 256 true true (opn 0x400) (regn 0x400 32) }).retire false) = true := by decide +kernel

/-- TagsReadAndWritten: the granule at 0x400 has tag 0x60F0. -/
def sTag : State := ({ sE [] [] with tags := [(unitLoc 256 0x400 / 1024, 0x60F0)] } : State).modCtx 5 (fun x => { x with sreg := mset x.sreg 12 0x60F060D0 })
theorem test_tag_hypotheses : canRead sTag 9 ∧ canRead sTag 12 ∧ canName sTag 4 ∧ TagHome sTag (regVal sTag 9) accW (unitLoc 256 0x400) ∧ TagHome sTag (regVal sTag 9) accR (unitLoc 256 0x400) ∧
    taggedHome (unitLoc 256 0x400) ∧ tagOk ((regVal sTag 12).toNat % 2 ^ 16) = true ∧ tagFree sTag (unitLoc 256 0x400) := by decide +kernel
theorem test_tags : runs (.ttag 4 9 12) sTag (fun t => (t.ctx 5).s 4 == 0x60F0 && t.tagAt (unitLoc 256 0x400) == 0x60D0 && t.tagAt (unitLoc 256 0x800) == 0) = true ∧
    runs (.ttagCas 4 9 12) sTag (fun t => t.tagAt (unitLoc 256 0x400) == 0x60D0 && runs (.ttagCas 4 9 12) t (fun u => u.tagAt (unitLoc 256 0x400) == 0x60D0 && (u.ctx 5).s 4 == 0x60D0)) = true ∧
    gives (.tget 4 9) sTag ((written ((begun sTag (.tget 4 9)).touch (unitLoc 256 0x400)) 4 0x60F0).retire false) = true := by decide +kernel

/-- CommandsRunAndReport: a FILL of two doublewords accepted by context 5, not begun or under way. -/
def kFill (b : Bool) : Cmd := { seq := 7, issuer := 5, no := 1, lunit := 3, pc := 0, word := 0x934A6020, ops := [opn 0x400], args := [0x0102030405060708], shape := shp [(0, 1), (1, 2), (6, 8), (8, 0xC0)], part := 1, ctx := 5, writes := [regn 0x400 16], started := b }
def sK (b : Bool) : State := { sE [] [kFill b] with arg := { n0 := 256, n1 := 7 } }
theorem test_command_status : (canRead (sK true) 9 ∧ canName (sK true) 4 ∧ (0x0000000380000005 : Word).toNat < 2 ^ 41 ∧ (0x0000000380000005 : Word).toNat / 2 ^ 24 % 256 = 128 ∧ (0x0000000380000005 : Word).toNat / 2 ^ 32 = ((sK true).dirE 5).home) ∧
    (∃ k ∈ ((sK true).unit 256).cmds, k.seq = 7) ∧ ((sK true).unit 256).status 7 = 1 ∧ ((sK true).unit 256).status 8 = 4 ∧ (∀ k ∈ ((sK true).unit 256).cmds, k.seq ≠ 8) := by decide +kernel
theorem test_command_waits : gives (.xstat 4 9) ((sK true).modCtx 5 (fun x => { x with sreg := [(9, 0x380000007)] })) ((written (begun ((sK true).modCtx 5 (fun x => { x with sreg := [(9, 0x380000007)] })) (.xstat 4 9)) 4 1).retire false) = true ∧
    gives (.xwait 4 9) ((sK true).modCtx 5 (fun x => { x with sreg := [(9, 0x380000008)] })) ((written (begun ((sK true).modCtx 5 (fun x => { x with sreg := [(9, 0x380000008)] })) (.xwait 4 9)) 4 4).retire false) = true ∧
    ((sE [] []).enginesBusy 5 = false ∧ (sK true).enginesBusy 5 = true) ∧ runs (.xwaitAll 4) ((sE [] []).modDir 5 (fun d => { d with xfail := 0xAB })) (fun t => (t.ctx 5).s 4 == 0xAB && (t.dirE 5).xfail == 0) = true := by decide +kernel
theorem test_command_starts : ((sK false).cmdOf 256 7 false = some (kFill false) ∧ (sK false).canStart 256 (kFill false) = true) ∧
    gives .engineCommandStart (sK false) ((sK false).modUnit 256 (fun x => { x with cmds := [kFill true] })) = true := by decide +kernel
theorem test_command_completes : ((sK true).powered 256 = true ∧ (sK true).cmdOf 256 7 true = some (kFill true) ∧ (match runCmd (sK true) 256 (kFill true) with | .ok _ 0 0 0 => true | _ => false) = true) ∧
    runs .engineCommandComplete (sK true) (fun t => leVal t.mem (unitLoc 256 0x400) 8 == 0x0102030405060708 && leVal t.mem (unitLoc 256 0x408) 8 == 0x0102030405060708 && leVal t.mem (unitLoc 256 0x410) 8 == 0 &&
      ((t.unit 256).cmds == []) && (t.unit 256).status 7 == statusWord 0 0 0 0 && (t.dirE 5).event) = true := by decide +kernel
/-- A matrix command whose slot stopped being full ends in a fault; an internal error of a command that can be replayed, and of one that cannot. -/
def kBad : Cmd := { kFill true with word := 0xA6000000, shape := shp [(0, 5)], ops := [opn 0x400, opn 0x800, opn 0xC00] }
theorem test_command_fault : (match runCmd ((sE [] [kBad])) 256 kBad with | .fault _ c _ _ _ => c == 0x07 | _ => false) = true ∧ (sE [] [kBad]).faultRoom kBad = true ∧ (sE [] [kBad]).cmdOf 256 7 true = some kBad ∧
    runs .engineFault { sE [] [kBad] with arg := { n0 := 256, n1 := 7 } } (fun t => ((t.unit 256).cmds == []) && (t.unit 256).sfq.any (fun r => r.ctx == 5 && r.orig == 0x07 || r.cause == 0x07)) = true := by decide +kernel
theorem test_command_error : (sK true).canReplay (kFill true) = true ∧ gives .engineError (sK true) ((sK true).logR 16 0x44 0) = true ∧
    (({ sK true with arg := { n0 := 256, n1 := 7, v := 1 } } : State).faultRoom (kFill true) = true) := by decide +kernel
/-- FillWritesItsRange: two doublewords, no strides. -/
def kLine : Cmd := { kFill true with shape := shp [(0, 1), (1, 2), (8, 0xC0)] }
theorem test_fill_hypotheses : (copyShape kLine.shape = { copyShape kLine.shape with fem := 0, n1 := 1, n2 := 1, ss0 := 0, ss1 := 0, ds0 := 0, ds1 := 0, otag := 0, e := 8 }) ∧
    kLine.ops = [opn 0x400] ∧ (sK true).badLinks = [] ∧ 2 ^ 50 ≤ unitLoc 256 0x400 ∧ unitLoc 256 0x400 % 8 = 0 ∧ Memory.wf (sK true).mem = true ∧
    (match runFill (sK true) 256 kLine with | .ok t 0 0 0 => leVal t.mem (unitLoc 256 0x408) 8 == 0x0102030405060708 && memGet t.mem (unitLoc 256 0x410) == 0 | _ => false) = true := by
  refine ⟨?_, by decide +kernel⟩
  have h : (copyShape kLine.shape).fem = 0 ∧ (copyShape kLine.shape).n1 = 1 ∧ (copyShape kLine.shape).n2 = 1 ∧ (copyShape kLine.shape).ss0 = 0 ∧ (copyShape kLine.shape).ss1 = 0 ∧
      (copyShape kLine.shape).ds0 = 0 ∧ (copyShape kLine.shape).ds1 = 0 ∧ (copyShape kLine.shape).otag = 0 ∧ (copyShape kLine.shape).e = 8 := by decide +kernel
  generalize copyShape kLine.shape = q at h ⊢
  obtain ⟨h1, h2, h3, h4, h5, h6, h7, h8, h9⟩ := h
  cases q; simp_all

/-! ### Matrix commands, shapes and handles -/

/-- Handles 0 and 1 of one slot of one granule each, slots full. -/
def hnd (b st : Nat) : Handle := { part := 1, base := b, ssize := 1, nslot := 1, slots := [st] }
/-- One step of I8 products. -/
def hMat (f : Nat) : BitVec 512 := shp [(0, 4), (8, f), (9, 1)]
def sMat (f st : Nat) (aInt : BitVec 8) : State := (one { sreg := [(9, 0x100), (10, 0xFFFF100000000800), (11, 0xFFFF100000000C00)], hreg := [(3, hMat f)], aInt := aInt } { bt := [(0, hnd 0 st), (1, hnd 1 st)] })
theorem test_matrix_hypotheses : ((sMat 6 3 0).ctx 5).dq = [] ∧ ((sMat 6 3 0).unit 256).handle ((sMat 6 3 0).dirE 5).part 0 = some (hnd 0 3) ∧ ((sMat 6 3 0).unit 256).handle 1 1 = some (hnd 1 3) ∧
    matShapeOk (shapeAt (sMat 6 3 0) 3) = true ∧ (matShape (shapeAt (sMat 6 3 0) 3)).a * (matShape (shapeAt (sMat 6 3 0) 3)).ksteps ≤ 1 ∧ (matShape (shapeAt (sMat 6 3 0) 3)).scl = false ∧
    (matShape (shapeAt (sMat 6 3 0) 3)).spc = 0 ∧ (hnd 0 3).slot 0 = 3 ∧ (hnd 0 2).slot 0 = 2 ∧ schedFree (sMat 6 3 0) ∧
    (sMat 6 3 0).accFull 5 0 = true ∧ (sMat 6 3 (if (matShape (hMat 6)).int then 1 else 0)).accMode 5 0 = (matShape (hMat 6)).int := by decide +kernel
/-- What acceptance of a command leaves: the accumulator named, and whether the handles moved on. -/
def took (i : Instr) (s : State) : Bool := runs i s (fun t => (t.unit 256).cmds.any (fun k => k.acc == some (5, 0) && k.issuer == 5 && k.shape == shapeAt s 3 && !k.started) && (t.ctx 5).pc == 0x404)
theorem test_matrix_accepted : took (.mmaz 0 0 1 3 0 0 0) (sMat 6 3 0) = true ∧ took (.mmaz 0 0 1 3 1 0 0) (sMat 6 2 0) = true ∧
    took (.mma 0 0 1 3 0 1 1) (sMat 6 3 (if (matShape (hMat 6)).int then 1 else 0)) = true ∧ took (.mmas 0 0 1 3 0 0 0) (sMat 6 3 (if (matShape (hMat 6)).int then 1 else 0)) = true ∧
    runs (.azeroI32 0) (sMat 6 3 0) (fun t => (t.unit 256).cmds.any (fun k => k.acc == some (5, 0)) && (t.ctx 5).pc == 0x404) = true ∧
    gives (.azeroF32 0) (sMat 6 3 0) ((scheduled (begun (sMat 6 3 0) (.azeroF32 0)) { command (sMat 6 3 0) (.azeroF32 0) with shape := shapeAt (sMat 6 3 0) 0, acc := some (5, 0) }).retire false) = true := by decide +kernel
/-- A matrix of two rows of four elements, the vector and the result in the scratchpad, no scales. -/
def sGemv : State := { sMat 6 3 0 with island := { st := 0 } }.modCtx 5 (fun x => { x with hreg := [(3, shp [(0, 6), (1, 2), (2, 4), (4, 256), (8, 1)])] })
theorem test_gemv : (sGemv.island.st = 0 ∧ gemvShapeOk (shapeAt sGemv 3) = true ∧ (regVal sGemv 9).toNat % 256 = 0 ∧ (gemvShape (shapeAt sGemv 3)).rs % 256 = 0 ∧ (regVal sGemv 10).toNat % 2 = 0 ∧ (regVal sGemv 11).toNat % 4 = 0 ∧ isWindow (regVal sGemv 9) = false ∧
      (gemvShape (shapeAt sGemv 3)).span = (0, 512) ∧ (gemvShape (shapeAt sGemv 3)).scl = false ∧ apart [{ lo := 0x100, len := 512 }, regn 0x800 8] [regn 0xC00 8]) ∧
    Operand sGemv (regVal sGemv 10) 0 ((2 * 4 : Nat) : Int) accR (opn 0x800) (regn 0x800 8) ∧ Operand sGemv (regVal sGemv 11) 0 ((4 * 2 : Nat) : Int) accW (opn 0xC00) (regn 0xC00 8) ∧
    Operand sGemv (regVal sGemv 9) 0 512 accR { va := 0x100 } { lo := 0x100, len := 512 } ∧
    gives (.cgemv 11 9 10 3) sGemv ((accepted sGemv (.cgemv 11 9 10 3) 11 { command sGemv (.cgemv 11 9 10 3) with
      shape := shapeAt sGemv 3, ops := [{ va := 0x100 }, opn 0x800, opn 0xC00, { va := 0, home := some ((hnd 0 3).cLoc 256) }], cbs := [0]
      reads := [{ lo := 0x100, len := 512 }, regn 0x800 8], writes := [regn 0xC00 8] }).retire false) = true :=
  ⟨by decide +kernel, operand_of 0x7F800 (unitLoc 256 0x800) (by decide +kernel), operand_of 0x7F400 (unitLoc 256 0xC00) (by decide +kernel),
    by unfold Operand; rw [if_neg (by decide +kernel)]; decide +kernel, by decide +kernel⟩

/-- ShapeRegisters: an image at 0x400 with a field 3, and one whose reserved part is not zero. -/
def sHld (m : List Host.Cell) : State := { sE [(2, shp [(5, 0xAB), (12, 7)])] [] with mem := m }
theorem test_hld : Dwords 8 (begun (sHld [(unitLoc 256 0x404, 3)]) (.hld 9 1)) (regVal (sHld [(unitLoc 256 0x404, 3)]) 9) [3 * 2 ^ 32, 0, 0, 0, 0, 0, 0, 0] (begun (sHld [(unitLoc 256 0x404, 3)]) (.hld 9 1)) ∧
    runs (.hld 9 1) (sHld [(unitLoc 256 0x404, 3)]) (fun t => mget (t.ctx 5).hreg 1 0 == shp [(1, 3)] && (t.ctx 5).pc == 0x404) = true ∧
    gives (.hld 9 1) (sHld [(unitLoc 256 0x43F, 1)]) ((begun (sHld [(unitLoc 256 0x43F, 1)]) (.hld 9 1)).preciseTrap { cause := 0x07 } ((encode (.hld 9 1)).getD 0)) = true :=
  ⟨dwords_of (l := [(unitLoc 256 0x400, 3 * 2 ^ 32), (unitLoc 256 0x408, 0), (unitLoc 256 0x410, 0), (unitLoc 256 0x418, 0), (unitLoc 256 0x420, 0), (unitLoc 256 0x428, 0), (unitLoc 256 0x430, 0), (unitLoc 256 0x438, 0)]) (by decide +kernel),
    by decide +kernel, by decide +kernel⟩
theorem test_shape_fields : canRead (sHld []) 12 ∧ canName (sHld []) 4 ∧ (regVal (sHld []) 0).toNat % 2 ^ 32 = 0 ∧
    runs (.hset 12 2 12) (sHld []) (fun t => shapeF ((t.ctx 5).h 2) 12 == 1 && shapeF ((t.ctx 5).h 2) 5 == 0xAB) = true ∧ runs (.hset 0 2 15) (sHld []) (fun t => (t.ctx 5).pc == 0x404) = true ∧
    gives (.hset 12 2 13) (sHld []) (trapped (sHld []) (.hset 12 2 13) 0x07) = true ∧ runs (.hsetD 9 2 2) (sHld []) (fun t => shapeF ((t.ctx 5).h 2) 5 == 0xFFFF1000 && shapeF ((t.ctx 5).h 2) 4 == 0x400 && shapeF ((t.ctx 5).h 2) 12 == 7) = true ∧
    runs (.hsetD 12 2 6) (sHld []) (fun t => shapeF ((t.ctx 5).h 2) 12 == 1) = true ∧ gives (.hget 4 2 12) (sHld []) ((written (begun (sHld []) (.hget 4 2 12)) 4 7).retire false) = true ∧
    gives (.hgetD 4 2 2) (sHld []) ((written (begun (sHld []) (.hgetD 4 2 2)) 4 0xAB00000000).retire false) = true := by decide +kernel

/-- BufferHandles: bh0 has three slots; the ring asked for ends at the scratchpad's last granule. -/
def bh3 (sl : List Nat) : Handle := { part := 1, base := 4, ssize := 2, nslot := 3, p := 2, c := 1, slots := sl }
def sBh (sl : List Nat) : State := (one { sreg := [(9, 511), (10, 0), (11, 2), (12, 63), (13, 64)] } { bt := [(0, bh3 sl)] })
theorem test_handle_alloc : (ringFits (sBh []) (regVal (sBh []) 9) ∧ canRead (sBh []) 9 ∧ ownsHandle (sBh []) (regVal (sBh []) 10) (bh3 [])) ∧
    gives (.halloc 4 9) (sBh []) ((written (withHandle (begun (sBh []) (.halloc 4 9)) 1 (newRing (sBh []) 511)) 4 1).retire false) = true ∧
    gives (.hallocN 4 9 12) (sBh []) ((written (withHandle (begun (sBh []) (.hallocN 4 9 12)) 63 (newRing (sBh []) 511)) 4 63).retire false) = true ∧
    gives (.hallocN 4 9 10) (sBh []) ((written (begun (sBh []) (.hallocN 4 9 10)) 4 0xFFFFFFFFFFFFFFFF).retire false) = true ∧
    gives (.hfree 10) (sBh []) (((begun (sBh []) (.hfree 10)).modUnit 256 (fun u => { u with bt := [] })).retire false) = true ∧ gives (.hfree 13) (sBh []) (trapped (sBh []) (.hfree 13) 0x06) = true := by decide +kernel
/-- Two slots from C = 1 are full and draining; two from P = 2 are free and filling. -/
theorem test_handle_claim : (∀ i, i < 2 → (bh3 [1, 2, 3]).slot (((bh3 [1, 2, 3]).c + i) % 3) = 2 ∨ (bh3 [1, 2, 3]).slot (((bh3 [1, 2, 3]).c + i) % 3) = 3) ∧
    runs (.hwait 4 10 11) (sBh [1, 2, 3]) (fun t => (t.ctx 5).s 4 == 0xFFFF100000000000 + (4 + 1 * 2) * 1024 && (t.unit 256).bt == [(0, bh3 [1, 3, 3])]) = true ∧
    runs (.hspace 4 10 11) (sBh [1, 2, 0]) (fun t => (t.ctx 5).s 4 == 0xFFFF100000000000 + (4 + 2 * 2) * 1024 && (t.unit 256).bt == [(0, bh3 [1, 2, 1])]) = true := by decide +kernel
theorem test_handle_advance : (∀ i, i < 2 → (bh3 [1, 2, 1]).slot (((bh3 [1, 2, 1]).p + i) % 3) = 1) ∧ ((sBh []).unit 256).cmds = [] ∧ ((sBh []).ctx 5).ldqOut = [] ∧
    runs (.hadvP 10 11) (sBh [1, 0, 1]) (fun t => (t.unit 256).bt.any (fun e => e.2.p == 1 && e.2.c == 1 && e.2.slots == [2, 0, 2])) = true ∧
    runs (.hadvC 10 11) (sBh [1, 3, 3]) (fun t => (t.unit 256).bt.any (fun e => e.2.p == 2 && e.2.c == 0 && e.2.slots == [1, 0, 0])) = true ∧
    gives (.hstat 4 10) (sBh [1, 3, 3]) ((written (begun (sBh [1, 3, 3]) (.hstat 4 10)) 4 (bh3 [1, 3, 3]).summary).retire false) = true ∧
    gives (.hstatLo 4 12) (sBh []) ((written (begun (sBh []) (.hstatLo 4 12)) 4 0).retire false) = true ∧ gives (.hstatHi 4 10) (sBh [1]) ((written (begun (sBh [1]) (.hstatHi 4 10)) 4 0).retire false) = true := by decide +kernel
/-- An advance whose condition holds: nothing is under way. -/
def sAdv (full : Bool) : State := { one {} { bt := [(0, { bh3 [1, 3, 1] with adv := [{ slot := 1, full := full, cmds := [], ctx := 5, issue := 0, stores := [] }] })] } with arg := { n0 := 256, n1 := 0, n2 := 1 } }
theorem test_slot_steps : ((sAdv true).advDone 256 { slot := 1, full := true, cmds := [], ctx := 5, issue := 0, stores := [] } = true) ∧
    runs .slotBecomesFull (sAdv true) (fun t => (t.unit 256).bt == [(0, bh3 [1, 2, 1])]) = true ∧ runs .slotBecomesFree (sAdv false) (fun t => (t.unit 256).bt == [(0, bh3 [1, 0, 1])]) = true := by decide +kernel

/-- GaussianCommands: records at 0x1000, 0x2000 and 0x3000, h1 for GACC. -/
def sG : State := (one { sreg := [(9, 0xFFFF100000001000), (10, 0xFFFF100000002000), (11, 0xFFFF100000003000), (12, 2), (13, 0xFFFF100000005008)], hreg := [(1, shp [(0, 5)])] } { bt := [(2, { part := 1, base := 12, ssize := 2, nslot := 1, slots := [3] })] })
theorem test_gaussian_hypotheses : (gShapeOk .gacc (shapeAt sG 1) = true ∧ (regVal sG 9).toNat % 64 = 0 ∧ gAddrOk .gacc (regVal sG 9) (regVal sG 10) 0 = true ∧ gAddrOk (.gld true) (regVal sG 9) (regVal sG 10) 0 = true ∧
      gAddrOk (.gsend true) (regVal sG 9) (regVal sG 10) 0 = true ∧ schedFree sG ∧ (∀ r ∈ [regn 0x2000 1152, regn 0x3000 1152], ∀ w ∈ [regn 0x1000 1152], r.meets w = true → r = w)) ∧
    Operand sG (regVal sG 9) 0 1152 accW (opn 0x1000) (regn 0x1000 1152) ∧ Operand sG (regVal sG 10) 0 1152 accR (opn 0x2000) (regn 0x2000 1152) ∧ Operand sG (regVal sG 11) 0 1152 accR (opn 0x3000) (regn 0x3000 1152) :=
  ⟨by decide +kernel, operand_of 0x7F000 (unitLoc 256 0x1000) (by decide +kernel), operand_of 0x7E000 (unitLoc 256 0x2000) (by decide +kernel), operand_of 0x7D000 (unitLoc 256 0x3000) (by decide +kernel)⟩
/-- Acceptance with these operands and regions. -/
def gives2 (i : Instr) (h : BitVec 512) (ops : List Opnd) (args : List Word) (r w : List Region) : Bool :=
  gives i sG ((accepted sG i 9 { command sG i with shape := h, ops := ops, args := args, reads := r, writes := w }).retire false)
theorem test_gaussian_accepted : gives2 (.gacc 9 10 11 1 0) (shp [(0, 5)]) [opn 0x1000, opn 0x2000, opn 0x3000, { va := 0 }] [0, 0, 0] [regn 0x2000 1152, regn 0x3000 1152] [regn 0x1000 1152] = true ∧
    gives2 (.gdamp 9 10 11 0) 0 [opn 0x1000, opn 0x2000, opn 0x3000, { va := 0 }] [0, 0, 0] [regn 0x2000 1152, regn 0x3000 1152] [regn 0x1000 1152] = true ∧
    gives2 (.gresid 9 10 11 0) 0 [opn 0x1000, opn 0x2000, opn 0x3000, { va := 0 }] [0, 0, 0] [regn 0x2000 1152, regn 0x3000 1152] [regn 0x1000 1152] = true ∧
    gives2 (.gsub 9 10 11 1 0) (shp [(0, 5)]) [opn 0x1000, opn 0x2000, opn 0x3000, { va := 0 }] [0, 0, 0] [regn 0x2000 1152, regn 0x3000 1152] [regn 0x1000 1152] = true ∧
    gives2 (.gschur 9 10 1 0) (shp [(0, 5)]) [opn 0x1000, opn 0x2000, { va := 0 }, { va := 0 }] [0, 0, 0] [regn 0x2000 1152] [regn 0x1000 1152] = true ∧
    gives2 (.gsolve 9 10 0) 0 [opn 0x1000, opn 0x2000, { va := 0 }, { va := 0 }] [0, 0, 0] [regn 0x2000 1152] [regn 0x1000 1152] = true ∧
    gives2 (.gst 9 10 0) 0 [opn 0x1000, opn 0x2000, { va := 0 }, { va := 0 }] [0, 0, 0] [regn 0x2000 1152] [regn 0x1000 1152] = true ∧
    gives2 (.gld 9 10 0 0) 0 [opn 0x1000, opn 0x2000, { va := 0 }, { va := 0 }] [0, 0, 0] [regn 0x2000 1152] [regn 0x1000 1152] = true ∧
    gives2 (.gld 9 10 0 1) 0 [opn 0x1000, opn 0x2000, { va := 0 }, { va := 0 }] [0, 0, 0] [regn 0x2000 1152] [regn 0x1000 1152, regn 0x2000 1152] = true ∧
    gives2 (.gsend 9 10 0 0 1) 0 [opn 0x1000, opn 0x2000, { va := 0 }, { va := 0 }] [0, 0, 0] [regn 0x2000 1152] [regn 0x1000 1152] = true := by decide +kernel
theorem test_gaussian_sources : (recAt (3 * 2 ^ (8 * 0x14)) 0x14 1 = 3 ∧ recAt (3 * 2 ^ (8 * 0x14)) 0x15 1 / 2 % 2 = 0) ∧ (match gAcc false 0 (17 * 2 ^ (8 * 0x14)) (2 ^ (8 * 0x14)) 0 with | .error c _ => c == 0x07 | _ => false) = true ∧
    f32.decode (recAt (2 ^ (8 * 0x14) + 0x7FC00000 * 2 ^ (8 * 0x40)) 0x40 4) = .nan ∧
    (match gAcc false 0 (2 ^ (8 * 0x14) + 0x7FC00000 * 2 ^ (8 * 0x40)) (2 ^ (8 * 0x14)) 0 with | .error c _ => c == 0x21 | _ => false) = true := by decide +kernel
/-- The slot at C of a handle as the source; a dependence counter of GSEND. -/
theorem test_gaussian_handle_counter : (ownsHandle sG (regVal sG 12) { part := 1, base := 12, ssize := 2, nslot := 1, slots := [3] } ∧ (regVal sG 13).toNat % 8 = 0 ∧ gAddrOk (.gsend false) (regVal sG 9) (regVal sG 10) (regVal sG 13) = true) ∧
    Operand sG (regVal sG 13) 0 8 accW (opn 0x5008) (regn 0x5008 8) ∧
    gives2 (.gsend 9 10 13 0 0) 0 [opn 0x1000, opn 0x2000, { va := 0 }, opn 0x5008] [0, 0, 0xFFFF100000005008] [regn 0x2000 1152] [regn 0x1000 1152, regn 0x5008 8] = true ∧
    runs (.gacc 9 12 10 1 1) sG (fun t => (t.unit 256).cmds.any (fun k => k.ops == [opn 0x1000, opn 0x3000, opn 0x2000, { va := 0 }] && k.handles == [2])) = true :=
  ⟨by decide +kernel, operand_of 0x7AFF8 (unitLoc 256 0x5008) (by decide +kernel), by decide +kernel, by decide +kernel⟩

/-! ### Snapshots, capabilities, deliveries -/

/-- The header of an iteration of one sequence at 0x400, and an open iteration whose member is context 5. -/
def itOpen (m : List Member) : Iter := { gen := 2, st := 1, part := 1, opener := 5, area := 0xFFFF100000010000, asize := 0x1000, seqs := [0xFFFF100000020000], members := m }
def sS (its : List (Nat × Iter)) : State := { (sE [] []).modCtx 5 (fun x => { x with sreg := x.sreg ++ [(14, 0x201), (15, 0x0000000000000201), (16, 0xFFFF100000030000)] }) with
  mem := memWrite [] (unitLoc 256 0x400) (toBytes 64 (0x10000 + 0x1000 * 2 ^ 64 + 1 * 2 ^ 128)) ++ [(unitLoc 256 0x441, 1), (unitLoc 256 0x20020, 1)], ssu := its, island := { st := 0 } }
theorem test_snap_open : (ssuAwake (sS []) ∧ (regVal (sS []) 9).toNat % 64 = 0) ∧
    Dwords 8 (begun (sS []) (.snapOpen 4 9)).reapIters (regVal (sS []) 9) [0x10000, 0x1000, 1, 0, 0, 0, 0, 0] (begun (sS []) (.snapOpen 4 9)).reapIters ∧
    Dwords 1 (begun (sS []) (.snapOpen 4 9)).reapIters (regVal (sS []) 9 + 0x40) [0x100] (begun (sS []) (.snapOpen 4 9)).reapIters ∧
    runs (.snapOpen 4 9) (sS []) (fun t => (t.ctx 5).s 4 == 0x100 && ((t.iter 0).st == 1) && (t.iter 0).seqs == [0x100] && (t.iter 0).members == [{ ctx := 5 }] && (t.ctx 5).pc == 0x404) = true :=
  ⟨by decide +kernel, dwords_of (l := [(unitLoc 256 0x400, 0x10000), (unitLoc 256 0x408, 0x1000), (unitLoc 256 0x410, 1), (unitLoc 256 0x418, 0), (unitLoc 256 0x420, 0), (unitLoc 256 0x428, 0), (unitLoc 256 0x430, 0), (unitLoc 256 0x438, 0)]) (by decide +kernel),
    dwords_of (l := [(unitLoc 256 0x440, 0x100)]) (by decide +kernel), by decide +kernel⟩
theorem test_snap_members : opensIter (sS [(1, itOpen [{ ctx := 5 }])]) 0x201 1 (itOpen [{ ctx := 5 }]) ∧ opensIter (sS [(1, itOpen [{ ctx := 6 }])]) 0x201 1 (itOpen [{ ctx := 6 }]) ∧
    (∀ m ∈ (itOpen [{ ctx := 6 }]).members, m.ctx ≠ 5) ∧ gives (.snapJoin 14) (sS [(1, itOpen [{ ctx := 6 }])]) (((begun (sS [(1, itOpen [{ ctx := 6 }])]) (.snapJoin 14)).reapIters.setIter 1 (itOpen [{ ctx := 6 }, { ctx := 5 }])).retire false) = true ∧
    runs (.snapFin 14) (sS [(1, itOpen [{ ctx := 5 }])]) (fun t => (t.iter 1).members == [{ ctx := 5, st := 1, no := 0 }]) = true ∧ runs (.sabort 14) (sS [(1, itOpen [{ ctx := 5 }])]) (fun t => (t.iter 1).st != 1 && (t.ctx 5).pc == 0x404) = true ∧
    gives (.snapFin 14) (sS [(1, itOpen [{ ctx := 6 }])]) ((begun (sS [(1, itOpen [{ ctx := 6 }])]) (.snapFin 14)).reapIters.preciseTrap { cause := 0x06 } ((encode (.snapFin 14)).getD 0)) = true := by decide +kernel
theorem test_member_finished : (({ sS [(1, itOpen [{ ctx := 5, st := 1 }])] with arg := { n0 := 1, n1 := 5 } } : State).iter 1).member 5 = some { ctx := 5, st := 1 } ∧ (sS []).finishedBefore 5 0 = true ∧
    runs .memberFinished { sS [(1, itOpen [{ ctx := 5, st := 1 }])] with arg := { n0 := 1, n1 := 5 } } (fun t => (t.iter 1).members == [{ ctx := 5, st := 2 }]) = true := by decide +kernel
/-- A snapshot of 256 bytes of sequence 0, node 0; live bytes at 0x800. -/
theorem test_snap : ((regVal (sS []) 15).toNat / 2 ^ 40 % 2 ^ 12 = 0 ∧ opensIter (sS [(1, itOpen [{ ctx := 5 }])]) (BitVec.ofNat 64 ((regVal (sS []) 15).toNat % 2 ^ 16)) 1 (itOpen [{ ctx := 5 }]) ∧ (regVal (sS []) 9).toNat % 256 = 0 ∧
      (begun (sS [(1, itOpen [{ ctx := 5 }])]) (.snap 15 9 10)).reapIters.inHost ((sS []).whoIs 5) (regVal (sS []) 10) 256 = false ∧ schedFree (sS [])) ∧
    Operand (sS []) (regVal (sS []) 9) 0 256 accR (opn 0x400) (regn 0x400 256) ∧ Operand (sS []) (regVal (sS []) 10) 0 256 accW (opn 0x800) (regn 0x800 256) ∧
    runs (.snap 15 9 10) (sS [(1, itOpen [{ ctx := 5 }])]) (fun t => (t.unit 256).cmds.any (fun k => k.iter == some 1 && k.reads == [regn 0x400 256]) && (t.iter 1).used == 256 && (t.iter 1).recs.length == 1 && (t.ctx 5).s 15 == 0x380FFFFFF) = true :=
  ⟨by decide +kernel, operand_of 0x7FC00 (unitLoc 256 0x400) (by decide +kernel), operand_of 0x7F800 (unitLoc 256 0x800) (by decide +kernel), by decide +kernel⟩
/-- A commit whose one sequence is done: nothing is read of it, and the command is accepted. -/
def sCommit : State := (begun (sS [(1, itOpen [{ ctx := 5 }])]) (.scommit 4 14 16)).reapIters.setIter 1 (itOpen [{ ctx := 5, st := 2 }])
theorem test_commit : (opensIter (sS [(1, itOpen [{ ctx := 5 }])]) (regVal (sS []) 14) 1 (itOpen [{ ctx := 5 }]) ∧ (regVal (sS []) 16).toNat % 128 = 0 ∧ (begun (sS [(1, itOpen [{ ctx := 5 }])]) (.scommit 4 14 16)).reapIters.finishedBefore 5 0 = true) ∧
    (match readSeqs (regVal (sS []) 16) (itOpen []).seqs.zipIdx sCommit with
      | .ok [] s2 => (match rangeOk accR (itOpen []).area 0 1 s2 with
        | .ok _ s4 => (match rangeOk accW (regVal (sS []) 16) 0 128 s4 with | .ok _ s5 => decide (s5 = sCommit) | _ => false)
        | _ => false)
      | _ => false) = true ∧
    runs (.scommit 4 14 16) (sS [(1, itOpen [{ ctx := 5 }])]) (fun t => (t.unit 256).cmds.any (fun k => k.iter == some 1 && k.args == []) && (t.iter 1).st == 2) = true := by decide +kernel

/-- Capabilities of context 5: to its m3 with every right, to its s2, to its accumulators. -/
def cap (cls idx rgt : Nat) : Word := capWord 7 0 5 cls idx rgt 1
def sCap : State := (one { sreg := [(9, cap 1 3 7), (10, 0x300000000 + 0x8000000000), (11, 0x80000000), (12, cap 5 0 1), (13, 0x98000264), (14, 1), (15, cap 6 2 1), (16, cap 2 3 1), (17, cap 3 2 2)]
                           vreg := [(4, 0xAB)], kreg := [(3, 0xC)] } {})
theorem test_capmk : (canRead sCap 10 ∧ canName sCap 4 ∧ capClsOk (capCls 0x8000000000) = true ∧ (sCap.part 1).key ≠ 0) ∧
    gives (.capmk 4 10) sCap ((written (begun sCap (.capmk 4 10)) 4 (cap 1 1 4)).retire false) = true ∧
    gives (.capmkDv 4 9 9) sCap ((written (begun sCap (.capmkDv 4 9 9)) 4 (cap 1 3 7)).retire false) = true ∧
    gives (.capmkDv 4 9 12) sCap (trapped sCap (.capmkDv 4 9 12) 0x15) = true ∧ capGives sCap (cap 1 3 7) 32 := by decide +kernel
theorem test_caprv : capClsOk ((regVal sCap 14).toNat % 8) = true ∧ runs (.caprv 4 14) sCap (fun t => (t.dirE 5).gen 1 == 2 && (t.dirE 5).gen 0 == 1 && (t.ctx 5).s 4 == 2) = true := by decide +kernel
/-- What an injection leaves: one packet with this capability and kind. -/
def injects (i : Instr) (c : Word) (v : VWord) (k : DKind) : Bool := runs i sCap (fun t => t.pkts.any (fun p => match p.body with | .delivery d => d.cap == c && d.val == v && d.kind == k && d.sender == 5 | _ => false) && (t.dirE 5).unacked == 1 && (t.ctx 5).pc == 0x404)
theorem test_sends : (mayInject sCap (cap 1 3 7) .send ∧ mayInject sCap (cap 2 3 1) .send ∧ mayInject sCap (cap 3 2 2) .sendw ∧ capGives sCap (cap 1 3 7) 30 ∧ capGives sCap (cap 1 3 7) 31 ∧ capGives sCap (cap 2 3 1) 30 ∧ capGives sCap (cap 3 2 2) 31 ∧ (sCap.ctx 5).dqWrites 0 [4] = false ∧ bit (sCap.ctx 5).vFull 4 = true ∧ (sCap.ctx 5).dqWrites 3 [] = false ∧ capCls (cap 2 3 1) = 2 ∧ capCls (cap 3 2 2) = 3) ∧
    injects (.send 11 9 0) (cap 1 3 7) 0x80000000 .send = true ∧ injects (.sendw 11 9 0) (cap 1 3 7) 0x80000000 .sendw = true ∧ injects (.send 4 16 1) (cap 2 3 1) 0xAB .send = true ∧ injects (.sendw 3 17 2) (cap 3 2 2) 0xC .sendw = true ∧
    gives (.send 11 14 0) sCap (trapped sCap (.send 11 14 0) 0x15) = true := by decide +kernel
theorem test_mcmd : (capGives sCap (cap 5 0 1) 30 ∧ mayInject sCap (cap 5 0 1) (.mcmd 0x98000264 0 ((sCap.ctx 5).fmt)) ∧ capCls (cap 5 0 1) = 5 ∧ capIdx (cap 5 0 1) < 8 ∧ (0x98000264 : BitVec 32).toNat / 2 ^ 30 = 2 ∧ (match decodeTo4 0x98000264 with | .instr _ => true | _ => false) = true) ∧
    injects (.mcmd 12 13 1) (cap 5 0 1) 0 (.mcmd 0x98000264 0 ((sCap.ctx 5).fmt)) = true := by decide +kernel

/-- DeliveriesArrive: a packet to context 5's m3 or s2, the register empty or full; an acknowledgement; a push. -/
def dlv (c : Word) (k : DKind) : Delivery := { dev := 0, sender := 6, pc := 0, cap := c, val := 0x77, kind := k }
def sD (c : Word) (k : DKind) (m : BitVec 16) (sf : BitVec 32) : State := { one { mFull := m, sFull := sf, mreg := [(3, 1)] } {} with pkts := [{ src := 257, dst := 256, body := .delivery (dlv c k) }] }
theorem test_delivery_hypotheses : delivers (sD (cap 1 3 7) .send 0 0) 0 256 { src := 257, dst := 256, body := .delivery (dlv (cap 1 3 7) .send) } (dlv (cap 1 3 7) .send) 5 ∧
    delivers (sD (cap 0 2 7) .sendw 0 0) 0 256 { src := 257, dst := 256, body := .delivery (dlv (cap 0 2 7) .sendw) } (dlv (cap 0 2 7) .sendw) 5 ∧ capIdx (cap 1 3 7) = 3 ∧ capIdx (cap 0 2 7) = 2 :=
  ⟨⟨by decide +kernel, by decide +kernel, ⟨256, 0, by decide +kernel⟩, by decide +kernel⟩,
    ⟨by decide +kernel, by decide +kernel, ⟨256, 0, by decide +kernel⟩, by decide +kernel⟩,
    by decide +kernel, by decide +kernel⟩
theorem test_deliveries : runs .deliveryArrival (sD (cap 1 3 7) .send 0 0) (fun t => mget (t.ctx 5).mreg 3 0 == 0x77 && bit (t.ctx 5).mFull 3 && (t.dirE 5).event) = true ∧
    runs .deliveryArrival (sD (cap 0 2 7) .sendw 0 0) (fun t => (t.ctx 5).s 2 == 0x77 && bit (t.ctx 5).sFull 2) = true ∧
    runs .deliveryArrival (sD (cap 1 3 7) .send 8 0) (fun t => (t.ctx 5).ovr.v && (t.ctx 5).ovr.idx == 3 && (t.ctx 5).ovr.count == 0 && (t.ctx 5).ovr.sender == 6 && mget (t.ctx 5).mreg 3 0 == 1 && (t.dirE 5).async.any (fun a => a.cause == 0x14)) = true ∧
    gives .deliveryArrival (sD (cap 1 3 7) .sendw 8 0) (({ sD (cap 1 3 7) .sendw 8 0 with pkts := [] } : State).modUnit 256 (fun y => { y with mbox := [(dlv (cap 1 3 7) .sendw, 5)] })) = true := by decide +kernel
theorem test_acknowledgement_push : gives .deliveryAck { (one {} {}).modDir 5 (fun d => { d with unacked := 3 }) with pkts := [{ src := 0, dst := 256, body := .ack 5 none 0 false }] }
      ((one {} {}).modDir 5 (fun d => { d with unacked := 2 })) = true ∧
    runs .receiveQueueArrival { one {} {} with pkts := [{ src := 257, dst := 256, body := .push 1 9 }] } (fun t => mget (t.unit 256).rxq 1 [] == [9] && t.pkts == []) = true := by decide +kernel
/-- A remote AZERO for a resident target, and one for a context that has ended. -/
def sRem (st : Nat) : State := { one {} { rcq := [{ d := dlv (cap 5 0 1) (.mcmd 0x9B000001 0 0), target := 5, acc := 0 }] } with arg := { n0 := 256 } }.modDir 5 (fun d => { d with st := st })
theorem test_remote_command : (matOpOf 0x9B000001).map (·.kind) = some 3 ∧ (sRem 1).headAccepted 5 0 = false ∧ (sRem 1).moving 256 = false ∧ (((sRem 1).unit 256).cmds.filter (fun k => k.slot == none)).length < 64 ∧
    runs .remoteCommandAccept (sRem 1) (fun t => (t.unit 256).cmds.any (fun k => k.acc == some (5, 0) && k.remote && k.word == 0x9B000001) && ((t.unit 256).rcq == [])) = true ∧
    gives .remoteCommandAccept (sRem 2) (((sRem 2).modUnit 256 (fun x => { x with rcq := [] })).ackCause 256 (dlv (cap 5 0 1) (.mcmd 0x9B000001 0 0)) 0x17) = true := by decide +kernel

/-- MessageRegisters: EXPECT in three spaces; the next slot's context takes a FWD; the lowest full register of a mask. -/
def sMR : State := (one { sreg := [(9, 0x28), (10, 0x8000), (11, 0x10000)], mFull := 0x8020 } {}).modUnit 256 (fun u => { u with slots := [(0, 5), (1, 6)] })
def sMR2 : State := (sMR.setCtx 6 {}).modDir 6 (fun d => { d with st := 1, part := 1, home := 3, place := .slot 256 1 })
theorem test_message_registers : (canName sMR 7 ∧ (sMR.ctx 5).dqTouches 4 = false ∧ mfind (sMR2.unit 256).slots 1 = some 6 ∧ bit (sMR2.ctx 6).mFull 15 = false ∧ sMR2.relOk 5 = true) ∧
    gives (.expect 7 0) sMR (((begun sMR (.expect 7 0)).modCtx 5 (fun x => { x with sFull := putBit x.sFull 7 false })).retire false) = true ∧ gives (.expect 5 1) sMR (((begun sMR (.expect 5 1)).modCtx 5 (fun x => { x with mFull := 0x8000 })).retire false) = true ∧
    gives (.expect 4 2) sMR (((begun sMR (.expect 4 2)).modCtx 5 (fun x => { x with vFull := putBit x.vFull 4 false })).retire false) = true ∧
    runs (.fwd 9) sMR2 (fun t => mget (t.ctx 6).mreg 15 0 == 0x28 && bit (t.ctx 6).mFull 15 && (t.dirE 6).event && (t.ctx 5).pc == 0x404) = true ∧
    gives (.waitm 4 9) sMR ((written (begun sMR (.waitm 4 9)) 4 5).retire false) = true ∧ gives (.waitm 4 10) sMR ((written (begun sMR (.waitm 4 10)) 4 15).retire false) = true ∧
    gives (.waitm 4 11) sMR (trapped sMR (.waitm 4 11) 0x07) = true ∧ gives (.waitm 4 0) sMR (trapped sMR (.waitm 4 0) 0x07) = true := by decide +kernel

/-! ### Launches, contexts and slots -/

/-- A launch record at offset 0x400 of logical unit 3: one thread on that unit, entry 0x800, save area 0x8000, one slot. -/
def lrec (grp threads : Nat) : Nat := 0x800 + 0x8000 * 2 ^ 128 + (threads + grp * 2 ^ 32 + 2 * 2 ^ 48) * 2 ^ 320 + (3 + 0x0101 * 2 ^ 16 + 2 ^ 32) * 2 ^ 384
def sL (q : List LqEnt) (en : Bool) : State := { (sE [] []).modPart 1 (fun p => { p with launchQ := q, en := en }) with
  mem := memWrite [] (unitLoc 256 0x400) (toBytes 64 (lrec 9 1)), arg := { n0 := 1, v := 0xFFFF400003000400 } }
theorem test_launch_queue : runs .launchqWrite (sL (List.replicate 15 { addr := 0, sup := true }) true) (fun t => (t.part 1).launchQ.length == 16 && !(t.part 1).lOvf) = true ∧
    runs .launchqWrite (sL (List.replicate 16 { addr := 0, sup := true }) true) (fun t => (t.part 1).launchQ.length == 16 && (t.part 1).lOvf) = true ∧
    runs .launchqWrite (sL [] false) (fun t => (t.part 1).launchQ == [] && (t.part 1).lOvf) = true := by decide +kernel
theorem test_launch_taken : (match (sL [{ addr := 0xFFFF400003000400, sup := true }] true).takeLaunch 1 { addr := 0xFFFF400003000400, sup := true } with
      | .accept t f => f == 0 && (t.dirE 0).st == 1 && (t.ctx 0).pc == 0x800 && (t.ctx 0).grp == 9 && (t.dirE 0).prio == 2 | _ => false) = true ∧
    runs .launchRecordTake (sL [{ addr := 0xFFFF400003000400, sup := true }] true) (fun t => (t.part 1).launchQ == [] && (t.part 1).lFirst == 0 && (t.dirE 0).place == .tcc 256 && (t.launches.length == 1)) = true ∧
    gives .launchRecordTake (sL [{ addr := 0x20, sup := true }] true) ((sL [{ addr := 0x20, sup := true }] true).modPart 1 (fun x => { x with launchQ := [], lCause := 0x05, lFail := true })) = true := by decide +kernel
/-- A record whose contexts have halted: the last of its chain, one that names another, one that names itself. -/
def sChain (nx : Word) : State := { one {} {} with launches := [(4, { part := 1, next := nx, started := [0x40], sup := false, live := [], slots := 1 })], arg := { n0 := 4 } }
theorem test_launch_chain : gives .launchNextRecord (sChain 0) { sChain 0 with launches := [] } = true ∧ runs .launchNextRecord (sChain 0x40) (fun t => (t.part 1).lFail && (t.part 1).lCause == 7) = true ∧
    runs .launchNextRecord (sChain 0x80) (fun t => (t.part 1).launchQ == [{ addr := 0x80, sup := false, started := [0x40] }] && t.launches == []) = true ∧
    gives .launchSkewExpiry { (one {} {}).modDir 5 (fun d => { d with freeAt := 7 }) with time := 7, arg := { n0 := 5 } } { one {} {} with time := 7, arg := { n0 := 5 } } = true := by decide +kernel

/-- ContextsComeAndGo: the record at 0x400 of the own scratchpad. -/
def sSp : State := (sL [] true).modCtx 5 (fun x => { x with grp := 2 })
def spD : List (Nat × Nat) := [(unitLoc 256 0x400, 0x800), (unitLoc 256 0x408, 0), (unitLoc 256 0x410, 0x8000), (unitLoc 256 0x418, 0), (unitLoc 256 0x420, 0), (unitLoc 256 0x428, 1 + 9 * 2 ^ 32 + 2 * 2 ^ 48), (unitLoc 256 0x430, 3 + 0x0101 * 2 ^ 16 + 2 ^ 32), (unitLoc 256 0x438, 0)]
theorem test_spawn_packet : Dwords 8 (begun sSp (.spawn 4 9 12)) (regVal sSp 9) (spD.map (·.2)) (begun sSp (.spawn 4 9 12)) := dwords_of (l := spD) (by decide +kernel)
theorem test_spawn_record : ((lrecOf (spD.map (·.2))).ok1 = true ∧ (lrecOf (spD.map (·.2))).priv = 0 ∧ (lrecOf (spD.map (·.2))).nshape = 0 ∧ (match sSp.lumRes 1 3 with | .to u => u == 256 && (lrecOf (spD.map (·.2))).fits u | _ => false) = true ∧ sSp.relOk 5 = true) := by decide +kernel
theorem test_spawn : runs (.spawn 4 9 12) sSp (fun t => (t.ctx 5).s 4 == 0 && (t.ctx 0).pc == 0x800 && (t.ctx 0).s 8 == 1 && (t.ctx 0).s 10 == 1 && (t.dirE 0).st == 1 && (t.dirE 0).place == .tcc 256) = true := by decide +kernel
theorem test_halt : ((sSp.ctx 5).task.active = false ∧ (∀ e ∈ (sSp.unit 256).sb, e.ctx ≠ 5) ∧ (sSp.ctx 5).ldqOut = [] ∧ (sSp.dirE 5).unacked = 0 ∧ sSp.enginesBusy 5 = false ∧ (sSp.ctx 5).dq = [] ∧ (sSp.ctx 5).results = [] ∧ (regVal sSp 9).toNat % 64 = 0 ∧ (regVal sSp 12).toNat < 256) ∧
    gives .halt sSp ((begun sSp .halt).haltCtx 5) = true ∧ runs .halt sSp (fun t => (t.dirE 5).st == 2 && (mfind t.ctxs 5).isNone) = true ∧
    runs (.haltS 9 12) sSp (fun t => (t.dirE 5).st == 2 && (t.unit 256).retained == 1 && ((t.part 1).launchQ.map (·.addr)) == [0xFFFF100000000400]) = true := by decide +kernel
theorem test_groups : canRead sSp 12 ∧ runs (.join 4 12) sSp (fun t => (t.ctx 5).grp == 1 && (t.ctx 5).s 4 == 1 && (t.ctx 5).pc == 0x404) = true ∧ runs (.leave 4) sSp (fun t => (t.ctx 5).grp == 0 && (t.ctx 5).s 4 == 0) = true ∧
    runs .grpkill { sSp.modPart 1 (fun p => { p with grpKill := 2 ^ 63 + 2 }) with arg := { n0 := 1, n1 := 2 } } (fun t => (t.part 1).grpKill == 2 && (t.dirE 5).st == 2) = true := by decide +kernel

/-- SlotsAreScheduled: contexts 5 in slot 0 and 6 in the TCC of a unit with slots 0 and 1. -/
def sSl (y : UnitSt) (d5 d6 : Dir) : State := { one {} {} with ctxs := [(5, {}), (6, { pc := 0x900 })], arg := { n0 := 256, n1 := 0 }
                                                               dir := [(5, { d5 with st := 1, part := 1, home := 3, place := .slot 256 0 }), (6, { d6 with st := 1, part := 1, home := 3, place := .tcc 256 })]
                                                               units := [(256, { y with slots := [(0, 5)], tcc := [6] })] }
theorem test_slot_registers : gives .slotcfgWrite { one {} {} with arg := { n0 := 256, v := 0xFF12345678901234 } } ({ one {} {} with arg := { n0 := 256, v := 0xFF12345678901234 } : State }.modUnit 256 (fun x => { x with slotcfg := 0x12345678901234 })) = true ∧
    runs .rotWrite { one {} {} with arg := { n0 := 256, v := 0x8888888888888888 } } (fun t => (t.unit 256).rotNext == some 0x8888888888888888) = true ∧
    gives .rotWrite { one {} {} with arg := { n0 := 256, v := 0x9000000000000000 } } { one {} {} with arg := { n0 := 256, v := 0x9000000000000000 } } = true ∧
    runs .budgetPeriod { one {} { spent := [(1, 3)] } with time := 1024 } (fun t => t.period == 1 && ((t.unit 256).spent == [])) = true := by decide +kernel
theorem test_place : (slotOpen (sSl { slotcfg := 0x0000000200000010 } {} {}) 256 1 1 ∧ waitsThere (sSl { slotcfg := 0x0000000200000010 } {} {}) 256 1 6 ∧ (sSl { slotcfg := 0x0000000200000010 } {} {}).waiters 256 1 = [6]) ∧
    runs .contextPlace { sSl { slotcfg := 0x0000000200000010 } {} {} with arg := { n0 := 256, n1 := 1 } } (fun t => (t.dirE 6).place == .slot 256 1 && ((t.unit 256).slots == [(0, 5), (1, 6)]) && ((t.unit 256).tcc == [])) = true := by decide +kernel
/-- Context 6 of higher priority; context 5 parked for 256 cycles; a time slice of 256 cycles over. -/
def cfg1 : Word := 0x0000010100000001
theorem test_evictions : ((sSl { slotcfg := cfg1 } {} { prio := 1 }).mayLeave 5 = true ∧ (sSl { slotcfg := cfg1 } {} { prio := 1 }).freeSlot 256 1 = false ∧ waitsThere (sSl { slotcfg := cfg1 } {} { prio := 1 }) 256 1 6 ∧ (cfg1.toNat / 2 ^ 40 % 2 ^ 16 = 1)) ∧
    runs .contextPreempt (sSl { slotcfg := cfg1 } {} { prio := 1 }) (fun t => (t.dirE 5).place == .tcc 256 && ((t.unit 256).tcc == [6, 5]) && ((t.unit 256).slots == [])) = true ∧
    runs .parkedEvict ((sSl { slotcfg := cfg1, cyc := 256 } {} {}).modCtx 5 (fun x => { x with wait := some { why := 1, since := 0 } })) (fun t => (t.dirE 5).place == .tcc 256 && (t.ctx 5).wait == none) = true ∧
    runs .timeSliceExpiry (sSl { slotcfg := cfg1, cyc := 256 } {} {}) (fun t => (t.dirE 5).place == .tcc 256) = true := by decide +kernel
theorem test_yield : (begun (one {} {}) .yield).waiters 256 1 = [] ∧ gives .yield (one {} {}) ((begun (one {} {}) .yield).retire false) = true ∧
    runs .yield { sSl { slotcfg := cfg1 } {} {} with cur := 5 } (fun t => (t.dirE 5).place == .tcc 256 && (t.ctx 5).pc == 4) = true ∧
    gives .yield ((one {} {}).modCtx 5 (fun x => { x with task := { active := true } })) (trapped ((one {} {}).modCtx 5 (fun x => { x with task := { active := true } })) .yield 0x18) = true := by decide +kernel

/-! ### Images -/

/-- Partition 1's virtual addresses below 2 MiB stand in host memory at 0x800000200000, pinned and writable, through four tables. -/
def ptab : List Host.Cell := [(0x2, 8), (0x7, 0x80), (0x1000, 1), (0x1001, 0x20), (0x2000, 1), (0x2001, 0x30), (0x3000, 0x7F), (0x3001, 1), (0x3002, 0x20), (0x3005, 0x80), (0x80000, 1), (0x80001, 0x10)]
/-- Context 5 in slot 0 with its save area at 0x8000 and a checkpoint area at 0x10000. -/
def sI (x : Ctx) (y : UnitSt) (d : Dir) : State := { one { x with csr := x.csr ++ [(0x102, 0x10000)] } y with mem := ptab, arg := { n0 := 5 }, dir := [(5, { d with st := 1, part := 1, home := 3, place := .slot 256 0, save := 0x8000 })] }
/-- CKPT (R387) and a save (R377): the image can be written. -/
theorem test_image_write : ((sI {} {} {}).canSave 5 = true ∧ schedFree (sI {} {} {}) ∧ (((sI {} {} {}).ctx 5).csrGet 0x102).toNat % 64 = 0) ∧
    (match (begun (sI {} {} {}) (.ckpt 4 0 0)).writeImage 256 1 0 0x8000 (({ (sI {} {} {}).ctx 5 with wait := none } : Ctx).image ((sI {} {} {}).dirE 5) ((sI {} {} {}).ctxId 5) [] false) with | .ok _ => true | _ => false) = true := by decide +kernel
/-- WatchdogsAndCheckpoints: a limit of 1,024 cycles just reached; a wall time just reached; a timer; STEP below and at its limit. -/
theorem test_watchdogs : runs .hangWatchdog (sI { csr := [(0x100, 1)], wdcnt := 1024 } {} {}) (fun t => (t.ctx 5).wdcnt == 0 && (t.dirE 5).async == [{ cause := 0x30, data := 1024, aux := 1 }]) = true ∧
    runs .wallTimeLimit { sI { csr := [(0x101, 9)] } {} {} with time := 9 } (fun t => (t.ctx 5).csrGet 0x101 == 0 && (t.dirE 5).async == [{ cause := 0x31, data := 9, aux := 9 }]) = true ∧
    runs .checkpointTimer { sI { csr := [(0x22, 2)], ckdue := 5 } {} {} with time := 5 } (fun t => (t.ctx 5).ckdue == 2005 && (t.dirE 5).ckDue) = true := by decide +kernel
theorem test_step_instruction : canName (one { csr := [(0x20, 4), (0x21, 10)] } {}) 4 ∧
    gives (.step 4 5) (one { csr := [(0x20, 4), (0x21, 10)] } {}) ((written ((begun (one { csr := [(0x20, 4), (0x21, 10)] } {}) (.step 4 5)).modCtx 5 (fun x => x.csrSet 0x20 9)) 4 9).retire false) = true ∧
    runs (.step 4 6) (one { csr := [(0x20, 4), (0x21, 10)] } {}) (fun t => (t.ctx 5).csrGet 0x20 == 0 && (t.ctx 5).s 4 == 10 && (t.dirE 5).ckDue) = true := by decide +kernel
/-- The resume queue; an address that is no multiple of 64, and one that is not mapped. -/
def sRes (q : List Word) : State := { (sI {} {} {}).modPart 1 (fun p => { p with resumeQ := q }) with arg := { n0 := 1, v := 0x8000 } }
theorem test_resume_queue : gives .resumeqWrite (sRes (List.replicate 15 0)) ((sRes (List.replicate 15 0)).modPart 1 (fun x => { x with resumeQ := List.replicate 15 0 ++ [0x8000] })) = true ∧
    gives .resumeqWrite (sRes (List.replicate 16 0)) ((sRes (List.replicate 16 0)).modPart 1 (fun x => { x with rOvf := true })) = true ∧
    gives .resumeImageTake (sRes [0x20]) ((sRes [0x20]).modPart 1 (fun x => { x with resumeQ := [], rCause := 0x05, rFail := true })) = true ∧
    ((sRes [0x40000000]).readImage 0 1 0 0x40000000).1 = none ∧ gives .resumeImageTake (sRes [0x40000000]) (((sRes [0x40000000]).readImage 0 1 0 0x40000000).2.modPart 1 (fun x => { x with resumeQ := [], rCause := 0x08, rFail := true })) = true := by decide +kernel
/-- The image of a context 0 at 0x8000: version 1, valid, home unit 3, one window. -/
def sRes2 : State := { sRes [0x8000] with mem := memWrite (memWrite (sRes []).mem 0x800000208000 [1, 0, 0, 0, 0, 0, 0, 0, 3, 0, 2, 1]) 0x800000208024 [1] }
theorem test_resume_image : (match (sRes2.readImage 0 1 0 0x8000).1 with | some b => imgOk b && imgAt b 4 2 == 0 && imgAt b 8 2 == 3 && imgAt b 0xA 1 == 2 | none => false) = true ∧ (sRes2.dirE 0).st ≠ 1 ∧ 0 ∉ sRes2.retRec := by decide +kernel

/-! ### Barriers, events and tasks -/

/-- A barrier register of the rectangle of units 3 and 4, two arrivals a phase, and one more field; context 5 with scalars. -/
def bv (n : Nat) : Word := BitVec.ofNat 64 (3 * 2 ^ 39 + 2 ^ 35 + 2 * 2 ^ 20 + n)
def sBar (v : Word) (x : Ctx) : State := one { x with sreg := [(9, bv 2), (10, 4), (11, 0x1000000000000)] } { bars := [(2, { val := v, part := 1, lunit := 3 })] }
theorem test_barset : (canRead (sBar 0 {}) 9 ∧ canName (sBar 0 {}) 4 ∧ ((sBar 0 {}).cluster (clusterOf 256)).proxy = [] ∧ (barAt (sBar (bv 0x12) {}) 2).narr = 0 ∧ (barAt (sBar (bv 0x12) {}) 2).phase = 4) ∧
    runs (.barset 4 9 2) (sBar (bv 0x12) {}) (fun t => (barAt t 2).val == bv 0x12 && (t.ctx 5).s 4 == bv 0x12 && (t.ctx 5).pc == 0x404) = true ∧
    gives (.barset 4 9 2) (sBar (bv 0x402) {}) (trapped (sBar (bv 0x402) {}) (.barset 4 9 2) 0x07) = true ∧ gives (.barset 4 10 2) (sBar 0 {}) (trapped (sBar 0 {}) (.barset 4 10 2) 0x07) = true := by decide +kernel
theorem test_arrivals : (mayArrive (sBar (bv 2) {}) (barAt (sBar (bv 2) {}) 2) ∧ notStaggered (sBar (bv 2) {}) 2 ∧ (sBar (bv 2) {}).relOk 5 = true ∧ (barAt (sBar (bv 2) {}) 2).narr = 0 ∧ (barAt (sBar (bv 2) {}) 2).nloc = 2 ∧ (barAt (sBar (bv 0x802) {}) 2).narr = 2) ∧
    runs (.bararr 4 2) (sBar (bv 2) {}) (fun t => (barAt t 2).narr == 1 && (t.ctx 5).s 4 == 0 && (t.ctx 5).pc == 0x404) = true ∧
    gives (.bararr 4 2) (sBar (bv 0x802) {}) (barWaits (sBar (bv 0x802) {}) (.bararr 4 2) 2) = true ∧
    runs (.bararr 4 2) (sBar (bv 3) {}) (fun t => (t.ctx 5).held && ((t.ctx 5).trec.getD 0 0).toNat % 128 == 0x38 && (t.ctx 5).trec.getD 2 0 == 2) = true ∧
    gives (.bararr 4 2) (sBar (bv 0) {}) (trapped (sBar (bv 0) {}) (.bararr 4 2) 0x07) = true := by decide +kernel
theorem test_barsync : runs (.barsync 4 2) (sBar (bv 2) {}) (fun t => (barAt t 2).narr == 1 && (t.ctx 5).barr == some (2, 0) && (t.ctx 5).wait.isSome && (t.ctx 5).pc == 0x400) = true ∧
    (barAt (sBar (bv 6) { barr := some (2, 0) }) 2).phase = 1 ∧
    runs (.barsync 4 2) (sBar (bv 6) { barr := some (2, 0) }) (fun t => (t.ctx 5).barr == none && (t.ctx 5).s 4 == 1 && (t.ctx 5).pc == 0x404) = true := by decide +kernel
theorem test_barwt : gives (.barwt 4 10 2) (sBar (bv 2) {}) ((written (begun (sBar (bv 2) {}) (.barwt 4 10 2)) 4 0).retire false) = true ∧
    gives (.barwt 4 10 2) (sBar (bv 0x12) {}) (barWaits (sBar (bv 0x12) {}) (.barwt 4 10 2) 2) = true ∧
    gives (.barwt 4 10 2) (sBar (bv 0x12) { task := { active := true } }) (trapped (sBar (bv 0x12) { task := { active := true } }) (.barwt 4 10 2) 0x18) = true := by decide +kernel
/-- A barrier packet for the register of logical unit 3. -/
def sg (k : Nat) : Sig := { kind := k, part := 1, lunit := 3, reg := 2, desc := barDesc (bv 2) }
def sSig (k : Nat) : State := { sBar (bv 2) {} with pkts := [{ src := 257, dst := 256, body := .sig (sg k) }] }
theorem test_signals : ((sSig 0).pkts[(sSig 0).arg.n0]? = some { src := 257, dst := 256, body := .sig (sg 0) } ∧ (sSig 0).lumRes 1 3 = .to 256 ∧ ((sSig 0).unit 256).gated = false ∧ (sg 0).fits ((sSig 0).bar 256 2) = true) ∧
    runs .barrierRowSignal (sSig 0) (fun t => (t.bar 256 2).row && (t.bar 256 2).val == bv 2) = true ∧ runs .barrierColumnSignal (sSig 1) (fun t => (t.bar 256 2).col) = true ∧
    runs .barrierRelease (sSig 2) (fun t => (t.bar 256 2).phase == 1 && (t.dirE 5).event) = true ∧ (5 ∈ (sSig 2).homedOn 256) ∧
    runs .barrierBreak (sSig 3) (fun t => (t.bar 256 2).brk && !(t.bar 256 2).v) = true ∧
    runs .staggeredReleaseApply { sBar (bv 2) { wait := some { why := wBarrier, since := 0 } } with staggers := [{ u := 256, reg := 2, at_ := 5 }], time := 5 } (fun t => t.staggers == [] && (t.ctx 5).wait == none) = true := by decide +kernel
def sEv (e : Bool) (d : Nat) : State := { (sBar 0 {}).modDir 5 (fun x => { x with event := e, deadline := d }) with time := 4, arg := { n0 := 5 } }
theorem test_wfe : runs (.wfe 4 11) (sEv true 9) (fun t => (t.ctx 5).s 4 == 1 && !(t.dirE 5).event && (t.dirE 5).deadline == 0 && (t.ctx 5).pc == 0x404) = true ∧
    runs (.wfe 4 10) (sEv false 0) (fun t => (t.ctx 5).s 4 == 0 && (t.dirE 5).deadline == 0) = true ∧
    runs (.wfe 4 0) (sEv false 0) (fun t => (t.ctx 5).wait.isSome && (t.dirE 5).deadline == 0) = true ∧ runs (.wfe 4 11) (sEv false 0) (fun t => (t.ctx 5).wait.isSome && (t.dirE 5).deadline == 2 ^ 48) = true ∧
    gives .wfeDeadline (sEv false 4) ((sEv false 0).unpark 5) = true := by decide +kernel

/-- A counter at 0x400 of the own scratchpad: RELOAD 3, ring 2, packet 0x10 granules of 64, COUNT `n`. -/
def cw (n : Nat) : Word := BitVec.ofNat 64 (3 * 2 ^ 48 + 0x10 * 2 ^ 35 + 2 * 2 ^ 32 + n)
def sDc (n : Nat) (own : Option Nat) : State := { (one { sreg := [(9, 0xFFFF100000000400), (10, 4)] } { rings := [(2, { owner := own, part := 1, q := [0x77] })] }) with
  mem := memWrite [] (unitLoc 256 0x400) (toBytes 8 (cw n).toNat) }
theorem test_dcnt_hypotheses : dcntReady (sDc 4 (some 5)) 4 9 10 (unitLoc 256 0x400) ∧ ((sDc 4 (some 5)).ownStores 5 = []) ∧ leVal (sDc 9 none).mem (unitLoc 256 0x400) 8 = (cw 9).toNat ∧
    Memory.wf (sDc 9 none).mem = true ∧ Memory.wf (sDc 4 (some 5)).mem = true := by decide +kernel
theorem test_dcnt : runs (.dcnt 4 9 10) (sDc 0 none) (fun t => (t.ctx 5).s 4 == cw 0 && decide (t.mem = (sDc 0 none).mem)) = true ∧
    runs (.dcnt 4 9 10) (sDc 9 none) (fun t => (t.ctx 5).s 4 == cw 9 && leVal t.mem (unitLoc 256 0x400) 8 == (cw 5).toNat) = true ∧
    runs (.dcnt 4 9 10) (sDc 4 (some 5)) (fun t => leVal t.mem (unitLoc 256 0x400) 8 == (cw 3).toNat && (t.ring 256 2).q == [0x77, 0xFFFF100000000400] && (t.ctx 5).s 4 == cw 4) = true ∧
    gives (.dcnt 4 9 10) (sDc 1 none) (trapped (sDc 1 none) (.dcnt 4 9 10) 0x06) = true := by decide +kernel
/-- Context 5 names its ring 2 in s10, a packet at 0x400 in s9; the ring's entries and state vary. -/
def sTq (r : Ring) (x : Ctx) : State := { (sE [] []) with units := [(256, { slots := [(0, 5)], segOn := 0xFF, rings := [(2, r)] })] }.modCtx 5
  (fun y => { x with sreg := [(9, 0xFFFF100000000400), (10, 2), (11, 8), (12, 1), (13, cap 6 2 1)] ++ x.sreg, pc := y.pc })
def rg (q : List Word) : Ring := { owner := some 5, part := 1, q := q }
theorem test_taskq : runs (.taskq 10 9 1) (sTq (rg []) {}) (fun t => (t.ring 256 2).q == [0xFFFF100000000401] && (t.ctx 5).pc == 0x404) = true ∧
    gives (.taskq 11 9 1) (sTq (rg []) {}) (trapped (sTq (rg []) {}) (.taskq 11 9 1) 0x06) = true ∧ gives (.taskq 10 9 1) (sTq {} {}) (trapped (sTq {} {}) (.taskq 10 9 1) 0x06) = true ∧
    (capGives (sTq (rg []) {}) (cap 6 2 1) 30 ∧ mayInject (sTq (rg []) {}) (cap 6 2 1) (.taskq 0xFFFF100000000401)) ∧
    runs (.taskqCap 13 9 1) (sTq (rg []) {}) (fun t => t.pkts.any (fun p => match p.body with | .delivery d => d.cap == cap 6 2 1 && d.kind == .taskq 0xFFFF100000000401 | _ => false) && (t.ctx 5).pc == 0x404) = true ∧
    runs (.taskqOwn 10 12) (sTq { rg [0x77] with owner := none, frozen := true } {}) (fun t => t.ring 256 2 == { rg [0x77] with thr := 1 } && (t.ctx 5).pc == 0x404) = true := by decide +kernel
/-- The packet of K = 0 at 0x400: target 0x900, coordinate 7. -/
def pkt0 : List (Nat × Nat) := [(unitLoc 256 0x400, 0x900), (unitLoc 256 0x408, 7), (unitLoc 256 0x410, 0), (unitLoc 256 0x418, 0), (unitLoc 256 0x420, 0), (unitLoc 256 0x428, 0), (unitLoc 256 0x430, 0), (unitLoc 256 0x438, 0)]
def sTe : State := { sTq (rg [0xFFFF100000000400, 5]) {} with mem := memWrite [] (unitLoc 256 0x400) (toBytes 64 (0x900 + 7 * 2 ^ 64)) }
theorem test_task_packet : Dwords 8 (begun sTe (.taskend 10)) 0xFFFF100000000400 (pkt0.map (·.2)) (begun sTe (.taskend 10)) := dwords_of (l := pkt0) (by decide +kernel)
theorem test_taskend_outside : (sTe.ring 256 2).usable 1 = true ∧ plainPacket (pkt0.map (·.2)) ∧ noResults sTe ∧ runs (.taskend 10) sTe (fun t => (t.ring 256 2).q == [5] && (t.ctx 5).pc == 0x900 && (t.ctx 5).csrGet 9 == 7 && (t.ctx 5).s 8 == 0xFFFF100000000400 && (t.ctx 5).task.active && (t.ctx 5).wins.length == 1) = true ∧
    gives (.taskend 10) (sTq { rg [1] with frozen := true } {}) (trapped (sTq { rg [1] with frozen := true } {}) (.taskend 10) 0x1C) = true ∧
    gives (.taskend 10) (sTq (rg []) {}) ((begun (sTq (rg []) {}) (.taskend 10)).parkCtx wRing false) = true ∧
    gives (.taskend 10) (sTq (rg [0, 7]) {}) (((begun (sTq (rg [0, 7]) {}) (.taskend 10)).setRing 256 2 (rg [7])).retire false) = true := by decide +kernel
theorem test_taskend_inside : runs (.taskend 0) (sTq {} { wins := [{ regs := [(9, 3)] }], task := { active := true } }) (fun t => (t.ctx 5).task == {} && (t.ctx 5).wins == [] && (t.ctx 5).s 9 == 3 && (t.ctx 5).pc == 0x400) = true ∧
    runs (.taskend 0) (sTq {} { wins := [{}], task := { active := true, opcall := true, opcPc := 0x500, opcRd := 4, meth := 6 } }) (fun t => (t.ctx 5).pc == 0x504 && (t.ctx 5).s 4 == 6) = true := by decide +kernel
/-- A packet of K = 1 at 0x400 with one operand at 0x800 whose granule's tag is 0x21; the table has one method for operator 6. -/
def sOp : State := { sTe with mem := memWrite (memWrite [] (unitLoc 256 0x400) (toBytes 64 (6 + 0x101 * 2 ^ 96 + 0xFFFF100000000800 * 2 ^ 128))) (unitLoc 256 0x440) (toBytes 32 (0xA00 + 6 * 2 ^ 64 + 2 ^ 80 + 0x21 * 2 ^ 96))
                              tags := [(unitLoc 256 0x800 / 1024, 0x21)], parts := sTe.parts.map (fun e => (e.1, { e.2 with methBase := 0xFFFF100000000440, methCnt := 1 })) }
theorem test_opcall : (match readPacket 0xFFFF100000000400 (some 6) (begun sOp (.opcall 4 9 6)) with | .ok q t => q.routine == 0xA00 && (q.convs.length == 0) && decide (t.cur = 5) && decide (t.ctx 5 = sOp.ctx 5) | _ => false) = true ∧
    noResults sOp ∧ runs (.opcall 4 9 6) sOp (fun t => (t.ctx 5).task.active && (t.ctx 5).task.opcall && (t.ctx 5).task.opcPc == 0x400 && (t.ctx 5).task.opcRd == 4 && (t.ctx 5).pc == 0xA00 && (t.ctx 5).wins.length == 1) = true := by decide +kernel
/-- Unit 256 has six movable entries above what its neighbour reported; two cross when its 512 cycles are over. -/
def sBal : State := { one {} {} with arg := { n0 := 0 }, units := [(0, { cyc := 600, rings := [(2, { owner := some 5, part := 1, thr := 1, q := [1, 3, 5, 7, 9, 11], seen := [(1, 2)] })] }), (1, { rings := [(2, { owner := some 6, part := 1, q := [7] })] })], island := { st := 0 } }
theorem test_load_balance : neighbour 0 1 = some 1 ∧ runs .loadBalance sBal (fun t => (t.unit 0).balanced == 512 && (t.ring 0 2).q == [1, 3, 5, 7] && (t.ring 1 2).q == [7, 9, 11]) = true := by decide +kernel
/-! ### Traps and the management core -/

/-- Context 5 with a handler at 0x2000 (enabled by bit 0), scalars to recognise, a second window behind; a waiting record or event. -/
def sTr (h : Nat) (l : List Rec) (a : List Async) : State := { (one { sreg := [(2, 0x22), (9, 0x99), (24, 0x24)], wins := [{ regs := [(8, 0x88)] }], csr := [(0x30, BitVec.ofNat 64 (0x2000 + h))] } { sfq := l }).modDir 5
  (fun d => { d with async := a }) with arg := { n0 := 5 }, time := 77 }
theorem test_trap_enters : handlerFree (sTr 1 [] []) 5 ∧ canRead (sTr 1 [] []) 9 ∧
    runs (.trap 9 3) (sTr 1 [] []) (fun t => (t.ctx 5).pc == 0x2000 && (t.ctx 5).csrGet 0x31 == 0x163 && ((t.ctx 5).s 8).toNat % 128 == 0x63 && (t.ctx 5).s 9 == 0x400 && (t.ctx 5).s 10 == 0x99 && (t.ctx 5).s 13 == 77 && (t.ctx 5).s 15 == 0x404 && (t.ctx 5).s 2 == 0x22 &&
      decide ((t.ctx 5).wins.drop 1 = ((sTr 1 [] []).ctx 5).asWin :: ((sTr 1 [] []).ctx 5).wins)) = true := by decide +kernel
theorem test_trap_holds : runs (.trap 9 3) (sTr 0 [] []) (fun t => (t.ctx 5).held && (t.ctx 5).pc == 0x400 && ((t.ctx 5).trec.getD 0 0).toNat % 128 == 0x63 && (t.ctx 5).trec.getD 1 0 == 0x400 && (t.ctx 5).trec.getD 2 0 == 0x99 && (t.ctx 5).trec.getD 7 0 == 0x404 &&
    ((t.cluster 16).mbox.map (·.words) == [(t.ctx 5).trec]) && (t.ctx 5).s 9 == 0x99) = true := by decide +kernel
/-- A failed store's record and an event. -/
def rec1 : Rec := { ctx := 5, cause := 0x10, kind := 1, pc := 0x3F0, addr := 0x123 }
def ev (n : Nat) : Async := { cause := n, addr := 9 }
theorem test_waiting_traps : (atBoundary (sTr 1 [rec1] []) 5 256 0 ∧ (sTr 1 [rec1] []).atDrain 5 = false ∧ causeToCmc 0x10 = false ∧ causeToCmc 0x31 = false ∧ causeToCmc 0x48 = true) ∧
    runs .trapEntryHandler (sTr 1 [rec1] []) (fun t => (t.ctx 5).pc == 0x2000 && (t.ctx 5).csrGet 0x31 == 0x110 && (t.ctx 5).s 9 == 0x3F0 && (t.ctx 5).s 10 == 0x123 && (t.ctx 5).s 15 == 0x400) = true ∧
    runs .trapToCmc (sTr 0 [rec1] []) (fun t => (t.ctx 5).held && (t.ctx 5).trec.getD 1 0 == 0x3F0 && (t.ctx 5).trec.getD 7 0 == 0x400) = true ∧
    runs .trapEntryHandler (sTr 1 [] [ev 0x31]) (fun t => (t.ctx 5).csrGet 0x31 == 0x131 && (t.dirE 5).async == [] && (t.ctx 5).s 10 == 9) = true ∧
    runs .trapToCmc (sTr 1 [] [ev 0x48]) (fun t => (t.ctx 5).held && ((t.ctx 5).trec.getD 0 0).toNat % 128 == 0x48) = true := by decide +kernel
def sEr (n : Word) : State := one { sreg := [(15, 0x404), (24, 4), (2, 2)], wins := [{ regs := [(9, 9)] }, { regs := [(9, 0x19), (8, 8)] }, { regs := [(9, 0x29)] }], csr := [(0x31, n)] } {}
theorem test_eret : ((sEr 0x163).handlerWork 5 = false ∧ noResults (sEr 0x163) ∧ canRead (sEr 0x163) 15) ∧
    runs .eret (sEr 0x163) (fun t => (t.ctx 5).pc == 0x404 && (t.ctx 5).csrGet 0x31 == 0 && (t.ctx 5).wins == [{ regs := [(9, 0x29)] }] && (t.ctx 5).s 9 == 0x19 && (t.ctx 5).s 2 == 2 && (t.ctx 5).s 24 == 0) = true ∧
    gives .eret (sEr 0) (trapped (sEr 0) .eret 0x07) = true ∧
    runs (.trap 9 3) (sTr 1 [] []) (fun t => runs .eret t (fun v => (v.ctx 5).csrGet 0x31 == 0 && (v.ctx 5).pc == 0x404 && (v.ctx 5).s 24 == 0x24 && (v.ctx 5).s 9 == 0x99)) = true := by decide +kernel
theorem test_record : (let l := (sTr 0 [rec1] []).record 5 { cause := 0x60, addr := 0x99, size := 3, level := 7, kind := 1, orig := 5 } true 0x400 0x404 0xD8000000
    l.length = 8 ∧ (l.getD 0 0).toNat = 0x60 + 0x80 + 0x100 + 0x3800 + 3 * 2 ^ 14 + 5 * 2 ^ 17 + 2 ^ 24 + 5 * 2 ^ 32) := by decide +kernel

/-- Context 5 of Croft, held with a record whose return pc is 0x404; or frozen, or at work. -/
def sCm (x : Ctx) (d : Dir) : State := { sI { x with trec := [0, 0, 0, 0, 0, 0, 0, 0x404] } {} d with arg := { n0 := 16, n1 := 5, n2 := 0x50 }, clusters := [(16, { ctxPc := 0x700 })] }
theorem test_context_commands : commandFor (sCm {} {}) 16 5 256 0 ∧ runs .ctxcmdResume (sCm { held := true } {}) (fun t => !(t.ctx 5).held && (t.ctx 5).pc == 0x404) = true ∧
    runs .ctxcmdResumeAt (sCm { held := true } {}) (fun t => !(t.ctx 5).held && (t.ctx 5).pc == 0x700) = true ∧
    runs .ctxcmdReset (sCm { held := true } {}) (fun t => (t.dirE 5).st == 2 && (mfind t.ctxs 5).isNone) = true ∧
    runs .ctxcmdRaise (sCm {} {}) (fun t => (t.dirE 5).async.map (·.cause) == [0x50]) = true := by decide +kernel
/-- A mailbox of three entries, head 62, the last marked done. -/
def ent (b : Bool) (n : Nat) : MbEnt := { words := [BitVec.ofNat 64 (5 * 2 ^ 32 + n), 0, 2], unit := some 256, done := b, part := 1, gens := 0x41041041041 }
def sMb (v : Word) : State := { one { grp := 2 } {} with arg := { n0 := 16, n1 := 62, v := v }, clusters := [(16, { mbox := [ent false 0x7F, ent true 0x10, ent false 0x20], head := 62, link := 1, corr := 2, rply := 3 })] }
theorem test_mailbox : runs .tmbheadAdvance (sMb 63) (fun t => (t.cluster 16).mbox == [ent false 0x20] && (t.cluster 16).head == 0) = true ∧
    runs .tmbheadAdvance (sMb 0) (fun t => (t.cluster 16).mbox.length == 3 && (t.cluster 16).head == 62) = true ∧
    runs .tmbfreeMark (sMb 0x8000000000000000) (fun t => (t.cluster 16).mbox == [ent false 0x7F, ent true 0x10, ent true 0x20] && (t.cluster 16).head == 62) = true ∧
    runs .errcntRead (sMb 0) (fun t => (t.cluster 16).link == 0 && (t.cluster 16).corr == 0 && (t.cluster 16).rply == 0) = true ∧
    runs .cmcGroupStop (sMb 0) (fun t => (t.part 1).grpKill == 2 && (t.dirE 5).st == 2) = true ∧ (sMb 0).ctxId 5 = 5 := by decide +kernel
/-! ### Migrations, stores on their way, packets and links -/

/-- Context 5 of Croft's first unit; unit 257 is free; LUM entry 3 names unit 256, or migrates; requests and the operand of MIGREQ. -/
def sMg (l : List Mig) (v : Word) (st : Nat) : State := { sE [] [] with island := { st := 0 }, migs := l, arg := { n0 := 256, v := v }, time := 2000000, parts := [(1, { en := true, lum := [(3, BitVec.ofNat 32 (2 ^ 31 + st * 2 ^ 29 + 256))] })] }
def mg (k : Nat) (h : Bool) : Mig := { src := 256, dst := 257, kind := k, raised := 1, honoured := h }
theorem test_migreq : (sMg [] 0 0).migOk 256 257 = true ∧ (sMg [] 0 0).migOk 256 256 = false ∧
    runs .migreqRaise (sMg [] (BitVec.ofNat 64 (2 ^ 63 + 2 ^ 61 + 257 * 2 ^ 32 + 256)) 0) (fun t => bit t.migReg 63 && t.migs == [{ src := 256, dst := 257, kind := 2, raised := 2000000, reg := true }]) = true ∧
    runs .migreqRaise (sMg [] (BitVec.ofNat 64 (2 ^ 63 + 256 * 2 ^ 32 + 256)) 0) (fun t => !bit t.migReg 63 && bit t.migReg 60 && (t.migReg.toNat / 2 ^ 48 % 128 == 7) && t.migs == []) = true ∧
    gives .migreqRaise (sMg [] 0xE000000000000000 0) (sMg [] 0xE000000000000000 0) = true := by decide +kernel
theorem test_migration_honour : ((sMg [mg 1 false] 0 0).pendingMig 256 = some (mg 1 false) ∧ (sMg [mg 1 false] 0 0).migAwake (mg 1 false) = true ∧ (sMg [mg 1 false] 0 0).pointBound 256 = [] ∧ names ((sMg [] 0 0).lumEntry 1 3) 256) ∧
    runs .migrationHonour (sMg [mg 1 false] 0 0) (fun t => t.migs == [mg 1 true] && t.lumEntry 1 3 == 0xA0000100) = true ∧
    runs .migrationTimeout (sMg [mg 1 false] 0 0) (fun t => t.migs == []) = true ∧ runs .migrationTimeout (sMg [mg 2 false] 0 0) (fun t => t.migs == [mg 3 false]) = true := by decide +kernel
theorem test_migration_complete : ((sMg [mg 1 true] 0 1).migs.find? (fun m => m.src == 256 && m.honoured) = some (mg 1 true) ∧ (∀ c ∈ (sMg [mg 1 true] 0 1).inUnit 256, (sMg [mg 1 true] 0 1).canMove c = true) ∧ ((sMg [mg 1 true] 0 1).unit 256).sb = []) ∧
    5 ∈ (sMg [mg 1 true] 0 1).inUnit 256 ∧ Memory.wf (sMg [mg 1 true] 0 1).mem = true ∧
    runs .migrationComplete (sMg [mg 1 true] 0 1) (fun t => (t.dirE 5).place == .tcc 257 && t.lumEntry 1 3 == 0x80000101 && memGet t.mem (unitLoc 257 0x800) == 0x11 && ((t.unit 256).slots == [])) = true := by decide +kernel
theorem test_migpt : runs (.migpt 4) ((sMg [] 0 0).modDir 5 (fun d => { d with migptDone := true })) (fun t => (t.ctx 5).s 4 == 1 && !(t.dirE 5).migptDone) = true ∧
    (sMg [] 0 0).migPending 256 = 0 ∧ runs (.migpt 4) (sMg [] 0 0) (fun t => (t.ctx 5).pc == 0x404 && (t.ctx 5).s 4 == 0) = true ∧
    (sMg [mg 1 false] 0 0).migPending 256 ≠ 0 ∧ runs (.migpt 4) (sMg [mg 1 false] 0 0) (fun t => (t.dirE 5).arrived && (t.dirE 5).arrRd == 4 && (t.ctx 5).wait.isSome) = true ∧
    runs (.migptBind 4) (sMg [] 0 0) (fun t => (t.dirE 5).bound && (t.ctx 5).s 4 == 0) = true ∧ runs (.migptFree 4) ((sMg [] 0 0).modDir 5 (fun d => { d with bound := true })) (fun t => !(t.dirE 5).bound && (t.ctx 5).s 4 == 1) = true := by decide +kernel
/-- CASC at Croft, with Acre asleep and destination 257 set, and at an Acre unit with Acre on. -/
def sCs (isl : Nat) (l : Map Word) : State := { sMg [] 0 0 with island := { st := isl }, cascDst := l }
def sCsA : State := { sCs 0 [] with dir := [(5, { st := 1, part := 1, home := 3, place := .slot 0 0 })], units := [(0, { slots := [(0, 5)] })], parts := [(1, { en := true, lum := [(3, 0x80000000)] })] }
theorem test_casc : ((sCs 1 []).cascTo 256 = none ∧ (sCs 1 [(0, 0x8000000000000101)]).cascTo 256 = some 257 ∧ (sCs 1 [(0, 0x8000000000000101)]).migOk 256 257 = true ∧ (sCs 1 []).relOk 5 = true ∧ sCsA.relOk 5 = true ∧ canRead (sCs 1 []) 9) ∧
    runs (.casc 4 9 1) (sCs 1 []) (fun t => (t.ctx 5).s 4 == 257 && t.island.request && ((t.part 1).launchQ.map (·.addr) == [0xFFFF100000000400])) = true ∧
    runs (.casc 4 9 1) (sCs 1 [(0, 0x8000000000000101)]) (fun t => (t.ctx 5).s 4 == 769 && t.migs == [{ src := 256, dst := 257, kind := 1, raised := 2000000 }]) = true ∧
    gives (.casc 4 9 1) sCsA (trapped sCsA (.casc 4 9 1) 0x07) = true ∧ runs (.casc 4 0 0) sCsA (fun t => (t.ctx 5).s 4 == 0 && ((t.part 1).launchQ == []) && (t.ctx 5).pc == 0x404) = true := by decide +kernel

/-- One store in the buffer of unit 256: 8 bytes to offset 0x800 that set the word full, resolved, unresolved or failed. -/
def st1 (rs : Nat) (va : Word) (loc : Nat) : Store := { id := 1, ctx := 5, pc := 0x3FC, size := 3, pieces := [{ va := va, loc := loc, n := 8, data := 0x123456789ABCDEF0 }], setFull := true, rs := rs, cause := 0x08, level := 2, fva := va }
def sSt (e : Store) : State := { sE [] [] with units := [(256, { slots := [(0, 5)], segOn := 0xFF, sb := [e] })], arg := { n0 := 256, n1 := 0 }, tags := [(unitLoc 256 0x800 / 1024, 0x21)] }
theorem test_store_perform : performable (sSt (st1 1 0xFFFF100000000800 (unitLoc 256 0x800))) 256 0 (st1 1 0xFFFF100000000800 (unitLoc 256 0x800)) { va := 0xFFFF100000000800, loc := unitLoc 256 0x800, n := 8, data := 0x123456789ABCDEF0 } ∧
    (sSt (st1 1 0xFFFF100000000800 (unitLoc 256 0x800))).waits = [] ∧ Memory.wf (sSt (st1 1 0xFFFF100000000800 (unitLoc 256 0x800))).mem = true ∧
    runs .storePerform (sSt (st1 1 0xFFFF100000000800 (unitLoc 256 0x800))) (fun t => leVal t.mem (unitLoc 256 0x800) 8 == 0x123456789ABCDEF0 && ((t.unit 256).sb == []) && t.feAt (unitLoc 256 0x800) && t.tagAt (unitLoc 256 0x800) == 1) = true := by decide +kernel
/-- The same with a leaf in the unit's TLB that maps the page to host memory. -/
def sTl (e : Store) : State := (sSt e).modUnit 256 (fun y => { y with tlb := [{ part := 1, asn := 0, level := 3, vpn := 0x200, pte := 0x80000020017F, ptePa := 0x3000 }] })
theorem test_store_resolve : runs .storeResolve (sSt (st1 0 0xFFFF100000000800 0)) (fun t => (t.unit 256).sb == [{ st1 1 0xFFFF100000000800 (unitLoc 256 0x800) with cause := 0x08 }]) = true ∧
    (match (sTl (st1 0 0x40000000 0)).resolve ((sTl (st1 0 0x40000000 0)).whoIs 5) 0x40000000 accFW false with | (.fault 0x0D 3, _) => true | _ => false) = true ∧
    runs .storeResolve (sTl (st1 0 0x40000000 0)) (fun t => (t.unit 256).sb.map (fun e => (e.rs, e.cause, e.fva)) == [(2, 0x0D, 0x40000000)]) = true ∧
    (match (sSt (st1 0 0x40000000 0)).resolve ((sSt (st1 0 0x40000000 0)).whoIs 5) 0x40000000 accFW false with | (.miss, t) => t.misses.length < 64 | _ => false) = true ∧
    runs .storeResolve (sSt (st1 0 0x40000000 0)) (fun t => (t.unit 256).sb.map (fun e => e.rs) == [0] && t.misses.any (fun m => m.part == 1 && m.vpn == 0x40000 && m.failed == none && m.units == [256])) = true ∧
    runs .storeFaultRecord (sSt (st1 2 0x40000000 0)) (fun t => (t.unit 256).sb == [] && (t.unit 256).sfq == [{ ctx := 5, cause := 0x10, kind := 1, orig := 0x08, size := 3, level := 2, pc := 0x3FC, no := 1, addr := 0x40000000, data := 0x123456789ABCDEF0 }]) = true := by decide +kernel
/-- A queued load of the word at offset 0x800; a refused ldfe of it. -/
def sLdq : State := { (sE [] []).modCtx 5 (fun x => { x with ports := [(0, { kind := 1, ldq := [{ id := 1, loc := unitLoc 256 0x800 }] })] }) with arg := { n0 := 5, n1 := 0 } }
theorem test_ldq_arrival : ((sLdq.unit 256).sb = [] ∧ sLdq.cutOff 256 (unitLoc 256 0x800) = false ∧ sound sLdq (unitLoc 256 0x800) 8) ∧
    runs .ldqEntryArrival sLdq (fun t => (mget (t.ctx 5).ports 0 {}).ldq == [{ id := 1, loc := unitLoc 256 0x800, arrived := true, val := 0x11 }]) = true := by decide +kernel
def wt : WaitEnt := { req := { ctx := 5, loc := unitLoc 256 0x800, op := .ldff, rd := 4 }, refused := true }
def sRt : State := { (sE [] []).modCtx 5 (fun x => { x with wait := some { why := 1, since := 0, external := true } }) with waits := [wt], fe := [unitLoc 256 0x800 / 8] }
theorem test_retry : (match sRt.atHome 256 wt.req, ({ sRt with waits := [] } : State).atHome 256 wt.req with | .done _ _, .done _ _ => true | _, _ => false) = true ∧
    runs .waitEntryRetry sRt (fun t => t.waits == [] && (t.ctx 5).s 4 == 0x11 && (t.ctx 5).pc == 0x404) = true := by decide +kernel

/-- A remote load of context 5 has come to unit 257; a packet for Acre asleep; ports of link 1 up. -/
def pk1 : Pkt := { src := 256, dst := 257, body := .access { ctx := 5, loc := unitLoc 257 0x800, op := .load 4 true, rd := 4 } }
def sPk (p : Pkt) : State := { sE [] [] with mem := [(unitLoc 257 0x801, 0x80), (unitLoc 257 0x803, 0x80)], pkts := [p], units := [(256, { slots := [(0, 5)] }), (257, { segOn := 0xFF })], linkcfg := 0x20300 }
theorem test_remote_access : ((sPk pk1).pkts[(sPk pk1).arg.n0]? = some pk1 ∧ ((sPk pk1).unit 257).gated = false ∧ (sPk pk1).island.standby = false ∧ sound (sPk pk1) (unitLoc 257 0x800) 4) ∧
    runs .remoteWindowAccess (sPk pk1) (fun t => (t.ctx 5).s 4 == 0xFFFFFFFF80008000 && (t.ctx 5).pc == 0x404 && t.pkts == []) = true ∧
    runs .bridgeHold (sPk { pk1 with dst := 9 }) (fun t => t.pkts == [{ pk1 with dst := 9, held := true, heldAt := 1 }] && t.island.request) = true := by decide +kernel
theorem test_links : runs .meshLinkFailure { sPk pk1 with arg := { n0 := 257, n1 := 256 } } (fun t => t.badLinks == [(256, 257)] && ((t.cluster 16).mbox.map (fun e => ((e.words.getD 0 0).toNat % 128, e.unit)) == [(0x46, none)])) = true ∧
    neighbour 257 3 = some 256 ∧ runs .linkPortFailure { sPk pk1 with arg := { n0 := 1 } } (fun t => t.linkcfg == 0x300) = true := by decide +kernel
/-- Device 1 reads and writes device memory at 0x1002. -/
def sAp (op : ApertureOp) : State := { sPk pk1 with mem := [(0x1002, 0x34), (0x1003, 0x12), (0x1004, 9)], arg := { n0 := 1, n1 := 0x1002, n2 := 2, v := 0xABCDEF, op := op } }
theorem test_aperture : (bit (sAp .read).linkcfg 9 = true ∧ populated 0x1003 = true ∧ sound (sAp .read) 0x1002 2 ∧ Memory.wf (sAp .write).mem = true ∧ (sAp .read).linkcfg.toNat % 8 = 0) ∧
    gives .apertureAccess (sAp .read) { (sAp .read).touch 0x1002 with reply := [0x34, 0x12] } = true ∧ runs .apertureAccess (sAp .write) (fun t => t.mem == [(0x1002, 0xEF), (0x1003, 0xCD), (0x1004, 9)]) = true := by decide +kernel
/-! ### Channels, the host, translation, registers -/

/-- DRAM channel 0 in a state since time 0, MEMPWR with a field, the time, Acre on. -/
def sCh (st : Nat) (m : Word) (now : Nat) : State := { chans := [(0, { st := st, idle := 0 })], mempwr := m, time := now, island := { st := 0 } }
theorem test_channels : gives .dramChannelExit { sCh 1 0 7 with chans := [(0, { st := 1, idle := 0, want := true })] } { sCh 1 0 7 with chans := [(0, { st := 0, idle := 7 })] } = true ∧
    gives .dramChannelExit { sCh 2 0 7 with chans := [(0, { st := 2, idle := 0, want := true })] } { sCh 2 0 7 with chans := [(0, { st := 0, idle := 7 })] } = true ∧ gives .dramChannelExit (sCh 2 0 7) (sCh 2 0 7) = true ∧
    gives .channelPowerDownEntry (sCh 0 0x200 32) { sCh 0 0x200 32 with chans := [(0, { st := 1, idle := 0 })] } = true ∧ gives .channelPowerDownEntry (sCh 0 0x200 31) (sCh 0 0x200 31) = true ∧
    gives .channelSelfRefreshEntry (sCh 1 0x10001 1000) { sCh 1 0x10001 1000 with chans := [(0, { st := 2, idle := 0 })] } = true := by decide +kernel
theorem test_segments : isDram 0x2000 = true ∧ chanOf 0x2000 = 0 ∧ bit (sCh 2 0x01000000 7).mempwr (24 + segOf 0x2000) = true := by unfold segOf; split <;> decide
def sPs (e : Nat) : State := { sE [] [] with arg := { n0 := unitLoc 256 0x800 }, memErr := if e = 0 then [] else [(unitLoc 256 0x800 / 8, e)] }
theorem test_scrub : ((sPs 0).errAt (unitLoc 256 0x800) = 0 ∧ (sPs 1).errAt (unitLoc 256 0x800) = 1 ∧ mget (sPs 1).tagErr (unitLoc 256 0x800 / 1024) 0 = 0 ∧ bit ((sPs 0).unit 256).segOn 0 = true) ∧ gives .patrolScrub (sPs 0) (sPs 0) = true ∧
    runs .patrolScrub (sPs 1) (fun t => t.errAt (unitLoc 256 0x800) == 0 && ((t.cluster 16).mbox.map (fun e => ((e.words.getD 0 0).toNat % 128, e.words.getD 2 0)) == [(0x40, BitVec.ofNat 64 (unitLoc 256 0x800))])) = true := by decide +kernel

/-- The host at work: memory at 0x1000, operands. -/
def sH (a : Arg) : State := { mem := [(0x1002, 0x34), (0x1003, 0x12), (0x1004, 9)], bootStage := 5, arg := a }
theorem test_host_memory : (∀ i, i < 3 + 128 → (mget (sH {}).chans (chanOf (0x1002 / 64 * 64 + i)) {}).st = 0 ∧ (sH {}).errAt (0x1002 / 64 * 64 + i) = 0) ∧ (sH {}).power = true ∧ (sH {}).bootErr = 0 ∧ populated 0x1004 = true ∧
    (sH {}).partBad 0x1002 2 = [] ∧ (sH {}).waits = [] ∧ Memory.wf (sH {}).mem = true ∧
    runs .hostRead (sH { n0 := 0x1002, n1 := 3 }) (fun t => t.reply == [0x34, 0x12, 9]) = true ∧
    runs .hostWrite (sH { n0 := 0x1002, data := [0, 7] }) (fun t => t.mem == [(0x1003, 7), (0x1004, 9)] && t.feAt 0x1002) = true := by decide +kernel
theorem test_host_registers : isRegBlock 0x7F0000000810 = true ∧ errcntAt (0x7F0001240508 - 0x7F0001000000) = none ∧
    runs .hostRead (sH { n0 := 0x7F0001240508, n1 := 8 }) (fun t => t.reply == [0xE8, 3, 0, 0, 0, 0, 0, 0]) = true ∧
    runs .hostWrite (sH { n0 := 0x7F0001240508, data := [5, 1, 0, 0, 0, 0, 0, 0] }) (fun t => t.migTmo == 261) = true := by decide +kernel
/-- The region of 2 MiB at 64 × 2 MiB is the first of the map's second register; the host caches a line of it. -/
def sShm (v : Word) (h l : List Nat) : State := { sharing := l, hostLines := h, arg := { n0 := 0x10008, v := v } }
theorem test_sharing : runs .sharingMapWrite (sShm 1 [] []) (fun t => t.sharing.contains 64 && !t.sharingClear.contains 64) = true ∧ runs .sharingMapWrite (sShm 0 [] [64]) (fun t => !t.sharing.contains 64) = true ∧
    runs .sharingMapWrite (sShm 0 [64 * 0x8000] [64]) (fun t => t.sharing.contains 64 && t.sharingClear.contains 64) = true ∧ populated (64 * 0x200000) = true ∧
    runs .sharingMapClearDone { sShm 0 [64 * 0x8000, 7] [9, 64] with sharingClear := [64] } (fun t => t.sharing == [9] && t.sharingClear == [] && t.hostLines == [7]) = true := by decide +kernel

/-- A miss of unit 256 for page 0, mapped by `ptab`; or for a page above it that is not. -/
def ms (w : Bool) (vpn : Nat) : Miss := { part := 1, asn := 0, vpn := vpn, croft := true, units := [256], ctxs := [5], walking := w }
def sMs (m : Miss) (n : Nat) : State := { sI {} {} {} with misses := [m], arg := { n0 := n } }
theorem test_walks : ((sMs (ms false 0) 16).misses.find? (fun m => !m.walking && m.failed.isNone && m.units.any (fun u => clusterOf u == 16)) = some (ms false 0)) ∧
    gives .tlbMissWalkStart (sMs (ms false 0) 16) (sMs (ms true 0) 16) = true ∧
    (match ((sMs (ms true 0) 0).walk 256 1 0 0).1, ((sMs (ms true 0) 0).walk 256 1 0 (0x40000 * 4096)).1 with | .leaf l pte pa, .fail m => l == 3 && pa == 0x3000 && pte == 0x80000020017F && m == 2 | _, _ => false) = true ∧
    runs .walkComplete (sMs (ms true 0) 0) (fun t => t.misses == [] && ((t.unit 256).tlb.map (fun e => (e.level, e.vpn, e.ptePa)) == [(3, 0, 0x3000)])) = true ∧
    runs .walkComplete (sMs (ms true 0x40000) 0) (fun t => t.misses.map (fun m => (m.walking, m.failed.isSome)) == [(false, true)]) = true := by decide +kernel
/-- Translations of partition 1: space 2, page 5; space 2, page 6, global; space 3, page 5; and one of partition 2. -/
def tl : List TlbEnt := [{ part := 1, asn := 2, level := 4, vpn := 5, pte := 0, ptePa := 0 }, { part := 1, asn := 2, level := 4, vpn := 6, pte := 0x80, ptePa := 0 }, { part := 1, asn := 3, level := 4, vpn := 5, pte := 0, ptePa := 0 }, { part := 2, asn := 2, level := 4, vpn := 5, pte := 0, ptePa := 0 }]
def sInv (b : Word) : State := { units := [(256, { tlb := tl })], clusters := [(16, { tlb := tl })], parts := [(1, { xltva := 0x5000, xltinv := b })], arg := { n0 := 1, n1 := 2 } }
/-- What an invalidation leaves in a unit's and a cluster's buffer, by places in the list. -/
def left (i : Instr) (l : List Nat) : Bool := runs i (sInv 0) (fun t => (t.unit 256).tlb == l.filterMap (fun n => tl[n]?) && (t.cluster 16).tlb == l.filterMap (fun n => tl[n]?) && bit (t.part 1).xltinv 63)
theorem test_invalidations : left .xltinvPartition [3] = true ∧ left .xltinvAsn [1, 2, 3] = true ∧ left .xltinvAsnPage [1, 2, 3] = true ∧ left .xltinvPageAllAsn [1, 3] = true ∧ left .xltinvWalkCaches [0, 1, 2, 3] = true ∧
    (sInv 0x8000000000000002).oldAccesses 1 = false ∧ gives .xltinvDone (sInv 0x8000000000000002) (sInv 2) = true := by decide +kernel
/-- Entry 3 names unit 256, is held by context 5; entry 4 migrates; entry 6 is free. -/
def sLum (n : Nat) (v : Word) : State := { one {} {} with parts := [(1, { lum := [(3, 0x80000100), (4, 0xA0000101)], keyLow := some 9 })], arg := { n0 := 1, n1 := n, v := v } }
theorem test_lum : ((sLum 3 0).heldBy 1 3 ≠ [] ∧ (sLum 3 0).heldBy 1 6 = []) ∧ gives .lumWrite (sLum 3 0x80000101) (sLum 3 0x80000101) = true ∧ gives .lumWrite (sLum 3 0) (sLum 3 0) = true ∧ gives .lumWrite (sLum 4 0) (sLum 4 0) = true ∧
    runs .lumWrite (sLum 6 0xFFFFFFFF80000F02) (fun t => t.lumEntry 1 6 == 0x80000102 && t.lumEntry 1 3 == 0x80000100) = true ∧
    runs .capkeyStageLow (sLum 0 5) (fun t => (t.part 1).keyLow == some 5) = true ∧ runs .capkeyCommit (sLum 0 5) (fun t => (t.part 1).key == 0x50000000000000009 && (t.part 1).keyLow == none) = true := by decide +kernel
/-- A register write at an offset of partition 1's block or, with 16, of the device's. -/
def rwr (p off : Nat) (v : Word) (f : State → Bool) : Bool := runs .registerWrite { parts := [(1, { lOvf := true, lFail := true })], arg := { n0 := p, n1 := off, v := v } } f
theorem test_partition_registers : rwr 1 0x400 0x1FFF (fun t => (t.part 1).astBase == 0x1FFF) = true ∧ rwr 1 0x408 0x1FFF (fun t => (t.part 1).xltva == 0x1000) = true ∧ rwr 1 0x810 0x3F (fun t => (t.part 1).methBase == 0x20) = true ∧
    rwr 1 0x818 0x1FFFF (fun t => (t.part 1).methCnt == 0xFFFF) = true ∧ rwr 1 0x808 1 (fun t => (t.part 1).lOvf && !(t.part 1).lFail) = true ∧ rwr 1 0x900 1 (fun t => (t.part 1).lOvf && (t.part 1).lFail) = true := by decide +kernel
theorem test_device_registers : rwr 16 0x210078 5 (fun t => (t.part 15).budget == 5) = true ∧ rwr 16 0x203FC8 0xFF00000000000001 (fun t => (t.unit 255).slotcfg == 1) = true ∧ rwr 16 0x240618 0xFFFFFFFFFFFFFFFF (fun t => mget t.cascDst 3 0 == 0x80000000000001FF) = true ∧
    rwr 16 0x240300 0x2FFFFFFFF (fun t => t.slew == 0x200FFFFFF) = true ∧ rwr 16 0x240300 0x300000001 (fun t => t.slew == 0x40000) = true ∧ rwr 16 0x240308 7 (fun t => t.phase0 == 7) = true ∧ rwr 16 0x240310 7 (fun t => t.phase1 == 7) = true ∧
    rwr 16 0x240508 0x100000007 (fun t => t.migTmo == 7) = true ∧ rwr 16 0x260008 0x100000007 (fun t => t.lroute == 7) = true ∧ rwr 16 0x240400 0x606050 (fun t => t.therm == 0x69645F) = true ∧ rwr 16 0x240400 0x6C6B64 (fun t => t.therm == 0x6C6B64) = true ∧
    rwr 16 0x240400 0x606160 (fun t => t.therm == 0x69645F) = true := by decide +kernel
/-! ### Islands, pulses, heat, partitions and boot -/

/-- Acre in a state, with fields; the operand of a write; context 5 on Croft. -/
def sIs (i : Island) (v : Word) : State := { sE [] [] with island := i, arg := { n0 := 257, v := v }, time := 5000000 }
theorem test_islctl_wake : gives .islctlWake (sIs { st := 0 } 0x8080) { sIs { st := 0 } 0x8080 with island := ctlWritten (sIs { st := 0 } 0x8080) 0x8080 1 } = true ∧
    runs .islctlWake (sIs { st := 1 } 0) (fun t => t.island.st == 3 && t.island.to_ == 0 && t.island.busy && t.island.request) = true ∧ runs .islctlWake (sIs { st := 3, to_ := 1 } 0) (fun t => t.island.request && t.island.busy) = true := by decide +kernel
theorem test_islctl_wake_transition : runs .islctlWake (sIs { st := 3, to_ := 0 } 0) (fun t => t.island.st == 3 && t.island.to_ == 0 && t.island.request) = true := by decide +kernel
theorem test_islctl_down : runs .islctlRetention (sIs { st := 0 } 0) (fun t => t.island.st == 3 && t.island.to_ == 1 && t.island.busy && t.island.since == 5000000) = true ∧ runs .islctlRetention (sIs { st := 1 } 0) (fun t => t.island.st == 1 && !t.island.ref) = true ∧
    runs .islctlRetention (sIs { st := 2 } 0) (fun t => t.island.st == 2 && t.island.ref) = true ∧ runs .islctlOff (sIs { st := 1 } 0) (fun t => t.island.st == 3 && t.island.to_ == 2) = true ∧ runs .islctlOff (sIs { st := 2 } 0) (fun t => t.island.st == 2 && !t.island.ref) = true ∧
    runs .islctlOff (sIs { st := 3 } 0x80) (fun t => t.island.ref) = true ∧ (sIs { st := 0 } 0).acreMig = false ∧ (sIs { st := 0 } 0).offBlocked = false := by decide +kernel
theorem test_automatic : gives .acreAutoRetention (sIs { st := 0, auto := true } 0) { sIs { st := 0, auto := true } 0 with island := goesDown { st := 0, auto := true } 5000000 1 false } = true ∧
    gives .acreAutoOff (sIs { st := 1, auto := true, offIdle := 5 } 0) { sIs { st := 1, auto := true, offIdle := 5 } 0 with island := goesDown { st := 1, auto := true, offIdle := 5 } 5000000 2 false } = true ∧
    gives .acreAutoOff (sIs { st := 1, auto := true, offIdle := 6 } 0) (sIs { st := 1, auto := true, offIdle := 6 } 0) = true := by decide +kernel
def sDn (to_ : Nat) (e : Bool) (b : Bool) : State := { sIs { st := 3, to_ := to_, from_ := 1, busy := true, emergency := e } 0 with mem := [(0x1000, 7), (unitLoc 9 5, 8), (unitLoc 256 0x800, 9)], units := [(9, { tlb := tl, bars := if b then [(1, { val := 2 })] else [] })] }
theorem test_entry_done : ((sDn 1 false false).acreHolds = false ∧ (sDn 1 false false).acreBusy = false ∧ (sDn 2 false true).offBlocked = true ∧ (sDn 2 false false).offBlocked = false ∧ Memory.wf (sDn 2 false false).mem = true) ∧
    runs .acreEntryDone (sDn 1 false false) (fun t => t.island.st == 1 && !t.island.busy && ((t.unit 9).tlb == []) && t.mem.length == 3) = true ∧
    runs .acreEntryDone (sDn 2 false true) (fun t => t.island.st == 1 && t.island.ref) = true ∧
    runs .acreEntryDone (sDn 2 false false) (fun t => t.island.st == 2 && t.mem == [(0x1000, 7), (unitLoc 256 0x800, 9)]) = true ∧ runs .acreEntryDone (sDn 2 true true) (fun t => t.island.st == 2 && !t.island.emergency && !((t.bar 9 1).v)) = true := by decide +kernel
theorem test_wake_done : runs .acreWakeDone { (sIs { st := 3, to_ := 0, busy := true, request := true } 0).modDir 5 (fun d => d) with retRec := [5], retTell := [(5, 256)], pkts := [{ src := 256, dst := 1, body := .push 0 1, held := true }] }
    (fun t => t.island.st == 0 && !t.island.request && t.retTell == [] && (t.cluster 16).mbox.map (fun e => ((e.words.getD 0 0).toNat % 128, e.unit)) == [(0x48, some 256)] && t.pkts.all (·.held) && t.retRec == [5]) = true := by decide +kernel
theorem test_gates : ((sIs {} 0).powered 257 = true ∧ (sIs {} 0).homedOn 257 = []) ∧ runs .unitPowerGate (sIs {} 0) (fun t => (t.unit 257).gated) = true ∧ runs .unitWake ((sIs {} 0).modUnit 257 (fun u => { u with gated := true })) (fun t => !(t.unit 257).gated) = true := by decide +kernel
def sStb (b : Bool) : State := { island := { stbyIdle := 1, standby := b }, time := 1000 }
theorem test_standby : ((sStb false).croftCalled = false ∧ ({ sStb true with pkts := [{ src := 256, dst := 257, body := .push 0 1 }] } : State).croftCalled = true) ∧ gives .croftStandbyEntry (sStb false) (sStb true) = true ∧
    runs .croftWake { sStb true with pkts := [{ src := 256, dst := 257, body := .push 0 1 }] } (fun t => !t.island.standby && t.island.croftActive == 1000) = true := by decide +kernel

/-- Clusters 0 and 1 can lend: 0 is active, 1 idle; the rest are unlimited. -/
def sLd (a b : ClusterSt) : State := { units := [(0, { lastActive := 9000, temp := 50 })], clusters := [(0, a), (1, b)], time := 9500, arg := { n0 := 0, v := 4 } }
theorem test_pulses : runs .pspatWrite (sLd {} {}) (fun t => (t.cluster 0).kreq == 4 && (t.cluster 0).k == 4) = true ∧ gives .pspatWrite { sLd {} {} with arg := { n0 := 0, v := 17 } } { sLd {} {} with arg := { n0 := 0, v := 17 } } = true ∧
    gives .pspatWrite { sLd {} {} with arg := { n0 := 0, v := 32 } } { sLd {} {} with arg := { n0 := 0, v := 32 } } = true := by decide +kernel
theorem test_lending : ((sLd { allow := 0x20 } { allow := 0x10 }).lendState 0 = 0 ∧ (sLd { allow := 0x20 } { allow := 0x10 }).lendState 1 = 1 ∧ (∀ c, c < 16 → ((sLd { allow := 0x20 } { allow := 0x10 }).cluster c).lst ≠ 3)) ∧
    runs .lendingPeriod (sLd { allow := 0x20 } { allow := 0x10 }) (fun t => t.lent == 9 && (t.cluster 0).borrow == 16 && (t.cluster 0).kgrant == 9 && (t.cluster 1).kgrant == 3 && (t.cluster 1).lst == 1 && (t.cluster 2).kgrant == 16) = true ∧
    runs .lenderRecall (sLd { allow := 0x20, lst := 1 } {}) (fun t => (t.cluster 0).lst == 3 && (t.cluster 0).k == 1) = true ∧ runs .recallComplete (sLd { allow := 0x20, lst := 3 } {}) (fun t => (t.cluster 0).lst == 0) = true := by decide +kernel
theorem test_throttle : runs .throttleStep { sLd {} {} with time := 16000, units := [(3, { temp := 100 })] } (fun t => (t.cluster 0).ktherm == 15 && (t.cluster 0).k == 15 && (t.cluster 0).lastStep == 16000) = true ∧
    runs .throttleStep { sLd { ktherm := 7 } {} with time := 16000, units := [(3, { temp := 94 })] } (fun t => (t.cluster 0).ktherm == 8 && (t.cluster 0).k == 8) = true := by decide +kernel
/-- Acre's unit 0 at a temperature, its context 5; unit 1 the coolest destination; a reading. -/
def sHt (t : Nat) (l : List Mig) (u now : Nat) : State := { one {} {} with time := 77, mem := [(0x1000, 1), (0x800000000000, 2)], island := { st := 0 }, migs := l, dir := [(5, { st := 1, part := 1, home := 3, place := .slot 0 0 })], units := [(0, { slots := [(0, 5)], temp := t })], parts := [(1, { lum := [(3, 0x80000000)] })], arg := { n0 := u, n1 := now } }
theorem test_thermal : ((sHt 20 [] 0 95).migT = 95 ∧ (sHt 20 [] 0 95).emgT = 105 ∧ ((sHt 20 [] 0 95).modUnit 0 (fun x => { x with temp := 95 })).coolest 0 = some 1) ∧
    runs .thermalMigrationCrossing (sHt 20 [] 0 95) (fun t => (t.unit 0).temp == 95 && t.migs == [{ src := 0, dst := 1, kind := 2, raised := 77 }]) = true ∧
    runs .thermalRequestWithdraw (sHt 95 [{ src := 0, dst := 1, kind := 2, raised := 7 }] 0 91) (fun t => (t.unit 0).temp == 91 && t.migs == []) = true ∧
    runs .emergencySave (sHt 95 [] 0 105) (fun t => t.island.emergency && t.island.st == 3 && t.island.to_ == 2) = true := by decide +kernel
theorem test_trips : (sHt 95 [] 0 110).allCmds = [] ∧ runs .thermalTrip (sHt 95 [] 0 110) (fun t => t.island.st == 2 && t.island.inh && ((t.unit 0).slots == []) && (t.dirE 5).st == 2 && t.retRec == [5]) = true ∧
    runs .croftThermalTrip (sHt 95 [] 256 110) (fun t => !t.power && t.ctxs == [] && t.mem == [(0x800000000000, 2)]) = true ∧ runs .deviceOff (sHt 95 [] 0 0) (fun t => !t.power && t.dir == []) = true ∧
    runs .inhibitClear { sHt 90 [] 0 0 with island := { inh := true } } (fun t => !t.island.inh) = true ∧
    runs .retentionRecordClear { sHt 90 [] 0x242008 0 with retRec := [1, 64, 65], arg := { n0 := 0x242008, v := 2 } } (fun t => t.retRec == [1, 64]) = true := by decide +kernel

/-- Partition 1 with context 5 in slot 0 of Acre's unit 0, or out; PARTCTL's operand. -/
def sSw (pl : Place) (sl : Map Nat) (pst : Nat) (v : Word) (x : Ctx) : State := { one x {} with island := { st := 0 }, dir := [(5, { st := 1, part := 1, home := 3, place := pl })], units := [(0, { slots := sl })], parts := [(1, { lum := [(3, 0x80000000)], pst := pst })], arg := { n0 := 1, v := v } }
theorem test_swap_out : ((sSw .none [] 0 0x9000000000000001 {}).swapSlots 1 = [] ∧ (sSw .none [] 0 0 {}).swapTccs 1 = [] ∧ (sSw (.slot 0 0) [(0, 5)] 0 0x9000000000000001 {}).swapSlots 1 = [(0, 0, 5)] ∧ (sSw (.slot 0 0) [(0, 5)] 0 0 {}).canSave 5 = true ∧ (sSw (.slot 0 0) [(0, 5)] 0 0 { outst := 16 }).canSave 5 = false) ∧
    runs .partitionSwapOut (sSw .none [] 0 0x9000000000000001 {}) (fun t => (t.part 1).pst == 1) = true ∧
    runs .partitionSwapOut (sSw (.slot 0 0) [(0, 5)] 0 0x9000000000000001 {}) (fun t => (t.part 1).pst == 1 && (t.dirE 5).place == .shadow 0 0 0 && (t.unit 0).slots == []) = true ∧
    runs .partitionSwapOut (sSw (.slot 0 0) [(0, 5)] 0 0x9000000000000001 { outst := 16 }) (fun t => (t.part 1).pst == 2 && (t.dirE 5).place == .slot 0 0) = true := by decide +kernel
theorem test_swap_in : gives .partitionSwapIn (sSw (.slot 0 0) [(0, 5)] 0 0xA000000000000001 {}) (sSw (.slot 0 0) [(0, 5)] 0 0xA000000000000001 {}) = true ∧
    ((sSw (.shadow 0 0 0) [] 1 0xA000000000000001 {}).dir = [(5, (sSw (.shadow 0 0 0) [] 1 0xA000000000000001 {}).dirE 5)] ∧ (sSw (.shadow 0 0 0) [] 1 0 {}).unitOf 5 = 0 ∧ mget (sSw (.shadow 0 0 0) [] 1 0 {}).imgErr 5 0 = 0) ∧
    runs .partitionSwapIn (sSw (.shadow 0 0 0) [] 1 0xA000000000000001 {}) (fun t => (t.part 1).pst == 0 && (t.dirE 5).place == .slot 0 0 && (t.unit 0).slots == [(0, 5)]) = true ∧
    runs .vfFlr (sSw (.shadow 0 0 0) [] 1 0 { grp := 3 }) (fun t => (t.dirE 5).st == 2) = true := by decide +kernel
/-- Of an empty boot flash (its image's fields and the fused values are free, log 16) one of the two clauses on boot holds. -/
theorem test_boot : State.reset.bootStage = 0 ∧ (imageErr State.reset.flash = 0 ∨ imageErr State.reset.flash ≠ 0) := ⟨rfl, Decidable.em _⟩
theorem test_measurements : State.reset.power = true ∧ State.reset.bootErr = 0 ∧ ({ arg := { n0 := 4, data := [1, 2] } } : State).arg.n0 < 8 := by decide +kernel

/-! ### Frames, steps and invariants -/

theorem test_frame : registerOnly (.add 4 3 2 0 1) = some (4, 3, [], []) ∧ runs (.add 4 3 2 0 1) sA (fun t => !(t.ctx 5).held && (t.ctx 5).csrGet 0x31 == (sA.ctx 5).csrGet 0x31 && (t.ctx 5).mFull == 0 && (t.ctx 5).s 4 == 7) = true ∧ (sA.ctx 5).held = false := by decide +kernel
/-- The word of addi s4, s8, 5 stands at the pc, 0x400, in host memory; it is the unit's turn after 3 ns. -/
def sGo (w : Nat) : State := { sI {} { slotcfg := 0x000020FF00000001, tlb := [{ part := 1, asn := 0, level := 3, vpn := 0, pte := 0x80000020017F, ptePa := 0x3000 }] } {} with mem := memWrite ptab 0x800000200400 (toBytes 4 w), agenda := [{ dt := 3, act := .issue 256 }] }
theorem test_step_issues : (match step (sGo 0x01220005) with | .next t => (t.ctx 5).s 4 == 5 && (t.ctx 5).pc == 0x404 && t.time == 3 && t.steps == 1 && t.agenda == [] | _ => false) = true ∧ decode 0x01220005 = .instr (.addi 4 8 5) := by decide +kernel
/-- The state of that turn once the unit's clock has advanced, and once the address is translated. -/
def sGo1 : State := ((({ sGo 0x01220005 with agenda := [], time := 3, steps := 1 } : State).tick 256).reload)
def sGo2 : State := (({ sGo1.raiseDue 5 with cur := 5 } : State).resolve (sGo1.whoIs 5) 0x400 accX false).2
theorem test_only_runs : onlyRuns (sGo 0x01220005) (sGo1.raiseDue 5) 256 0 5 :=
  have h : (sGo1.unit 256).slots = [(0, 5)] := by decide +kernel
  ⟨3, [], rfl, by decide, by decide, by decide +kernel, by decide +kernel, fun j hj => (congrArg (mfind · j) h).trans (by simp [mfind, Ne.symm hj]), by decide +kernel, rfl, by decide +kernel, by decide +kernel⟩
theorem test_word_at : wordAt (sGo1.raiseDue 5) ((sGo2.touch 0x800000200400).correct 256 0x800000200400 4) 5 0x01220005 :=
  ⟨by decide +kernel, 0x800000200400, sGo2, by decide +kernel, by decide +kernel, by decide +kernel, by decide +kernel, by decide +kernel, by decide +kernel⟩
theorem test_step_illegal : (match step (sGo 0) with | .next t => (t.ctx 5).held && ((t.ctx 5).trec.getD 0 0).toNat % 128 == 1 | _ => false) = true := by decide +kernel
theorem test_step_event : (match step { sStb true with agenda := [{ dt := 2, act := .event .inhibitClear {} }] } with | .next t => t.time == 1002 && t.steps == 1 | _ => false) = true := by decide +kernel
/-- The management core sets the event bit of a context that waits for it. -/
theorem test_step_set_event : (match step { sGo 0 with agenda := [{ dt := 1, act := .setEvent 5 }] } with | .next t => (t.dirE 5).event && t.steps == 1 | _ => false) = true := by decide +kernel
theorem test_canonical : Memory.wf (sGo 0x01220005).mem = true ∧ Memory.wf State.reset.mem = true := by decide +kernel
theorem test_round_trip : (Instr.addi 4 8 5).WellFormed ∧ encode (.addi 4 8 5) = some 0x01220005 := by decide +kernel
/-- Context 5 on Acre, which is entering retention: its save is called for and can be written. -/
def sSv : State := { sI {} {} {} with dir := [(5, { st := 1, part := 1, home := 3, place := .slot 0 0, save := 0x8000 })], units := [(0, { slots := [(0, 5)] })], parts := [(1, { en := true, lum := [(3, 0x80000000)] })], island := { st := 3, to_ := 1 } }
theorem test_save : (sSv.live 5 = true ∧ sSv.saveCalled 5 = true ∧ sSv.canSave 5 = true ∧ (sSv.ctx 5).frozen = false ∧ sSv.saveTurn 5 = true) ∧
    (let q := (sSv.leaveWaits 5).abandonOf 5 0 (2 ^ 64) false
     match q.writeImage (q.unitOf 5) (q.dirE 5).part (q.ctx 5).asn (q.dirE 5).save (({ q.ctx 5 with wait := none } : Ctx).image (q.dirE 5) (q.ctxId 5) (((q.unit (q.unitOf 5)).sfq.filter (fun r => r.ctx == 5)).take 8) true) with | .ok _ => true | _ => false) = true := by decide +kernel
/-- Context 5 saved at 0x8000 with an image that is valid; slot 0 of its unit is free. -/
def sRs : State := { sI {} {} {} with mem := memWrite (memWrite ptab 0x800000208000 [1, 0, 0, 0, 5, 0, 0, 0, 3, 0, 2, 1]) 0x800000208024 [1], ctxs := [], dir := [(5, { st := 1, part := 1, home := 3, place := .saved, save := 0x8000 })], units := [(256, { slotcfg := 0x000020FF00000001 })] }
theorem test_restore : (sRs.unitOf 5 = 256 ∧ sRs.unitOpen 256 = true ∧ sRs.slotTaking 256 5 = some 0 ∧ (match sRs.savedCtx 5 with | some b => imgOk b && ofBytes ((b.drop 4).take 4) == sRs.ctxId 5 | none => false) = true) := by decide +kernel
/-- A frozen context is released: its image can be written. -/
theorem test_release_frozen : (let s := sCm { frozen := true } { frozen := true }
    s.isFrozen 5 = true ∧ (match (((s.modCluster 16 (fun x => { x with ctxCmd := BitVec.ofNat 64 (4 * 2 ^ 60 + s.ctxId 5) })).modDir 5 (fun d => { d with frozen := false, ready := true })).modCtx 5 (fun x => { x with frozen := false })).writeImage 256
      (s.dirE 5).part (s.ctx 5).asn (s.dirE 5).save (({ s.ctx 5 with frozen := false } : Ctx).image { s.dirE 5 with frozen := false, ready := true } (s.ctxId 5) [] false) with | .ok _ => true | _ => false) = true) := by decide +kernel
/-- The first block of context 5's image differs from what its save area holds, and can be written there. -/
theorem test_writeback : ((sI {} {} {}).isFrozen 5 = false ∧ (sI {} {} {}).ckptBusy 5 = false) ∧ (match ((sI {} {} {}).readImage 256 1 0 0x8000).1, (blocksOf 320 0 (((sI {} {} {}).ctx 5).image ((sI {} {} {}).dirE 5) 5 [] false))[0]? with
    | some old, some (o, b) => imgAt old 0xB 1 % 2 == 0 && (old.drop o).take 64 != b && (match (sI {} {} {}).writeBlock 256 1 0 0x8000 b with | .ok _ => true | _ => false) | _, _ => false) = true := by decide +kernel

/-! ### Conditions of the statements where their clauses meet -/

/-- Nothing a fence orders, room in the queue, a handle not freed, fetch-and-adds of none of a store's pieces, a command that may run. -/
theorem test_conditions : pastFences (sM [stOwn]) ∧ queueFree sVM ∧ notFreed (sBh []) (regVal (sBh []) 10) ∧ (∀ p ∈ stFar.pieces, p.add = none) ∧ mayRun (sK true) (kFill true) ∧
    (sSw (.slot 0 0) [(0, 5)] 0 0 { outst := 16 }).trapWaits 5 = false ∧ ((sLd { allow := 0x20, lst := 1 } {}).lendState 0 = 0 ∧ limited (sLd { allow := 0x20, lst := 1 } {}) 0 = true) := by decide +kernel
/-- A FENCE of scope 2 that waited for nothing, an earlier store of the context still pending: a store behind it is ordered after that one. -/
def sFn : State := (sM [stFar]).modDir 5 (fun d => { d with fenced := some (2, 20) })
theorem test_store_behind_fence : storeRoom (begun sFn (.st64 11 10 0 0 0)) ∧ sFn.pendingBefore 5 20 = true ∧
    runs (.st64 11 10 0 0 0) sFn (fun t => (t.unit 256).sb.any (fun e => e.rel && e.sc == 2 && e.aft == [9])) = true := by decide +kernel
/-- A release store to the same unit: after the context's stores in the buffer. -/
theorem test_release_store : runs (.st64 11 10 1 2 0) (sM [stFar]) (fun t => (t.unit 256).sb.any (fun e => e.rel && e.sc == 1 && e.aft == [9])) = true := by decide +kernel
/-- A barrier packet at the head of the mesh; one held at a sleeping island's bridge; an access that has come to its unit. -/
theorem test_packets_there : (sSig 0).mayArrive 0 { src := 257, dst := 256, body := .sig (sg 0) } = true ∧ (sSig 0).migs = [] ∧ atBridge (sPk { pk1 with dst := 9 }) 0 { pk1 with dst := 9 } ∧
    (sPk pk1).mayArrive 0 pk1 = true ∧ ((sPk pk1).unit (padUnit (unitLoc 257 0x800))).gated = false := by decide +kernel
/-- Page 1 of partition 1 maps its register block: a doubleword store goes there in order with every access, one that fills the word fails. -/
def ptabR : List Host.Cell := [(0x2, 8), (0x7, 0x80), (0x1000, 1), (0x1001, 0x20), (0x2000, 1), (0x2001, 0x30), (0x3000, 0x7F), (0x3001, 1), (0x3002, 0x20), (0x3005, 0x80), (0x3008, 1), (0x3009, 0x40), (0x4000, 0x7F), (0x4001, 1), (0x4002, 0x10), (0x4005, 0x7F), (0x80000, 1), (0x80001, 0x10)]
def stReg (full : Bool) : Store := { st1 0 0x200810 0 with setFull := full }
def sReg (full : Bool) : State := { (sSt (stReg full)).modUnit 256 (fun y => { y with tlb := [{ part := 1, asn := 0, level := 4, vpn := 0x200, pte := 0x7F000010017F, ptePa := 0x4000 }] }) with mem := ptabR }
theorem test_store_to_registers : (match (sReg false).resolve ((sReg false).whoIs 5) 0x200810 accW false with | (.ok loc, _) => loc == 0x7F0000100810 && isRegBlock loc | _ => false) = true ∧
    (stReg false).mayReg = true ∧ (stReg true).mayReg = false ∧
    runs .storeResolve (sReg false) (fun t => (t.unit 256).sb.map (fun e => (e.rs, e.rel, e.ar, e.sc, e.pieces.map (·.loc))) == [(1, true, true, 3, [0x7F0000100810])]) = true ∧
    runs .storeResolve (sReg true) (fun t => (t.unit 256).sb.map (fun e => (e.rs, e.cause, e.fva)) == [(2, 0x05, 0x200810)]) = true := by decide +kernel
/-- Walks for Acre's clusters 0 and 4: the last was for cluster 3, so cluster 4's comes first, and then cluster 0's. -/
def msA (u : Nat) (w : Bool) : Miss := { part := 1, asn := 0, vpn := 0, croft := false, units := [u], ctxs := [5], walking := w }
def sRr (n : Nat) : State := { sMs (ms false 0) n with misses := [msA 0 false, msA 80 false], walkLast := 3 }
theorem test_walk_rotation : (clusterOf 0 = 0 ∧ clusterOf 80 = 4 ∧ (sRr 4).missFrom 4 = some (msA 80 false) ∧ (∃ i, i < 16 ∧ (3 + 1 + i) % 16 = 4 ∧ ∀ j, j < i → (sRr 4).missFrom ((3 + 1 + j) % 16) = none)) ∧
    gives .tlbMissWalkStart (sRr 4) { sRr 4 with walkLast := 4, misses := [msA 0 false, msA 80 true] } = true ∧ gives .tlbMissWalkStart (sRr 0) (sRr 0) = true :=
  ⟨⟨by decide, by decide, by decide +kernel, 0, by decide, by decide, fun j h => absurd h (Nat.not_lt_zero j)⟩, by decide +kernel, by decide +kernel⟩
/-- A migration of an Acre unit is pending: retention and off are refused in every state. A wake while wakes are inhibited waits. -/
def sIm (st : Nat) : State := { sIs { st := st } 0 with migs := [{ src := 3, dst := 4, kind := 1, raised := 1 }] }
theorem test_islctl_refused : (∃ m ∈ (sIm 1).migs, isCroft m.src = false ∨ isCroft m.dst = false) ∧
    ([0, 1, 2, 3].all (fun st => gives .islctlRetention (sIm st) (ctlRefused (sIm st)) && gives .islctlOff (sIm st) (ctlRefused (sIm st)))) = true ∧
    runs .islctlWake (sIs { st := 2, inh := true } 0) (fun t => t.island.st == 2 && t.island.busy && t.island.request) = true ∧
    runs .islctlWake (sIs { st := 3, to_ := 2, emergency := true } 0) (fun t => t.island.st == 3 && t.island.to_ == 2 && t.island.busy && t.island.request) = true ∧
    gives .islctlOff (sIs { st := 3 } 0) (ctlRefused (sIs { st := 3 } 0)) = true := by decide +kernel
/-- A crossing with nowhere to go raises nothing; a cluster under recall keeps it over a lending period. -/
def mg0 : Mig := { src := 0, dst := 1, kind := 1, raised := 1 }
theorem test_heat_edges : ((sHt 20 [mg0] 0 95).modUnit 0 (fun x => { x with temp := 95 })).coolest 0 = none ∧
    gives .thermalMigrationCrossing (sHt 20 [mg0] 0 95) ((sHt 20 [mg0] 0 95).modUnit 0 (fun x => { x with temp := 95 })) = true ∧
    runs .lendingPeriod (sLd { allow := 0x20, lst := 3 } { allow := 0x10 }) (fun t => (t.cluster 0).lst == 3 && (t.cluster 0).kgrant == 1 && (t.cluster 0).borrow == 0 && t.lent == 9) = true := by decide +kernel
/-- A vector load whose one active element stands in another unit's scratchpad: asked for, taken in there, and then loaded. -/
def sVR (l : List Got) : State := { sVM.modCtx 5 (fun x => { x with sreg := [(10, 0xFFFF400004000000), (11, 0x100)], got := l }) with parts := [(1, { en := true, lum := [(3, 0x80000100), (4, 0x80000101)], key := 7 })] }
def got0 : Got := { loc := unitLoc 257 0x100, n := 2, val := 0x1234 }
theorem test_remote_element : (Homes accR (begun (sVR []) (.vld 8 10 11 1 0 5)) [0xFFFF400004000100] [unitLoc 257 0x100] (begun (sVR []) (.vld 8 10 11 1 0 5))) ∧
    unfetched (begun (sVR []) (.vld 8 10 11 1 0 5)) (unitLoc 257 0x100) 2 ∧ fetched (sVR [got0]) (unitLoc 257 0x100) 2 0x1234 ∧
    gives (.vld 8 10 11 1 0 5) (sVR []) (asked (begun (sVR []) (.vld 8 10 11 1 0 5)) 0xFFFF400004000100 (unitLoc 257 0x100) 2) = true ∧
    gives (.vld 8 10 11 1 0 5) (sVR [got0]) (((begun (sVR [got0]) (.vld 8 10 11 1 0 5)).modCtx 5 (fun x => x.loadGroup 8 16 128 [(0, 0x1234)])).retire false) = true :=
  ⟨homes_of (by decide +kernel), by decide +kernel, by decide +kernel, by decide +kernel, by decide +kernel⟩
/-- A request for an element that has come to its unit. -/
def pkE : Pkt := { src := 256, dst := 257, body := .access { ctx := 5, loc := unitLoc 257 0x800, op := .elem 4 } }
theorem test_element_arrives : (sPk pkE).mayArrive 0 pkE = true ∧ sound (sPk pkE) (unitLoc 257 0x800) 4 ∧
    runs .remoteWindowAccess (sPk pkE) (fun t => (t.ctx 5).got == [{ loc := unitLoc 257 0x800, n := 4, val := 0x80008000 }] && (t.ctx 5).wait == none && (t.ctx 5).pc == 0x400 && t.pkts == []) = true := by decide +kernel

/-! ### What commands write -/

theorem no_unit_gated {s : State} (h : s.units.all (fun x => !x.2.gated) = true) (u : Nat) : (s.unit u).gated = false := by
  have : ∀ l : List (Nat × UnitSt), l.all (fun x => !x.2.gated) = true → (mget l u {}).gated = false := by
    intro l
    induction l with
    | nil => intro _; rfl
    | cons x l ih =>
      intro h
      rw [List.all_cons, Bool.and_eq_true] at h
      by_cases e : x.1 = u
      · simp [mget, e]; simpa using h.1
      · simpa [mget, mfind, e] using ih h.2
  exact this _ h
/-- The scratchpad of unit 256 with doublewords and bytes at 0x800, the first word full; the granule at 0x800 has a tag, 0x400 another. -/
def sX : State := { sE [] [] with fe := [unitLoc 256 0x800 / 8], tags := [(unitLoc 256 0x400 / 1024, 0x60F0), (unitLoc 256 0x800 / 1024, 0x60A0)], mem := memWrite (memWrite [] (unitLoc 256 0x800) (toBytes 8 0x0807060504030201 ++ toBytes 8 0x1111 ++ toBytes 8 0x2222 ++ toBytes 8 0x3333)) (unitLoc 256 0xC00) (toBytes 4 2 ++ toBytes 4 7 ++ toBytes 4 1) }
theorem test_quiet : quiet sX := ⟨rfl, rfl, rfl, rfl, rfl, no_unit_gated (by decide +kernel), by decide +kernel⟩
/-- A command of context 5's with its operands in the scratchpad. -/
def kX (i : Instr) (ops : List Opnd) (args : List Word) (h : List (Nat × Nat)) : Cmd := { kFill true with word := (encode i).getD 0, ops := ops, args := args, shape := shp h }
/-- The doublewords at offsets of the scratchpad, and the tags of granules. -/
def holds (t : State) (l : List (Nat × Nat)) (g : List (Nat × BitVec 16)) : Bool :=
  l.all (fun p => leVal t.mem (unitLoc 256 p.1) 8 == p.2) && g.all (fun p => t.tagAt (unitLoc 256 p.1) == p.2)
def ends (k : Cmd) (s : State) (m f fl : Nat) (P : State → Bool) : Bool := match runCmd s 256 k with | .ok t a b c => a == m && b == f && c == fl && P t | _ => false

/-- CopiesMoveData: two rows of two doublewords, 16 bytes apart at the source and 32 at the destination, their full/empty bits with them. -/
def kCpy : Cmd := kX (.cpy 9 10 11 1) [opn 0x400, opn 0x800] [] [(0, 0x101), (1, 2), (2, 2), (4, 16), (6, 32), (8, 0xC0)]
def kTmov (tg : Bool) : Cmd := kX (if tg then .tmovTg 9 10 11 1 else .tmov 9 10 11 1) [opn 0x1000, opn 0x800] [] [(1, 1), (8, 0x60D00000)]
def kSnap : Cmd := kX (.snap 9 10 11) [opn 0x400, opn 0x800] [16] []
/-- RowsAndCollectivesMoveData: rows of one doubleword by the list 2, 7, 1 of a table of four. -/
def kRows (gath : Bool) (f : Nat) : Cmd := kX (if gath then .gath 9 10 11 1 else .scat 9 10 11 1) [opn 0x400, opn 0x800, opn 0xC00] [] [(0, 2 + f), (1, 3), (2, 4), (3, 1), (8, 0xC0), (12, 0x1000)]
/-- Units 256 and 257 are logical units 3 and 4. -/
def sX2 : State := { sX with parts := [(1, { en := true, lum := [(3, 0x80000100), (4, 0x80000101), (48, 0x80000003)], key := 7 })], mem := memWrite sX.mem (unitLoc 257 0x800) (toBytes 4 0x7FFFFFFF ++ toBytes 4 0xFFFFFFFF) }
def kColl (cop : Nat) : Cmd := kX (.coll 9 10 11 1) [opn 0x400, opn 0x800] [24] [(0, 3 + cop * 2 ^ 16), (1, 2), (8, 0x84)]
def kCast : Cmd := kX (.coll 9 10 11 1) [{ va := 0xFFFF200000000400, home := some (croftLoc 0x400) }, opn 0x800] [8] [(0, 3 + 4 * 2 ^ 16), (1, 1), (8, 0xC0)]
/-- CommitWritesItsSequence: one accepted token, the sequence stops. -/
def xSeq : SeqIn := { q := 0, addr := 0xFFFF100000000800, rec' := [5 + 100 * 2 ^ 32, 0, 0, 0xFFFF100000000400] ++ List.replicate 28 0, acc := [0x101, 77, 1, 0, 0, 0, 9, 0, 8] ++ List.replicate 7 0 }
def kCommit : Cmd := { kX (.scommit 9 10 11) [opn 0, opn 0x400, opn 0x800] xSeq.words [] with iter := some 3 }
/-- MatrixCommandsCompute: one step over two granules; two weights from DRAM against two BF16 values. -/
def sY : State := ({ sX with tags := [(unitLoc 256 0x800 / 1024, 0x60A0), (unitLoc 256 0xC00 / 1024, 0x60E0)], mem := memWrite (memWrite sX.mem 0x2000 [3, 0xFE]) (unitLoc 256 0x1000) [0x80, 0x3F, 0, 0x40] } : State).modCtx 5 (fun x => { x with areg := [(0, 0xFFFFFFFF), (1, 5)], aInt := 1 }) |>.modUnit 256 (fun y => { y with tlb := [{ part := 1, asn := 0, level := 3, vpn := 0, pte := 0x17F, ptePa := 0 }] })
def kMma (i : Instr) : Cmd := { kX i [opn 0x800, opn 0xC00] [] [] with shape := hMat 6, acc := some (5, 0) }
def kGemv : Cmd := kX (.cgemv 11 9 10 3) [{ va := 0x2000 }, opn 0x1000, opn 0x400, opn 0] [] [(0, 6), (1, 1), (2, 2), (4, 256), (8, 6)]

theorem test_copies : (kCpy.cut = false ∧ decode kCpy.word = .instr (.cpy 9 10 11 1) ∧ rowsApart (copyShape kCpy.shape) ∧ 2 ^ 50 ≤ unitLoc 256 0x400 ∧ decode (kTmov true).word = .instr (.tmovTg 9 10 11 1) ∧
      unitLoc 256 0x1000 % 1024 = 0 ∧ decode kSnap.word = .instr (.snap 9 10 11)) ∧
    ends kCpy sX 0 0 0 (fun t => holds t [(0x400, 0x0807060504030201), (0x408, 0x1111), (0x410, 0), (0x420, 0x2222), (0x428, 0x3333), (0x430, 0)] [(0x400, 0x60D0), (0x800, 0x60A0)] &&
      t.feAt (unitLoc 256 0x400) && !t.feAt (unitLoc 256 0x408)) = true ∧
    ends kSnap sX 0 0 0 (fun t => holds t [(0x400, 0x0807060504030201), (0x408, 0x1111), (0x410, 0)] [(0x400, 0x60D0)] && t.feAt (unitLoc 256 0x400) && !t.feAt (unitLoc 256 0x408)) = true := by decide +kernel
theorem test_tile_move : ends (kTmov false) sX 0 0 0 (fun t => holds t [(0x1000, 0x0807060504030201), (0x1008, 0x1111), (0x1018, 0x3333), (0x1020, 0)] [(0x1000, 0x60A0)] && t.feAt (unitLoc 256 0x1000)) = true := by decide +kernel
theorem test_rows : (decode (kRows true 0x800).word = .instr (.gath 9 10 11 1) ∧ (copyShape (kRows true 0x800).shape).mbe = true ∧ (copyShape (kRows true 0x400).shape).ifm = true ∧ (kRows false 0).cut = false) ∧
    ends (kRows true 0x800) sX 1 1 0 (fun t => holds t [(0x400, 0x2222), (0x408, 0), (0x410, 0x1111), (0x418, 0), (0x1000, 2)] [(0x400, 0x60D0), (0x1000, 0)]) = true ∧
    ends (kRows false 0) sX 1 1 0 (fun t => holds t [(0x400, 0), (0x408, 0x2222), (0x410, 0x0807060504030201), (0x418, 0)] [(0x400, 0x60D0)]) = true ∧
    (match runCmd sX 256 (kRows true 0x400) with | .fault t 0x12 1 1 0 => t.mem == sX.mem | _ => false) = true := by decide +kernel
theorem test_collectives : (decode (kColl 1).word = .instr (.coll 9 10 11 1) ∧ sX2.lumRes 1 (3 / 16 * 16 + 4) = .to 257 ∧ sX2.lumRes 1 (16 * 3) = .to 3 ∧ windowOff 0xFFFF100000000400 = 0x400) ∧
    ends (kColl 0) sX2 0 0 0 (fun t => holds t [(0x400, 0x0807060504030201), (0x408, 0)] [] && leVal t.mem (unitLoc 257 0x400) 8 == 0x0807060504030201) = true ∧
    ends (kColl 1) sX2 0 0 32 (fun t => holds t [(0x400, 0x080706047FFFFFFF)] []) = true ∧
    ends (kColl 2) sX2 0 0 32 (fun t => holds t [(0x400, 0x080706047FFFFFFF)] [] && leVal t.mem (unitLoc 257 0x400) 8 == 0x080706047FFFFFFF) = true ∧
    ends (kColl 3) sX2 0 0 0 (fun t => holds t [(0x400, 0x0807060504030201), (0x408, 0xFFFFFFFF7FFFFFFF)] []) = true ∧
    ends kCast sX2 0 0 0 (fun t => leVal t.mem (clusterLoc 0 0x400) 8 == 0x0807060504030201 && holds t [(0x400, 0)] [(0x400, 0x60F0)]) = true := by decide +kernel
theorem test_commit_writes : (decode kCommit.word = .instr (.scommit 9 10 11) ∧ sX.relOkBefore 5 1 = true ∧ xSeq.moves = [] ∧ xSeq.ok = true ∧ kCommit.args.length = 50 ∧ unitLoc 256 0x800 % 256 = 0) ∧
    ends kCommit sX 0 0 0 (fun t => holds t [(0x400, 8), (0x408, 9), (0x410, 0), (0x800, 0x0807060500000007), (0x810, 77), (0x820, 1)] [(0x400, 0x60D0), (0x800, 0x6080)] &&
      t.feAt (unitLoc 256 0x408) && !t.feAt (unitLoc 256 0x810)) = true := by decide +kernel
theorem test_matrix_hypotheses_2 : ((matShape (kMma (.mma 0 0 1 3 0 0 0)).shape).fmt = 6 ∧ (matShape (hMat 6)).ksteps = 1 ∧ (matShape (hMat 6)).scl = false ∧ (matShape (hMat 6)).spc = 0 ∧ decode (kMma (.mmas 0 0 1 3 0 0 0)).word = .instr (.mmas 0 0 1 3 0 0 0) ∧
      sY.tagAt (unitLoc 256 0x800) = 0x60A0 ∧ sY.tagAt (unitLoc 256 0xC00) = 0x60E0) ∧
    (decode kGemv.word = .instr (.cgemv 11 9 10 3) ∧ (gemvShape kGemv.shape).m = 1 ∧ (gemvShape kGemv.shape).k = 2 ∧ (gemvShape kGemv.shape).fmt = 6 ∧
      sY.resolve { u := 256, part := 1, asn := 0, sup := false } 0x2000 accR true = (.ok 0x2000, sY) ∧ (∀ i, i < 2 → sY.touch (unitLoc 256 0x1000 + 2 * i) = sY)) ∧
    ends kGemv sY 0 0 0 (fun t => leVal t.mem (unitLoc 256 0x400) 4 == 0xBF800000) = true ∧ ends (kMma (.azeroF32 0)) sY 0 0 0 (fun t => accAt (t.ctx 5) 0 0 == 0 && (t.ctx 5).aInt == 0 && accAt (t.ctx 5) 1 0 == 5) = true := by decide +kernel
theorem test_matrix_quiet : quiet sY := ⟨rfl, rfl, rfl, rfl, rfl, no_unit_gated (by decide +kernel), by decide +kernel⟩

/-! ### The remaining clauses -/

/-- FullEmptyAccesses: an empty word read, a full one filled. -/
theorem test_full_empty_waits : (∀ i ∈ [0, 1], near (sM []) (unitLoc 256 (0x100 + 8 * i)) ∧ wordFree (sM []) (unitLoc 256 (0x100 + 8 * i)) ∧ sound (sM []) (unitLoc 256 (0x100 + 8 * i)) 8) ∧
    runs (.ldff 4 10 0 0 0) (sM []) (fun t => t.waits.map (fun w => (w.req.loc, w.req.ctx, w.req.rd, w.req.op)) == [(unitLoc 256 0x100, 5, 4, .ldff)] && (t.ctx 5).pc == 0x400) = true ∧
    runs (.stef 11 10 0 0 1) (sM []) (fun t => t.waits.map (fun w => (w.req.loc, w.req.ctx, w.req.data, w.req.op)) == [(unitLoc 256 0x108, 5, 3, .stef)] && (t.ctx 5).pc == 0x400 && leVal t.mem (unitLoc 256 0x108) 8 == 5) = true := by decide +kernel
theorem test_callwr_trap : canRead (sW [{}, {}, {}] 0) 9 ∧ gives (.callwr 9 3) (sW [{}, {}, {}] 0) (trapped (sW [{}, {}, {}] 0) (.callwr 9 3) 0x0E) = true := by decide +kernel
/-- FloatResultsAreRounded: 1 + 2^-24 to nearest and up, 1 - 1 down, overflow, a tie among subnormals, a third, the square root of 2, 2.5, -2^31 - 256, 2^24 + 1. -/
theorem test_rounded : (isFin32 0x7F7FFFFF ∧ units32 0x40400000 ≠ 0 ∧ 0 < units32 0x40000000) ∧
    fAdd 0 0x3F800000 0x33800000 = (0x3F800000, 1) ∧ fAdd 2 0x3F800000 0x33800000 = (0x3F800001, 1) ∧ fSub 3 0x3F800000 0x3F800000 = (0x80000000, 0) ∧ fMul 0 0x7F7FFFFF 0x40000000 = (0x7F800000, 5) ∧
    fMul 1 0x7F7FFFFF 0x40000000 = (0x7F7FFFFF, 5) ∧ fMul 0 0x00800000 0x3F000001 = (0x00400000, 3) ∧ fDiv 0 0x3F800000 0x40400000 = (0x3EAAAAAB, 1) ∧ fSqrt 0 0x40000000 = (0x3FB504F3, 1) ∧
    fToInt 0 0x40200000 = (2, 1) ∧ fToInt 2 0x40200000 = (3, 1) ∧ fToInt 0 0xCF000001 = (0xFFFFFFFF80000000, 16) ∧ fFromInt 0 0x1000001 = (0x4B800000, 1) := by decide +kernel
/-- VectorResults and VectorMovesAndMasks: v4 holds 5 and 7, v5 holds 3 and -1; k2 makes elements 0 and 1 active. -/
def wideOf (i : Instr) (sc : List Word) : Ctx × Option (Nat × Word) := wideEffect i { fmt := 0x3F800008, sc := sc } ((sV 0).ctx 5)
theorem test_vector_results : ([(.vmul 8 4 5 2 0 0 4, 15, 0xFFFFFFF9), (.vmin 8 4 5 2 0 0 4, 3, 0xFFFFFFFF), (.vfms 4 4 5 2 0 0 4, 0xFFFFFFF6, 14), (.vshl 8 4 9 2 0 1 4, 80, 112), (.vsra 8 5 9 2 0 1 4, 0, 0xFFFFFFFF),
      (.vslideu 8 4 2 0 4 1, 0, 5), (.vslided 8 4 2 0 4 1, 7, 0), (.vsel 8 4 5 2 0 0 4, 5, 7), (.viota 8 2 2 0 4, 0, 1)] : List (Instr × Nat × Nat)).all (fun p =>
      ((wideOf p.1 [4]).1.elt 8 32 0 == p.2.1 && (wideOf p.1 [4]).1.elt 8 32 1 == p.2.2) || ((wideOf p.1 [4]).1.elt 4 32 0 == p.2.1 && (wideOf p.1 [4]).1.elt 4 32 1 == p.2.2)) = true := by decide +kernel
theorem test_vector_scalars : (wideOf (.vredsum 6 5 2 0 4) []).2 = some (6, 2) ∧ (wideOf (.vredmax 6 4 2 0 4) []).2 = some (6, 7) ∧ (wideOf (.vredmin 6 5 2 0 4) []).2 = some (6, 0xFFFFFFFFFFFFFFFF) ∧ (wideOf (.vargmax 6 4 2 0 4) []).2 = some (6, 1) ∧
    (wideOf (.kpop 6 2) []).2 = some (6, 2) ∧ (wideOf (.kfirst 6 3) []).2 = some (6, 0xFFFFFFFFFFFFFFFF) ∧ (wideOf (.kand 1 2 0) []).1.k 1 = 3 ∧ (wideOf (.vcmplt 1 5 4 2 0 0 4) []).1.k 1 = 3 := by decide +kernel

/-- DeliveriesArrive: to a vector register, to a mask, to a context that has ended, with a generation that is past. -/
theorem test_deliveries_2 : (capCls (cap 2 3 7) = 2 ∧ capCls (cap 3 2 7) = 3 ∧ (dlv (cap 1 3 7) .send).orphan = false ∧ comes (sD (cap 1 3 7) .send 0 0) 0 256 { src := 257, dst := 256, body := .delivery (dlv (cap 1 3 7) .send) } (dlv (cap 1 3 7) .send) 5) ∧
    runs .deliveryArrival ((sD (cap 2 3 7) .send 0 0).modCtx 5 (fun x => { x with vFull := 0 })) (fun t => mget (t.ctx 5).vreg 3 0 == 0x77 && (t.ctx 5).vFull == 8 && (t.dirE 5).event) = true ∧
    runs .deliveryArrival (sD (cap 3 2 7) .send 0 0) (fun t => (t.ctx 5).k 2 == 0x77 && (t.dirE 5).event) = true ∧
    runs .deliveryArrival ((sD (cap 1 3 7) .send 0 0).modDir 5 (fun d => { d with st := 2 })) (fun t => t.pkts.map (fun p => match p.body with | .ack 6 (some r) _ _ => r.cause | _ => 0) == [0x17]) = true ∧
    runs .deliveryArrival ((sD (cap 1 3 7) .send 0 0).modDir 5 (fun d => { d with gens := 0 })) (fun t => t.pkts.map (fun p => match p.body with | .ack 6 (some r) _ _ => r.cause | _ => 0) == [0x16]) = true := by decide +kernel

/-- LaunchQueue: a record with changed fields at the head of the queue. -/
def sLr (more : Nat) (addr : Word) (sup : Bool) : State := { (sE [] []).modPart 1 (fun p => { p with launchQ := [{ addr := addr, sup := sup }], en := true }) with mem := memWrite [] (unitLoc 256 0x400) (toBytes 64 (lrec 9 1 + more)), arg := { n0 := 1 } }
def refusal (more : Nat) (addr : Word) (sup : Bool) : Nat := match exec .launchRecordTake (sLr more addr sup) with | .next t => if (t.part 1).lFail && (t.part 1).launchQ == [] then (t.part 1).lCause else 0 | _ => 0
/-- An unmapped record; a thread count of 65,537; a supervisor's record from a user; X0 and width past the row; a second unit that is not mapped; an Acre record on Croft; unmapped shapes; a shape with bits that must be zero. -/
theorem test_launch_refused : refusal 0 0x40000000 true = 0x08 ∧ refusal (0x10000 * 2 ^ 320) 0xFFFF400003000400 true = 0x07 ∧ refusal (2 ^ 432) 0xFFFF400003000400 false = 0x04 ∧ refusal (13 * 2 ^ 384) 0xFFFF400003000400 true = 0x07 ∧
    refusal (2 ^ 400) 0xFFFF400003000400 true = 0x07 ∧ refusal (2 ^ 376) 0xFFFF400003000400 true = 0x07 ∧ refusal (2 ^ 424 + 0x40000000 * 2 ^ 256) 0xFFFF400003000400 true = 0x08 ∧
    refusal (2 ^ 424 + 0xFFFF400003000400 * 2 ^ 256) 0xFFFF400003000400 true = 0x07 := by decide +kernel
theorem test_launch_created : (match (sLr 0 0xFFFF400003000400 true).dispRead 1 0 0xFFFF400003000400 8 with
      | some (d, t) => decide (¬badRecord d) && (recUnits d == [3]) && recField d 0x2C 2 == 9 && recField d 0x28 4 == 1 && t.lumRes 1 3 == .to 256 && t.freeNums 1 == [0] && decide ((t.unit 256).tcc.length + 1 ≤ 24) | none => false) = true ∧
    runs .launchRecordTake (sLr 0 0xFFFF400003000400 true) (fun t => (t.part 1).lFirst == 0 && (t.ctx 0).pc == 0x800 && (t.ctx 0).grp == 9 && (t.ctx 0).s 9 == 0 && (t.ctx 0).s 10 == 1 && (t.dirE 0).prio == 2 && (t.dirE 0).save == 0x8000 && (t.dirE 0).place == .tcc 256) = true := by decide +kernel

/-- ManagementCore: the stop of group 2 lets context 5, held in group 9, go on. -/
theorem test_group_stop_resumes : (let s := (sMb 0).modCtx 5 (fun x => { x with grp := 9, held := true, trec := [0, 0, 0, 0, 0, 0, 0, 0x404] })
    5 ∉ s.members 1 2 ∧ runs .cmcGroupStop s (fun t => !(t.ctx 5).held && (t.ctx 5).pc == 0x404 && (t.dirE 5).st == 1 && (t.part 1).grpKill == 2) = true) := by decide +kernel
/-- WatchdogsAndCheckpoints: a valid image loses VALID before its second block changes; a lost context's image, an image without VALID. -/
def sWb : State := { sI {} {} {} with mem := memWrite ptab 0x80000020800B [1], arg := { n0 := 5, n1 := 1 } }
theorem test_writeback_invalidates : runs .imageWriteback sWb (fun t => memGet t.mem 0x80000020800B == 0 && memGet t.mem 0x800000208042 == 0x80 && memGet t.mem 0x800000208043 == 0x3F && memGet t.mem 0x800000208000 == 0) = true := by decide +kernel
theorem test_resume_refused : runs .resumeImageTake { sRes2 with retRec := [0] } (fun t => (t.part 1).rCause == 0x48 && (t.part 1).rFail && (t.dirE 0).st == 0) = true ∧
    runs .resumeImageTake { sRes2 with mem := memWrite sRes2.mem 0x80000020800B [0] } (fun t => (t.part 1).rCause == 7 && (t.dirE 0).st == 0) = true := by decide +kernel

/-- MigrationSteps: with Acre off a move wakes it; PendingAccessesProceed: a refused access again, one whose word holds an uncorrectable error. -/
theorem test_honour_wakes : gives .migrationHonour { sMg [mg 1 false] 0 0 with island := { st := 2 } } ({ sMg [mg 1 false] 0 0 with island := { st := 2 } } : State).wakeAcre = true := by decide +kernel
def sWt (op : MemOp) (e : Nat) : State := { sM [] with waits := [{ req := { ctx := 5, loc := unitLoc 256 0x100, rd := 4, op := op }, refused := true }], memErr := if e = 0 then [] else [(unitLoc 256 0x100 / 8, e)], arg := {} }
theorem test_retries : runs .waitEntryRetry (sWt .ldfe 0) (fun t => t.waits.map (fun w => (w.refused, w.req.rd)) == [(false, 4)] && (t.ctx 5).pc == 0x400) = true ∧
    runs .waitEntryRetry (sWt .stef 0) (fun t => t.waits == [] && (t.ctx 5).pc == 0x404 && t.feAt (unitLoc 256 0x100)) = true ∧
    runs .waitEntryRetry (sWt .stef 2) (fun t => t.waits == [] && (t.ctx 5).held && ((t.ctx 5).trec.getD 0 0).toNat % 128 == 0x42) = true := by decide +kernel
/-- TranslationMaintained: a store translated before an invalidation is an old access, one not yet translated is none. -/
theorem test_old_accesses : (sE [] []).oldAccesses 1 = false ∧ ((sE [] []).modUnit 256 (fun y => { y with sb := [stFar] })).oldAccesses 1 = true := by decide +kernel

/-- PulsesAndHeat: a lender of which a unit is active is recalled, and its recall ends; a trip loses the contexts of Acre's shadow store and reserves. -/
def sRc (l : Nat) : State := { units := [(0, { lastActive := 9000 })], clusters := [(0, { allow := 0x20, lst := l }), (1, { allow := 0x10 })], time := 9500, arg := { n0 := 0 } }
def grants (t : State) : List (Nat × Nat × Nat × Nat) := [0, 1, 2].map (fun c => let x := t.cluster c; (x.lst, x.k, x.kgrant, x.borrow))
theorem test_recall : (lenderActive (sRc 1) 0 = true ∧ ∀ d, d < 16 → d ≠ 0 → ((sRc 1).cluster d).lst ≠ 3) ∧ runs .lenderRecall (sRc 1) (fun t => grants t == [(3, 1, 1, 0), (0, 3, 3, 0), (0, 16, 16, 0)]) = true ∧
    runs .recallComplete (sRc 3) (fun t => grants t == [(0, 6, 6, 0), (0, 3, 3, 0), (0, 16, 16, 0)]) = true ∧ runs .lendingPeriod (sRc 1) (fun t => (grants t).head? == some (3, 1, 1, 0)) = true := by decide +kernel
def sTp (pl : Place) : State := { sHt 95 [] 0 110 with dir := [(5, { st := 1, part := 1, home := 3, place := pl })], units := [] }
theorem test_trip_loses : [Place.shadow 0 0 0, .reserve 3, .tcc 7].all (fun pl => runs .thermalTrip (sTp pl) (fun t => (t.dirE 5).st == 2 && t.retRec == [5] && t.retTell.map (·.1) == [5])) = true ∧
    [Place.reserve 16, .saved].all (fun pl => runs .thermalTrip (sTp pl) (fun t => (t.dirE 5).st == 1 && t.retRec == [])) = true := by decide +kernel
/-- PartitionsAndBoot: a reset that must wait for a save, one that ends at once, one during a swap in, and the swap out that ends one. -/
def left4 (t : State) : Nat × Nat × Bool × Nat := ((t.part 1).pst, (t.part 1).pcmd, (t.part 1).flr, (t.dirE 5).st)
theorem test_function_reset : runs .vfFlr (sSw (.slot 0 0) [(0, 5)] 0 0 { outst := 16, grp := 3 }) (fun t => left4 t == (2, 1, true, 1)) = true ∧ runs .vfFlr (sSw (.slot 0 0) [(0, 5)] 0 0 { grp := 3 }) (fun t => left4 t == (1, 1, false, 2)) = true ∧
    runs .vfFlr ((sSw (.shadow 0 0 0) [] 2 0 { grp := 3 }).modPart 1 (fun x => { x with pcmd := 2 })) (fun t => left4 t == (2, 2, true, 1)) = true ∧
    runs .partitionSwapOut ((sSw (.shadow 0 0 0) [] 2 0 { grp := 3 }).modPart 1 (fun x => { x with pcmd := 1, flr := true })) (fun t => left4 t == (1, 1, false, 2)) = true := by decide +kernel
/-- RegisterWrites: ISLCTL with a command that is not listed, and retention without and with BUSY. -/
def sIr (v : Nat) : State := { sIs { st := 0 } 0 with arg := { n0 := 16, n1 := 0x240000, v := BitVec.ofNat 64 v } }
theorem test_islctl_register : [0, 4, 7].all (fun c => gives .registerWrite (sIr (c * 2 ^ 60 + 0x58000)) (sIr (c * 2 ^ 60 + 0x58000))) = true ∧
    runs .registerWrite (sIr (2 * 2 ^ 60 + 0x58000)) (fun t => t.island.cmd == 2 && t.island.retIdle == 5 && t.island.auto && t.island.st == 0) = true ∧
    runs .registerWrite (sIr (10 * 2 ^ 60 + 0x58000)) (fun t => t.island.retIdle == 5 && t.island.st == 3 && t.island.to_ == 1) = true := by decide +kernel

end Sys2Proof.Tests
end

section
/-! SUPPORT. The family 00_scope.md: what a 64-bit write of a register block leaves (R7, R36, R37). First the bit fields that
the registers keep of the word written, then each block's registers, then the obligation. -/

namespace Sys2Proof.Laws

open Sys2Proof Sys2Proof.Machine

/-! ### Fields of a written word -/

/-- A field of a word as a quotient and a remainder. -/
theorem bits_eq_div_mod {w : Nat} (x : BitVec w) (hi lo : Nat) : bits x hi lo = x.toNat / 2 ^ lo % 2 ^ (hi + 1 - lo) := by
  rw [bits, Nat.shiftRight_eq_div_pow]

/-- Keeping the low `n` bits of a word takes it modulo `2 ^ n`. -/
theorem and_lowMask (v : Word) (n : Nat) (hn : n ≤ 64) :
    v &&& BitVec.ofNat 64 (2 ^ n - 1) = BitVec.ofNat 64 (v.toNat % 2 ^ n) := by
  have hlt : 2 ^ n - 1 < 2 ^ 64 := 
    Nat.lt_of_lt_of_le (Nat.sub_one_lt (Nat.ne_of_gt (Nat.two_pow_pos n))) (Nat.pow_le_pow_right (by decide) hn)
  apply BitVec.eq_of_toNat_eq
  rw [BitVec.toNat_and, BitVec.toNat_ofNat, Nat.mod_eq_of_lt hlt, Nat.and_two_pow_sub_one_eq_mod, BitVec.toNat_ofNat,
    Nat.mod_eq_of_lt (Nat.lt_of_le_of_lt (Nat.mod_le ..) v.isLt)]

/-- Clearing the low `n` bits of a word rounds it down to a multiple of `2 ^ n`. -/
theorem and_not_lowMask (v : Word) (n : Nat) :
    v &&& ~~~BitVec.ofNat 64 (2 ^ n - 1) = BitVec.ofNat 64 (v.toNat / 2 ^ n * 2 ^ n) := by
  apply BitVec.eq_of_getLsbD_eq
  intro i hi
  have hdiv : (v.toNat / 2 ^ n * 2 ^ n).testBit i = (decide (n ≤ i) && v.getLsbD i) := by
    rw [Nat.testBit_mul_two_pow]
    by_cases hni : n ≤ i
    · simp [hni, Nat.testBit_div_two_pow, BitVec.getLsbD]
    · simp [hni]
  rw [BitVec.getLsbD_and, BitVec.getLsbD_not, BitVec.getLsbD_ofNat, BitVec.getLsbD_ofNat, hdiv, Nat.testBit_two_pow_sub_one]
  by_cases hni : n ≤ i <;> simp [hi, hni, Nat.not_lt.mpr, Nat.lt_of_not_le]

/-- Which bits a number shifted into a word sets. -/
theorem getLsbD_ofNat_shiftLeft (w n lo i : Nat) :
    (BitVec.ofNat w (n <<< lo)).getLsbD i = (decide (i < w) && (decide (lo ≤ i) && n.testBit (i - lo))) := by
  rw [BitVec.getLsbD_ofNat, Nat.testBit_shiftLeft]

/-- Writing back the field a word already has changes nothing. -/
theorem putBits_bits {w : Nat} (x : BitVec w) (hi lo : Nat) : putBits x hi lo (bits x hi lo) = x := by
  apply BitVec.eq_of_getLsbD_eq
  intro i hiw
  simp only [putBits, bits, BitVec.getLsbD_or, BitVec.getLsbD_and, BitVec.getLsbD_not, getLsbD_ofNat_shiftLeft,
    Nat.testBit_two_pow_sub_one, Nat.testBit_mod_two_pow, Nat.testBit_shiftRight]
  by_cases hlo : lo ≤ i
  · rw [Nat.add_sub_cancel' hlo]
    by_cases hin : i - lo < hi + 1 - lo <;> simp [hiw, hlo, hin, BitVec.getLsbD]
  · simp [hiw, hlo]

/-- Setting a bit that a word already has changes nothing. -/
theorem or_bit_of_set {v : Word} {i : Nat} (h : bit v i = true) : v ||| w64 (2 ^ i) = v := by
  apply BitVec.eq_of_getLsbD_eq
  intro j hj
  rw [BitVec.getLsbD_or, BitVec.getLsbD_ofNat, Nat.testBit_two_pow]
  by_cases hij : i = j
  · subst hij; simp [show v.getLsbD i = true from h]
  · simp [hij]

/-! ### The step -/

/-- An open device step that is enabled takes its effect outside recovery (R426). -/
theorem runOpen_ok {body : M Unit} {s t : State} (hb : s.bootErr = 0) (h : body s = .ok () t) : runOpen body s = .next t := by
  rw [runOpen, if_pos hb, runEvent_ok h]

/-- A write whose block number is a partition's reaches that partition's registers (R7, R36). -/
theorem registerWrite_part {s : State} (hp : s.power = true) (hb : s.bootErr = 0) (hn : s.arg.n0 < 16) :
    exec .registerWrite s = .next (s.partWrite s.arg.n0 s.arg.n1 s.arg.v) := by
  have hex : decide (s.arg.n0 < 17) = true := decide_eq_true (by omega)
  refine runOpen_ok hb ?_
  rw [bind_get_run, hex, bind_exists_true, hp, bind_enabled_true, if_pos hn, set_run]

/-- A write whose block number is 16 reaches the device's registers (R7, R37). -/
theorem registerWrite_device {s : State} (hp : s.power = true) (hb : s.bootErr = 0) (hn : s.arg.n0 = 16) :
    exec .registerWrite s = .next (s.devWrite s.arg.n1 s.arg.v) := by
  have hex : decide (s.arg.n0 < 17) = true := decide_eq_true (by omega)
  refine runOpen_ok hb ?_
  rw [bind_get_run, hex, bind_exists_true, hp, bind_enabled_true, if_neg (by omega), set_run]

/-! ### A partition's registers -/

/-- XLTVA keeps the page of the address written (R53). -/
theorem partWrite_xltva (s : State) (p : Nat) (v : Word) :
    s.partWrite p 0x408 v = s.modPart p (fun x => { x with xltva := BitVec.ofNat 64 (v.toNat / 4096 * 4096) }) := by
  have hmask : v &&& ~~~0xFFF = BitVec.ofNat 64 (v.toNat / 4096 * 4096) := and_not_lowMask v 12
  rw [← hmask]; rfl

/-- METHBASE keeps a multiple of 32 (R356). -/
theorem partWrite_methBase (s : State) (p : Nat) (v : Word) :
    s.partWrite p 0x810 v = s.modPart p (fun x => { x with methBase := BitVec.ofNat 64 (v.toNat / 32 * 32) }) := by
  have hmask : v &&& ~~~0x1F = BitVec.ofNat 64 (v.toNat / 32 * 32) := and_not_lowMask v 5
  rw [← hmask]; rfl

/-! ### The device's registers -/

/-- A partition's budget register holds the word written (R334). -/
theorem devWrite_budget (s : State) {p : Nat} (hp : p < 16) (v : Word) :
    s.devWrite (0x210000 + 8 * p) v = s.modPart p (fun x => { x with budget := v }) := by
  unfold State.devWrite
  rw [if_neg (by omega), if_neg (by omega), if_neg (by omega), if_neg (by omega), if_pos (by omega)]
  rw [show (0x210000 + 8 * p - 0x210000) / 8 = p by omega]

/-- SLOTCFG of an Acre unit keeps the low 56 bits (R329). -/
theorem devWrite_slotcfg (s : State) {u : Nat} (hu : u < 256) (v : Word) :
    s.devWrite (0x200008 + 0x40 * u) v = s.modUnit u (fun x => { x with slotcfg := BitVec.ofNat 64 (v.toNat % 2 ^ 56) }) := by
  have hc : s.callsCroft u = s := by
    rw [State.callsCroft, isCroft, if_neg (by simpa using hu)]
  have hmask : v &&& 0x00FFFFFFFFFFFFFF = BitVec.ofNat 64 (v.toNat % 2 ^ 56) := and_lowMask v 56 (by decide)
  unfold State.devWrite
  rw [if_neg (by omega), if_neg (by omega), if_neg (by omega), if_pos (by omega)]
  rw [show (0x200008 + 0x40 * u - 0x200000) / 0x40 = u by omega, show (0x200008 + 0x40 * u) % 0x40 = 8 by omega]
  rw [State.schedWrite, if_neg (by decide), if_pos rfl, State.slotcfgWrite, hc, hmask]

/-- A cascade destination register keeps bit 63 and the low 9 bits (R414). -/
theorem devWrite_cascDst (s : State) {k : Nat} (hk : k < 4) (v : Word) :
    s.devWrite (0x240600 + 8 * k) v = { s with cascDst := mset s.cascDst k (v &&& 0x80000000000001FF) } := by
  unfold State.devWrite
  rw [if_neg (by omega), if_neg (by omega), if_neg (by omega), if_neg (by omega), if_neg (by omega), if_neg (by omega),
    if_neg (by omega), if_neg (by omega), if_pos (by omega)]
  rw [show (0x240600 + 8 * k - 0x240600) / 8 = k by omega]

/-- SLEW keeps its two fields, and mode 3 makes the write ignored (R401). -/
theorem devWrite_slew (s : State) (v : Word) :
    s.devWrite 0x240300 v = if v.toNat / 2 ^ 32 % 4 = 3 then s else { s with slew := v &&& 0x300FFFFFF } := by
  show s.slewWrite v = _
  have hmode : bits v 33 32 = v.toNat / 2 ^ 32 % 4 := bits_eq_div_mod ..
  rw [State.slewWrite, hmode]

/-- LROUTE keeps the low 32 bits (R420). -/
theorem devWrite_lroute (s : State) (v : Word) :
    s.devWrite 0x260008 v = { s with lroute := BitVec.ofNat 64 (v.toNat % 2 ^ 32) } := by
  rw [← and_lowMask v 32 (by decide)]; rfl

/-- The thresholds in THERM change together, and only to ordered values within their ranges (R402). -/
theorem devWrite_therm (s : State) (v : Word) :
    s.devWrite 0x240400 v =
      if 96 ≤ v.toNat / 2 ^ 16 % 256 ∧ v.toNat / 2 ^ 16 % 256 ≤ 108 ∧ 80 ≤ v.toNat % 256 ∧ v.toNat % 256 ≤ 100 ∧
        v.toNat % 256 ≤ v.toNat / 2 ^ 8 % 256 ∧ v.toNat / 2 ^ 8 % 256 < v.toNat / 2 ^ 16 % 256
      then { s with therm := BitVec.ofNat 64 (v.toNat % 2 ^ 24) } else s := by
  show s.thermWrite v = _
  have he : bits v 23 16 = v.toNat / 2 ^ 16 % 256 := bits_eq_div_mod ..
  have ht : bits v 15 8 = v.toNat / 2 ^ 8 % 256 := bits_eq_div_mod ..
  have hm : bits v 7 0 = v.toNat % 256 := rfl
  have hmask : v &&& 0xFFFFFF = BitVec.ofNat 64 (v.toNat % 2 ^ 24) := and_lowMask v 24 (by decide)
  simp only [State.thermWrite, he, ht, hm, hmask]

/-! ### ISLCTL -/

/-- A command that ISLCTL does not list makes the write ignored (R392, log 64). -/
theorem islctlWrite_unlisted {s : State} {v : Word} (h : bits v 62 60 = 0 ∨ 4 ≤ bits v 62 60) : s.islctlWrite v = s := by
  rw [State.islctlWrite, if_pos (by simpa using h)]

/-- A listed command without BUSY writes the fields and starts nothing (R392). -/
theorem islctlWrite_fields {s : State} {v : Word} (hlo : 1 ≤ bits v 62 60) (hhi : bits v 62 60 ≤ 3) (hbusy : bit v 63 = false) :
    s.islctlWrite v = { s with island := Claim.ctlWritten s v (bits v 62 60) } := by
  have hlisted : ¬ (decide (bits v 62 60 = 0) || decide (4 ≤ bits v 62 60)) = true := by
    simp only [Bool.or_eq_true, decide_eq_true_eq]; omega
  simp only [State.islctlWrite, if_neg hlisted, hbusy, Bool.not_false, if_true]
  simp only [Claim.ctlWritten, bits_eq_div_mod]

/-- A write at ISLCTL's offset is ISLCTL's write (R37, R392). -/
theorem registerWrite_islctl {s : State} (hp : s.power = true) (hb : s.bootErr = 0) (hn : s.arg.n0 = 16)
    (ho : s.arg.n1 = 0x240000) : exec .registerWrite s = .next (s.islctlWrite s.arg.v) := by
  rw [registerWrite_device hp hb hn, ho]
  rfl

/-- A write at ISLCTL's offset with BUSY set is the step of its command: the command and the bit that the step puts into the
word stand there already (R392). -/
theorem registerWrite_islctl_busy {s : State} {cmd : Nat} (hp : s.power = true) (hb : s.bootErr = 0) (hn : s.arg.n0 = 16)
    (ho : s.arg.n1 = 0x240000) (hcmd : s.arg.v.toNat / 2 ^ 60 % 8 = cmd) (hbusy : bit s.arg.v 63 = true) :
    exec .registerWrite s = runOpen (islctlEvent cmd) s := by
  have hbits : bits s.arg.v 62 60 = cmd := (bits_eq_div_mod ..).trans hcmd
  have hrun : runOpen (islctlEvent cmd) s = .next (s.islctlWrite s.arg.v) := by
    refine runOpen_ok hb ?_
    rw [islctlEvent, modify_run, or_bit_of_set hbusy, ← hbits, putBits_bits]
  rw [hrun, registerWrite_islctl hp hb hn ho]

end Sys2Proof.Laws

namespace Sys2Proof.Proofs

open Sys2Proof Sys2Proof.Machine Sys2Proof.Laws

/-- Settles O50: the step is the write of its block, and each register's own equation gives what the write leaves. -/
theorem registerWrites : Obligations.RegisterWrites := by
  unfold Obligations.RegisterWrites
  refine ⟨fun s hp hb hn => ?part, fun s hp hb hn => ?device⟩
  case part =>
    have hw := registerWrite_part hp hb hn
    refine ⟨fun ho => ?astBase, fun ho => ?xltva, fun ho => ?methBase, fun ho => ?methCnt, fun ho => ?status,
      fun ho => ?undefined⟩
    case astBase => rw [hw, ho]; rfl
    case xltva => rw [hw, ho, partWrite_xltva]
    case methBase => rw [hw, ho, partWrite_methBase]
    case methCnt => rw [hw, ho]; rfl
    case status => rw [hw, ho]; rfl
    case undefined => rw [hw, ho]; rfl
  case device =>
    have hw := registerWrite_device hp hb hn
    refine ⟨fun p hlt ho => ?budget, fun u hlt ho => ?slotcfg, fun k hlt ho => ?cascDst, fun ho => ?slew,
      fun ho => ⟨fun hc => ?unlisted, fun hlo hhi hbusy => ?fields, fun hc hbusy => ?wake, fun hc hbusy => ?retention,
        fun hc hbusy => ?off⟩,
      fun ho => ?phase0, fun ho => ?phase1, fun ho => ?migTmo, fun ho => ?lroute, fun ho => ?therm⟩
    case budget => rw [hw, ho, devWrite_budget s hlt]
    case slotcfg => rw [hw, ho, devWrite_slotcfg s hlt]
    case cascDst => rw [hw, ho, devWrite_cascDst s hlt]
    case slew => rw [hw, ho, devWrite_slew]
    case unlisted =>
      rw [registerWrite_islctl hp hb hn ho, islctlWrite_unlisted (by rwa [bits_eq_div_mod])]
    case fields =>
      rw [registerWrite_islctl hp hb hn ho, islctlWrite_fields (by rwa [bits_eq_div_mod]) (by rwa [bits_eq_div_mod]) hbusy,
        bits_eq_div_mod]
      rfl
    case wake => exact registerWrite_islctl_busy hp hb hn ho hc hbusy
    case retention => exact registerWrite_islctl_busy hp hb hn ho hc hbusy
    case off => exact registerWrite_islctl_busy hp hb hn ho hc hbusy
    case phase0 => rw [hw, ho]; rfl
    case phase1 => rw [hw, ho]; rfl
    case migTmo => rw [hw, ho]; rfl
    case lroute => rw [hw, ho, devWrite_lroute]
    case therm => rw [hw, ho, devWrite_therm]

end Sys2Proof.Proofs
end

section
/-! SUPPORT. The family 02_dram_translation_host.md, DRAM channels and the scrubber (R39 to R42, R117): what a channel's exit
leaves, where a corrected error's record goes, then the obligation. -/

namespace Sys2Proof.Laws

open Sys2Proof Sys2Proof.Machine

/-! ### Device steps that are not enabled -/

@[simp] theorem bind_enabled_false {β : Type} (f : Unit → M β) (s : State) :
    (enabled false >>= f) s = .error (.park 0 false false) s := rfl

/-- A device step that stops at its guard changes nothing. -/
theorem runEvent_idle {body : M Unit} {s t : State} (h : body s = .error (.park 0 false false) t) : runEvent body s = .next s := by
  unfold runEvent
  rw [h]

/-! ### Records of class R and corrections (R33, R117, R370) -/

@[simp] theorem logR_ctxs (s : State) (cl c : Nat) (a : Word) : (s.logR cl c a).ctxs = s.ctxs := rfl
@[simp] theorem logR_mem (s : State) (cl c : Nat) (a : Word) : (s.logR cl c a).mem = s.mem := rfl
@[simp] theorem logR_fe (s : State) (cl c : Nat) (a : Word) : (s.logR cl c a).fe = s.fe := rfl

/-- Every record given to the mailbox's filling ends in the mailbox or waits (R370). -/
theorem mem_mbFill (cl : Nat) (e : MbEnt) (l m w : List MbEnt) (h : e ∈ l ∨ e ∈ m ∨ e ∈ w) :
    e ∈ (mbFill cl l m w).1 ∨ e ∈ (mbFill cl l m w).2 := by
  induction l generalizing m w with
  | nil => simpa [mbFill] using h
  | cons x l ih =>
    unfold mbFill
    split
    · exact ih _ _ (by simp only [List.mem_append, List.mem_cons, List.not_mem_nil, or_false] at h ⊢; grind)
    · exact ih _ _ (by simp only [List.mem_append, List.mem_cons, List.not_mem_nil, or_false] at h ⊢; grind)

/-- The record of a corrected error stands in its cluster's mailbox or waits for a place there, with its cause and address
(R117, R370). -/
theorem logR_recorded (s : State) (cl : Nat) (a : Word) :
    ∃ e, (e ∈ ((s.logR cl 0x40 a).cluster cl).mbox ∨ e ∈ ((s.logR cl 0x40 a).cluster cl).waiting) ∧
      (e.words.getD 0 0).toNat % 128 = 0x40 ∧ e.words.getD 2 0 = a := by
  refine ⟨{ words := [w64 (0x40 + 7 * 2 ^ 11 + 5 * 2 ^ 8), 0, a, 0, 0, w64 s.time, 0, 0], unit := none }, ?_, ?_, rfl⟩
  · simp only [State.logR, State.toMailbox, cluster_modCluster, if_true]
    exact mem_mbFill cl _ _ _ [] (.inl (by simp))
  · show (w64 (0x40 + 7 * 2 ^ 11 + 5 * 2 ^ 8)).toNat % 128 = 0x40
    decide

/-- A word that has been removed from a table reads as the default. -/
@[simp] theorem mget_mdel {α : Type} (m : Map α) (k : Nat) (d : α) : mget (mdel m k) k d = d := by
  induction m with
  | nil => rfl
  | cons e t ih =>
    obtain ⟨j, w⟩ := e
    by_cases h : j = k
    · simp [mdel, h, ih]
    · simp [mdel, mget, h, ih]

/-! ### Channels (R39 to R42) -/

/-- A channel that loses nothing becomes active, and nothing else changes (R39). -/
theorem exitChan_kept {s : State} {ch : Nat} (h : (mget s.chans ch {}).st ≠ 2 ∨ s.lostSegs = []) :
    s.exitChan ch = { s with chans := mset s.chans ch { st := 0, idle := s.time, want := false } } := by
  have hkeep : ((mget s.chans ch {}).st != 2 || s.lostSegs.isEmpty) = true := by
    rcases h with h | h <;> simp [h]
  exact if_pos hkeep

/-- No segment is given up where MEMPWR.PASR is 0 (R41). -/
theorem lostSegs_eq_nil {s : State} (h : s.mempwr.toNat / 2 ^ 24 % 2 ^ 8 = 0) : s.lostSegs = [] := by
  refine List.filter_eq_nil_iff.mpr fun g hg => ?_
  have hbit : bit s.mempwr (24 + g) = (s.mempwr.toNat / 2 ^ 24 % 2 ^ 8).testBit g := by
    rw [Nat.testBit_mod_two_pow, Nat.testBit_div_two_pow, decide_eq_true (List.mem_range.mp hg), Bool.true_and, Nat.add_comm g]
    rfl
  rw [hbit, h, Nat.zero_testBit]
  decide

/-- A segment whose bit MEMPWR.PASR holds is one that self-refresh gives up (R41). -/
theorem mem_lostSegs {s : State} {a : Nat} (h : bit s.mempwr (24 + segOf a) = true) : segOf a ∈ s.lostSegs :=
  List.mem_filter.mpr ⟨List.mem_range.mpr (Nat.mod_lt _ (by decide)), h⟩

/-- What a channel has lost joins the list of what is lost. -/
theorem mem_foldl_lost (ch : Nat) (l : List Nat) (init : List (Nat × Nat)) (x : Nat × Nat) (h : x ∈ init ∨ ∃ g ∈ l, x = (ch, g)) :
    x ∈ l.foldl (fun l g => if l.contains (ch, g) then l else l ++ [(ch, g)]) init := by
  induction l generalizing init with
  | nil => simpa using h
  | cons g l ih =>
    refine ih _ ?_
    rcases h with h | ⟨g', hg', rfl⟩
    · left
      dsimp only
      split
      · exact h
      · exact List.mem_append_left _ h
    · rcases List.mem_cons.mp hg' with rfl | hg'
      · left
        dsimp only
        split
        · next hin => exact List.contains_iff_mem.mp hin
        · exact List.mem_append_right _ (List.mem_singleton.mpr rfl)
      · exact .inr ⟨g', hg', rfl⟩

/-- A burst's first byte lies in the channel and the segment of each of its bytes (R38, R42). -/
theorem burst_place (a : Nat) : chanOf (32 * (a / 32)) = chanOf a ∧ segOf (32 * (a / 32)) = segOf a := by
  unfold chanOf segOf
  constructor
  · omega
  · split <;> omega

/-- Leaving self-refresh, a channel has lost its bytes in the segments given up: they read as uncorrectable (R42, log 20). -/
theorem errAt_exitChan_lost {s : State} {a : Nat} (hst : (mget s.chans (chanOf a) {}).st = 2) (ha : isDram a = true)
    (hbit : bit s.mempwr (24 + segOf a) = true) : (s.exitChan (chanOf a)).errAt a = 2 := by
  have hseg := mem_lostSegs hbit
  have hlose : ¬ ((mget s.chans (chanOf a) {}).st != 2 || s.lostSegs.isEmpty) = true := by
    simp [hst, List.ne_nil_of_mem hseg]
  obtain ⟨hchan, hburst⟩ := burst_place a
  have hdram : isDram (32 * (a / 32)) = true := by
    have := of_decide_eq_true ha
    exact decide_eq_true (by omega)
  have hscrap : (chanOf a, segOf a) ∈ (s.exitChan (chanOf a)).scrap := by
    rw [congrArg State.scrap (show s.exitChan (chanOf a) = _ from if_neg hlose)]
    exact mem_foldl_lost _ _ _ _ (.inr ⟨_, hseg, rfl⟩)
  have hmended : a / 32 ∉ (s.exitChan (chanOf a)).mended := by
    rw [congrArg State.mended (show s.exitChan (chanOf a) = _ from if_neg hlose)]
    intro h
    have hkept : (!(isDram (32 * (a / 32)) && chanOf (32 * (a / 32)) == chanOf a && s.lostSegs.contains (segOf (32 * (a / 32))))) = true :=
      (List.mem_filter.mp h).2
    rw [hdram, hchan, hburst, beq_self_eq_true, List.contains_iff_mem.mpr hseg] at hkept
    cases hkept
  simp [State.errAt, State.scrapped, ha, hscrap, hmended]

/-- A channel that an access waits for is left active (R39, R40). -/
theorem dramChannelExit_wanted {s : State} (hn : s.arg.n0 < 32) (hst : (mget s.chans s.arg.n0 {}).st ≠ 0)
    (hw : (mget s.chans s.arg.n0 {}).want = true) : exec .dramChannelExit s = .next (s.exitChan s.arg.n0) := by
  refine runEvent_ok ?_
  rw [bind_get_run, decide_eq_true hn, bind_exists_true, hw, bne_iff_ne.mpr hst, Bool.and_self, bind_enabled_true, set_run]

/-- A channel that no access waits for stays as it is (R40). -/
theorem dramChannelExit_unwanted {s : State} (hn : s.arg.n0 < 32) (hw : (mget s.chans s.arg.n0 {}).want = false) :
    exec .dramChannelExit s = .next s := by
  refine runEvent_idle (t := s) ?_
  rw [bind_get_run, decide_eq_true hn, bind_exists_true, hw, Bool.and_false, bind_enabled_false]

/-- A channel idle for the time its entry asks goes into the entry's state (R39). -/
theorem chanEntry_ok {s : State} {st d : Nat} {ns : State → Option Nat} (hn : s.arg.n0 < 32) (hns : ns s = some d)
    (hst : (mget s.chans s.arg.n0 {}).st < st) (hidle : (mget s.chans s.arg.n0 {}).idle + d ≤ s.time) :
    runEvent (chanEntry st ns) s =
      .next { s with chans := mset s.chans s.arg.n0 { mget s.chans s.arg.n0 {} with st := st } } := by
  refine runEvent_ok ?_
  rw [chanEntry, bind_get_run, decide_eq_true hn, bind_exists_true]
  simp only [hns, decide_eq_true hst, decide_eq_true hidle, Bool.and_self, bind_enabled_true, set_run]

/-! ### The patrol scrubber (R117) -/

/-- A unit scratchpad's home is a scratchpad's and no DRAM address. -/
theorem isUnitPad_place {a : Nat} (h : isUnitPad a = true) : isPad a = true ∧ isDram a = false := by
  simp only [isUnitPad, isPad, isDram, Bool.and_eq_true, decide_eq_true_eq, decide_eq_false_iff_not] at h ⊢
  omega

/-- The soft error at a unit scratchpad's home is the one its word's table holds (R117). -/
theorem errAt_unitPad (s : State) {a : Nat} (h : isUnitPad a = true) : s.errAt a = mget s.memErr (errKey a) 0 := by
  simp [State.errAt, State.scrapped, (isUnitPad_place h).2]

/-- Reading a granule's tag that holds no error changes nothing (R117). -/
theorem tagRead_sound {s : State} {a : Nat} (h : mget s.tagErr (a / 1024) 0 = 0) : (s.tagRead a).1 = s := by
  simp only [State.tagRead, h]

/-- A word of a powered unit scratchpad that holds no error, in a granule without one, is scrubbed and stays as it is (R117). -/
theorem patrolScrub_ok {s : State} (hpad : isUnitPad s.arg.n0 = true)
    (hseg : bit (s.unit (padUnit s.arg.n0)).segOn (s.arg.n0 % 2 ^ 20 / 0x10000) = true)
    (hacre : isAcrePad s.arg.n0 = true → s.acreOn = true) (hstby : isAcrePad s.arg.n0 = false → s.island.standby = false)
    (htag : mget s.tagErr (s.arg.n0 / 1024) 0 = 0) :
    (mget s.memErr (errKey s.arg.n0) 0 = 0 → exec .patrolScrub s = .next s) ∧
    (mget s.memErr (errKey s.arg.n0) 0 = 1 → exec .patrolScrub s = .next
      (({ s with memErr := mdel s.memErr (errKey s.arg.n0) } : State).logR (padCluster s.arg.n0) 0x40 (w64 s.arg.n0))) := by
  have hawake : (if isAcrePad s.arg.n0 = true then s.acreOn else !s.island.standby) = true := by
    cases h : isAcrePad s.arg.n0
    · simp [hstby h]
    · simp [hacre h]
  have hguard : (isPad s.arg.n0 && (if isAcrePad s.arg.n0 = true then s.acreOn else !s.island.standby) &&
      (!isUnitPad s.arg.n0 || bit (s.unit (padUnit s.arg.n0)).segOn (s.arg.n0 % 2 ^ 20 / 0x10000))) = true := by
    rw [(isUnitPad_place hpad).1, hawake, hseg, Bool.or_true]; rfl
  refine ⟨fun h => runEvent_ok ?_, fun h => runEvent_ok ?_⟩
  · simp only [bind_get_run, hguard, bind_enabled_true, h, tagRead_sound htag, set_run]
  · simp only [bind_get_run, hguard, bind_enabled_true, h, set_run]
    rw [tagRead_sound (s := ({ s with memErr := mdel s.memErr (errKey s.arg.n0) } : State).logR _ _ _) htag]

end Sys2Proof.Laws

namespace Sys2Proof.Proofs

open Sys2Proof Sys2Proof.Machine Sys2Proof.Laws

/-- Settles O47: a channel's exit and entries are their own equations; the scrubber's correction clears the word's error and
records it in its cluster. -/
theorem channelsAndScrubbing : Obligations.ChannelsAndScrubbing := by
  unfold Obligations.ChannelsAndScrubbing
  refine ⟨fun s hn => ⟨fun hw => ?unwanted, fun hw hst => ?kept, fun hw hst => ?lost, fun hst hon hidle => ?powerDown,
    fun hst hacre hon hd hidle => ?selfRefresh⟩, fun s hpad hseg hacre hstby htag => ?scrub⟩
  case unwanted => exact dramChannelExit_unwanted hn hw
  case kept =>
    rw [dramChannelExit_wanted hn (by omega) hw, exitChan_kept]
    exact hst.imp (fun h => by omega) (fun h => lostSegs_eq_nil h.2)
  case lost =>
    refine ⟨_, dramChannelExit_wanted hn (by omega) hw, fun a ha hch hbit => ?_⟩
    rw [← hch] at hst ⊢
    exact errAt_exitChan_lost hst ha hbit
  case powerDown =>
    have hbits : bits s.mempwr 15 8 = s.mempwr.toNat / 2 ^ 8 % 2 ^ 8 := bits_eq_div_mod ..
    exact chanEntry_ok hn (by rw [hbits, if_neg hon]) (by omega) hidle
  case selfRefresh =>
    have hbits : bits s.mempwr 23 16 = s.mempwr.toNat / 2 ^ 16 % 2 ^ 8 := bits_eq_div_mod ..
    exact chanEntry_ok hn (by rw [hbits, if_neg (by omega), hon, bne_iff_ne.mpr hd]; rfl) hst hidle
  case scrub =>
    obtain ⟨hnone, hone⟩ := patrolScrub_ok hpad hseg hacre hstby htag
    have herr : ∀ t : State, t.errAt s.arg.n0 = mget t.memErr (errKey s.arg.n0) 0 := fun t => errAt_unitPad t hpad
    have hcl : padCluster s.arg.n0 = clusterOf (padUnit s.arg.n0) := if_pos hpad
    refine ⟨fun h => hnone (herr s ▸ h), fun h => ⟨_, hone (herr s ▸ h), rfl, ?_, ?_⟩⟩
    · rw [herr]; exact mget_mdel ..
    · rw [hcl]; exact logR_recorded ..

end Sys2Proof.Proofs
end

section
/-! SUPPORT. The family 02_dram_translation_host.md, the host's accesses (R55 to R58, R416). First what an access to active
channels, a correction and a change of full/empty bits leave of the state; then the host's reads, its writes and the sharing map,
then the obligation. -/

namespace Sys2Proof.Laws

open Sys2Proof Sys2Proof.Machine

/-- A run of steps that each keep the state keeps it. -/
theorem foldl_fixed {σ α : Type} {f : σ → α → σ} {s : σ} {l : List α} (h : ∀ a ∈ l, f s a = s) : l.foldl f s = s :=
  List.foldlRecOn l f (motive := fun t => t = s) rfl (fun _ ht a ha => by rw [ht, h a ha])

/-- A populated address is a DRAM address (R36). -/
theorem isDram_of_populated {a b : Nat} (h : populated b = true) (hab : a ≤ b) : isDram a = true := by
  simp only [populated, isDram, Bool.or_eq_true, Bool.and_eq_true, decide_eq_true_eq] at h ⊢
  omega

/-! ### Accesses to active channels (R39) -/

/-- An access to an active channel changes only when the channel was last used (R39). -/
theorem touch_active {s : State} {a : Nat} (ha : isDram a = true) (hst : (mget s.chans (chanOf a) {}).st = 0) :
    s.touch a = { s with chans := mset s.chans (chanOf a) { st := 0, idle := s.time, want := false } } := by
  have hpad : ¬ isUnitPad a = true := by
    simp only [isUnitPad, isDram, Bool.and_eq_true, decide_eq_true_eq] at ha ⊢
    omega
  rw [State.touch, if_neg hpad, if_pos ha, exitChan_kept (.inl (by omega))]

/-- A channel that is made active leaves the active ones active. -/
theorem mset_active {m : Map Chan} {ch c n : Nat} (h : (mget m c {}).st = 0) :
    (mget (mset m ch { st := 0, idle := n, want := false }) c {}).st = 0 := by
  by_cases hc : c = ch
  · subst hc; rw [mget_mset]
  · rw [mget_mset_ne hc, h]

/-- Accesses to active channels change the channels' records alone, and leave the active ones active (R39). -/
theorem foldl_touch_active (l : List Nat) {s : State}
    (h : ∀ a ∈ l, isDram a = true ∧ (mget s.chans (chanOf a) {}).st = 0) :
    ∃ cs, l.foldl State.touch s = { s with chans := cs } ∧ ∀ c, (mget s.chans c {}).st = 0 → (mget cs c {}).st = 0 := by
  induction l generalizing s with
  | nil => exact ⟨s.chans, rfl, fun _ hc => hc⟩
  | cons a l ih =>
    obtain ⟨ha, hst⟩ := h a (List.mem_cons_self ..)
    rw [List.foldl_cons, touch_active ha hst]
    obtain ⟨cs, hcs, hkeep⟩ := ih (s := { s with chans := mset s.chans (chanOf a) { st := 0, idle := s.time, want := false } })
      (fun b hb => ⟨(h b (List.mem_cons_of_mem _ hb)).1, mset_active (h b (List.mem_cons_of_mem _ hb)).2⟩)
    exact ⟨cs, hcs, fun c hc => hkeep c (mset_active hc)⟩

/-- A run touches its first byte and the 256-byte units it enters, each an address of the run. -/
theorem touchRun_active {s : State} {a n : Nat} (hn : 1 ≤ n) (ha : isDram (a + n - 1) = true)
    (hst : ∀ i, i < n → (mget s.chans (chanOf (a + i)) {}).st = 0) :
    ∃ cs, s.touchRun a n = { s with chans := cs } ∧ ∀ c, (mget s.chans c {}).st = 0 → (mget cs c {}).st = 0 := by
  have hrun : s.touchRun a n = (a :: (rangeFrom (a / 256 + 1) ((a + n - 1) / 256 - a / 256)).map (256 * ·)).foldl State.touch s := by
    rw [List.foldl_cons, List.foldl_map, State.touchRun]
  rw [hrun]
  refine foldl_touch_active _ fun b hb => ?_
  have hb' : ∃ i, i < n ∧ b = a + i := by
    rcases List.mem_cons.mp hb with rfl | hb
    · exact ⟨0, by omega, rfl⟩
    · simp only [rangeFrom, List.mem_map, List.mem_range] at hb
      obtain ⟨_, ⟨j, hj, rfl⟩, rfl⟩ := hb
      exact ⟨256 * (a / 256 + 1 + j) - a, by omega, by omega⟩
  obtain ⟨i, hi, rfl⟩ := hb'
  refine ⟨?_, hst i hi⟩
  have := of_decide_eq_true ha
  exact decide_eq_true (by omega)

/-! ### Corrections (R33) -/

/-- A read that meets no soft error corrects nothing (R33, R117). -/
theorem correct_sound {s : State} {u a n : Nat} (h : ∀ w ∈ errRuns a n, s.errAt w = 0) : s.correct u a n = s := by
  unfold State.correct
  split
  · rfl
  · exact foldl_fixed fun w hw => by rw [h w hw]; rfl

/-- A correction changes the errors that stand and the clusters' mailboxes and counts alone (R33, R370). -/
theorem correct_frame (s : State) (u a n : Nat) : ∃ me cl, s.correct u a n = { s with memErr := me, clusters := cl } := by
  unfold State.correct
  split
  · exact ⟨s.memErr, s.clusters, rfl⟩
  · refine List.foldlRecOn (errRuns a n) _ (motive := fun t => ∃ me cl, t = ({ s with memErr := me, clusters := cl } : State))
      ⟨s.memErr, s.clusters, rfl⟩ ?_
    rintro _ ⟨me, cl, rfl⟩ w -
    dsimp only
    split
    · exact ⟨_, _, rfl⟩
    · exact ⟨me, cl, rfl⟩

/-- Corrections of several runs change the errors that stand and the clusters alone. -/
theorem foldl_correct_frame (s : State) (u n : Nat) (l : List Nat) :
    ∃ me cl, l.foldl (fun s b => s.correct u b n) s = { s with memErr := me, clusters := cl } := by
  refine List.foldlRecOn l _ (motive := fun t => ∃ me cl, t = ({ s with memErr := me, clusters := cl } : State))
    ⟨s.memErr, s.clusters, rfl⟩ ?_
  rintro _ ⟨me, cl, rfl⟩ b -
  obtain ⟨me', cl', h⟩ := correct_frame { s with memErr := me, clusters := cl } u b n
  exact ⟨me', cl', h⟩

/-! ### Values and bytes -/

@[simp] theorem memBytes_length (m : List Host.Cell) (a n : Nat) : (memBytes m a n).length = n := by
  induction n generalizing a with
  | zero => rfl
  | succ n ih => simp [memBytes, ih]

/-- The number that a run of bytes stands for is the number its bytes make (R2). -/
theorem ofBytes_memRead (m : List Host.Cell) (a n : Nat) : ofBytes (memRead m a n) = Claim.leVal m a n := by
  rw [memRead_eq]
  induction n generalizing a with
  | zero => rfl
  | succ n ih => simp only [memBytes, ofBytes, Claim.leVal, ih]

/-- The number read where a run of bytes was written is the number the bytes make. -/
theorem leVal_memWrite {m : List Host.Cell} (a : Nat) (l : List Byte) (h : Memory.wf m = true) :
    Claim.leVal (memWrite m a l) a l.length = ofBytes l := by
  rw [← ofBytes_memRead, memRead_memWrite h]

/-! ### Full/empty bits that nothing waits for (R214) -/

theorem mem_nins {l : List Nat} {k x : Nat} : x ∈ nins l k ↔ x = k ∨ x ∈ l := by
  induction l with
  | nil => simp [nins]
  | cons h t ih =>
    unfold nins
    split
    · next hk => subst hk; simp
    · split
      · simp
      · rw [List.mem_cons, List.mem_cons, ih, or_left_comm]

theorem mem_ndel {l : List Nat} {k x : Nat} : x ∈ ndel l k ↔ x ∈ l ∧ x ≠ k := by
  simp [ndel]

/-- A pass over wait entries that all stand at other words serves none. -/
theorem scanList_idle {s : State} {w : Nat} {l : List WaitEnt} (h : ∀ e ∈ l, e.req.loc / 8 ≠ w) : s.scanList w l = (s, l) := by
  induction l with
  | nil => rfl
  | cons e t ih =>
    rw [State.scanList, if_neg (fun hc => h e (List.mem_cons_self ..) hc.1), ih (fun e he => h e (List.mem_cons_of_mem _ he))]

/-- The scan of a word that nothing waits for changes nothing (R214). -/
theorem scan_idle {s : State} {a : Nat} (h : ∀ e ∈ s.waits, e.req.loc / 8 ≠ a / 8) : s.scan a = s := by
  have hup : s.waits.filter (fun e => e.watch && e.req.loc / 8 == a / 8 && s.wouldServe e.req) = [] :=
    List.filter_eq_nil_iff.mpr fun e he => by simp [h e he]
  have hkeep : s.waits.filter (fun e => !([] : List WaitEnt).contains e) = s.waits := List.filter_eq_self.mpr fun _ _ => rfl
  simp only [State.scan, scanList_idle h, hup, hkeep, List.foldl_nil]

/-- A word that nothing waits for becomes full, and no other bit and nothing else changes (R214). -/
theorem feChange_full {s : State} {a : Nat} (h : ∀ e ∈ s.waits, e.req.loc / 8 ≠ a / 8) :
    ∃ f, s.feChange a true = { s with fe := f } ∧ ∀ w, w ∈ f ↔ w = a / 8 ∨ w ∈ s.fe := by
  unfold State.feChange
  split
  · next hf =>
    have hin : a / 8 ∈ s.fe := List.contains_iff_mem.mp hf
    exact ⟨s.fe, rfl, fun w => ⟨.inr, fun hw => hw.elim (fun e => e ▸ hin) id⟩⟩
  · rw [scan_idle (by simpa using h)]
    exact ⟨nins s.fe (a / 8), rfl, fun w => mem_nins⟩

/-- Words that nothing waits for become full, and nothing else changes (R214). -/
theorem foldl_feChange_full (l : List Nat) {s : State} (h : ∀ e ∈ s.waits, e.req.loc / 8 ∉ l) :
    ∃ f, l.foldl (fun s w => s.feChange (8 * w) true) s = { s with fe := f } ∧ ∀ w, w ∈ f ↔ w ∈ l ∨ w ∈ s.fe := by
  induction l generalizing s with
  | nil => exact ⟨s.fe, rfl, fun w => by simp⟩
  | cons k l ih =>
    have hk : 8 * k / 8 = k := Nat.mul_div_cancel_left k (by decide)
    obtain ⟨f, hf, hmem⟩ := feChange_full (s := s) (a := 8 * k) (fun e he heq => h e he (by simp [heq, hk]))
    obtain ⟨g, hg, hmem'⟩ := ih (s := { s with fe := f }) (fun e he hin => h e he (List.mem_cons_of_mem _ hin))
    refine ⟨g, by rw [List.foldl_cons, hf, hg], fun w => ?_⟩
    rw [hmem', hmem, hk, List.mem_cons]
    exact or_left_comm.trans or_assoc.symm

/-! ### The host's reads (R57, R416) -/

/-- Where no uncorrectable error stands in the words of a run, the run is read (R33, R117). -/
theorem readErr_sound {s : State} {a n : Nat} (h : ∀ w, a / 8 ≤ w → w ≤ (a + n - 1) / 8 → s.errAt (8 * w) = 0) : s.readErr a n = 0 := by
  have hnone : (rangeFrom (a / 8) ((a + n - 1) / 8 + 1 - a / 8)).find? (fun w => s.errAt (8 * w) == 2) = none := by
    refine List.find?_eq_none.mpr fun w hw => ?_
    simp only [rangeFrom, List.mem_map, List.mem_range] at hw
    obtain ⟨j, hj, rfl⟩ := hw
    rw [h _ (by omega) (by omega)]
    decide
  rw [State.readErr, hnone]

/-- A read leaves every register but ERRCNT as it is (R7, R370). The definition is rewritten as a function, before it meets its
operands: the kernel would otherwise count the difference of `pa` and the block's base down one by one. -/
theorem regReadAfter_plain {s : State} {pa : Nat} (h : errcntAt (pa - 0x7F0001000000) = none) : s.regReadAfter pa = s := by
  obtain ⟨f, hf⟩ : ∃ f, f = State.regReadAfter := ⟨_, rfl⟩
  rw [← hf]
  delta State.regReadAfter at hf
  rw [hf]
  simp only [h]

/-- The host's access to a run of active channels without soft errors changes the channels' records alone, and the run is read
(R33, R39). -/
theorem hostAccess_sound {s : State} {a n : Nat} (hn : 1 ≤ n) (hpop : populated (a + n - 1) = true)
    (h : ∀ i, i < n + 128 → (mget s.chans (chanOf (a / 64 * 64 + i)) {}).st = 0 ∧ s.errAt (a / 64 * 64 + i) = 0) :
    ∃ cs, (s.touchRun a n).correct 256 a n = { s with chans := cs } ∧ ({ s with chans := cs } : State).readErr a n = 0 := by
  have hplace : ∀ b, a / 64 * 64 ≤ b → b < a + n + 64 → (mget s.chans (chanOf b) {}).st = 0 ∧ s.errAt b = 0 := fun b hlo hhi => by
    have := h (b - a / 64 * 64) (by omega)
    rwa [Nat.add_sub_cancel' hlo] at this
  obtain ⟨cs, hcs, -⟩ := touchRun_active hn (isDram_of_populated hpop (Nat.le_refl _))
    (fun i _ => (hplace (a + i) (by omega) (by omega)).1)
  have herr : ∀ b, a / 64 * 64 ≤ b → b < a + n + 64 → ({ s with chans := cs } : State).errAt b = 0 :=
    fun b hlo hhi => (hplace b hlo hhi).2
  refine ⟨cs, ?_, readErr_sound fun w hlo hhi => herr _ (by omega) (by omega)⟩
  rw [hcs]
  refine correct_sound fun w hw => ?_
  simp only [errRuns, isDram_of_populated (a := a) hpop (by omega), if_true, rangeFrom, List.mem_map, List.mem_range] at hw
  obtain ⟨_, ⟨j, hj, rfl⟩, rfl⟩ := hw
  exact herr _ (by omega) (by omega)

/-- A register's 64 bits are read where the host reaches the device (R416). -/
theorem hostRead_register {s : State} (hopen : s.pfOpen = true) (hp : s.power = true) (hreg : isRegBlock s.arg.n0 = true)
    (ha : s.arg.n0 % 8 = 0) (hn : s.arg.n1 = 8) :
    exec .hostRead s = .next { s.regReadAfter s.arg.n0 with reply := toBytes 8 (s.regRead s.arg.n0).toNat, replyBad := false } := by
  refine runEvent_ok ?_
  simp only [bind_get_run, hreg, if_true, hp, ha, hn, hopen, beq_self_eq_true, Bool.true_or, Bool.and_self, bind_enabled_true, set_run]

/-- Device DRAM is read as the run's accesses and corrections leave it, with the poison indication of its errors (R34, R57). -/
theorem hostRead_dram {s : State} (hopen : s.pfOpen = true) (hreg : isRegBlock s.arg.n0 = false) (hn : 1 ≤ s.arg.n1)
    (hn' : s.arg.n1 ≤ 4096) (hpop : populated (s.arg.n0 + s.arg.n1 - 1) = true) :
    let t := ((s.touchRun s.arg.n0 s.arg.n1).correct 256 s.arg.n0 s.arg.n1).hostTakes s.arg.n0 s.arg.n1
    exec .hostRead s = .next { t with reply := memRead t.mem s.arg.n0 s.arg.n1, replyBad := t.readErr s.arg.n0 s.arg.n1 != 0 } := by
  have hdram : isDram s.arg.n0 = true := isDram_of_populated hpop (by omega)
  refine runEvent_ok ?_
  simp only [bind_get_run, hreg, Bool.false_eq_true, if_false, hopen, bne_iff_ne.mpr (Nat.ne_of_gt hn), decide_eq_true hn', hpop,
    Bool.true_or, Bool.and_self, bind_enabled_true, hdram, if_true, Bool.true_and, set_run]

/-! ### The host's writes (R34, R58, R416) -/

/-- A register is written where the host reaches the device (R416). -/
theorem hostWrite_register {s : State} (hopen : s.pfOpen = true) (hreg : isRegBlock s.arg.n0 = true) (ha : s.arg.n0 % 8 = 0)
    (hn : s.arg.data.length = 8) : exec .hostWrite s = .next (s.regWrite s.arg.n0 (w64 (ofBytes s.arg.data))) := by
  refine runEvent_ok ?_
  simp only [bind_get_run, hn, hopen, hreg, if_true, ha, beq_self_eq_true, Bool.and_self, bind_enabled_true, set_run,
    show (8 != 0) = true from rfl]

/-- Device DRAM is written where the host reaches the device (R58). -/
theorem hostWrite_dram {s : State} (hopen : s.pfOpen = true) (hreg : isRegBlock s.arg.n0 = false) (hn : 1 ≤ s.arg.data.length)
    (hpop : populated (s.arg.n0 + s.arg.data.length - 1) = true) : exec .hostWrite s = .next (s.hostStore s.arg.n0 s.arg.data) := by
  have hhost : isHostPa s.arg.n0 = false := by
    have := of_decide_eq_true (isDram_of_populated (a := s.arg.n0) hpop (by omega))
    simp only [isHostPa, Bool.and_eq_false_iff, decide_eq_false_iff_not]
    omega
  refine runEvent_ok ?_
  simp only [bind_get_run, hopen, bne_iff_ne.mpr (Nat.ne_of_gt hn), Bool.and_self, bind_enabled_true, hreg, hhost, Bool.false_and,
    Bool.false_eq_true, if_false, hpop, set_run]

/-- Noting bursts written in full changes that note alone (R42). -/
theorem mend_frame (s : State) (l : List Nat) : ∃ md, s.mend l = { s with mended := md } := by
  unfold State.mend
  split
  · exact ⟨s.mended, rfl⟩
  · exact ⟨_, rfl⟩

/-- Records of class R change the clusters alone (R370). -/
theorem foldl_logR_frame (s : State) (cl c : Nat) (l : List Nat) :
    ∃ cs, l.foldl (fun s b => s.logR cl c (w64 (32 * b))) s = { s with clusters := cs } :=
  List.foldlRecOn l _ (motive := fun t => ∃ cs, t = ({ s with clusters := cs } : State)) ⟨s.clusters, rfl⟩
    (fun _ ⟨_, ht⟩ _ _ => ht ▸ ⟨_, rfl⟩)

/-- Bytes written as an engine writes them, where every channel is active: the data, and no full/empty bit, wait list or context. -/
theorem pokeBytes_active {s : State} {a : Nat} {l : List Byte} (hn : 1 ≤ l.length) (ha : isDram (a + l.length - 1) = true)
    (hst : ∀ ch, (mget s.chans ch {}).st = 0) :
    (s.pokeBytes a l).mem = memWrite s.mem a l ∧ (s.pokeBytes a l).fe = s.fe ∧ (s.pokeBytes a l).waits = s.waits ∧
      (s.pokeBytes a l).ctxs = s.ctxs := by
  obtain ⟨cs, hcs, -⟩ := touchRun_active hn ha (fun i _ => hst _)
  obtain ⟨md, hmd⟩ := mend_frame ((s.touchRun a l.length).pokeRun a l)
    ((rangeFrom (a / 32) (l.length / 32 + 1)).filter (fun b => a ≤ 32 * b && 32 * b + 32 ≤ a + l.length))
  simp only [State.pokeBytes, hmd]
  simp [State.pokeRun, hcs]

/-- A write of the host in device DRAM, where every channel is active and nothing waits for the words it meets: its bytes, and its
words full (R58). -/
theorem hostStore_active {s : State} {a : Nat} {l : List Byte} (hn : 1 ≤ l.length) (ha : isDram (a + l.length - 1) = true)
    (hst : ∀ ch, (mget s.chans ch {}).st = 0) (hw : Claim.noneWaits s a l.length) :
    (s.hostStore a l).mem = memWrite s.mem a l ∧ (s.hostStore a l).ctxs = s.ctxs ∧
      ∀ b, a ≤ b → b < a + l.length → (s.hostStore a l).feAt b = true := by
  obtain ⟨cs, hcs, hactive⟩ := touchRun_active hn ha (fun i _ => hst _)
  obtain ⟨me, cl, hcorr⟩ := foldl_correct_frame { s with chans := cs } 256 32 (partBursts a l.length)
  obtain ⟨hmem, -, hwaits, hctxs⟩ := pokeBytes_active (s := { s with chans := cs, memErr := me, clusters := cl }) hn ha
    (fun ch => hactive ch (hst ch))
  obtain ⟨f, hf, hin⟩ := foldl_feChange_full (rangeFrom (a / 8) ((a + l.length + 7) / 8 - a / 8))
    (s := ({ s with chans := cs, memErr := me, clusters := cl } : State).pokeBytes a l) (fun e he hmem => by
      rw [hwaits] at he
      simp only [rangeFrom, List.mem_map, List.mem_range] at hmem
      obtain ⟨j, hj, heq⟩ := hmem
      have := hw e he
      omega)
  have hstore : ∃ cl' hl, s.hostStore a l =
      { ({ s with chans := cs, memErr := me, clusters := cl } : State).pokeBytes a l with fe := f, clusters := cl', hostLines := hl } := by
    simp only [State.hostStore, hcs, hcorr, hf]
    obtain ⟨cl', hlog⟩ := foldl_logR_frame
      { ({ s with chans := cs, memErr := me, clusters := cl } : State).pokeBytes a l with fe := f } 16 0x43
      (({ s with chans := cs, memErr := me, clusters := cl } : State).partBad a l.length)
    rw [hlog]
    exact ⟨_, _, rfl⟩
  obtain ⟨cl', hl, hstore⟩ := hstore
  rw [hstore]
  refine ⟨hmem, hctxs, fun b hlo hhi => List.contains_iff_mem.mpr ((hin _).mpr (.inl ?_))⟩
  simp only [rangeFrom, List.mem_map, List.mem_range]
  exact ⟨b / 8 - a / 8, by omega, by omega⟩

/-! ### The sharing map (R55, R56) -/

/-- What a write of a word of the sharing map does for one of its bits (R56). -/
def sharingBit (base : Nat) (v : Word) (s : State) (i : Nat) : State :=
  let n := base + i
  if !populated (n * 0x200000) then s
  else if bit v i then { s with sharing := nins s.sharing n, sharingClear := ndel s.sharingClear n }
  else if !s.sharing.contains n then s
  else if s.hostLines.any (fun l => l / 0x8000 == n) then { s with sharingClear := nins s.sharingClear n }
  else { s with sharing := ndel s.sharing n }

/-- A write of a word of the sharing map is what it does for each bit in turn. -/
theorem sharingWrite_eq_foldl (s : State) (off : Nat) (v : Word) :
    s.sharingWrite off v = (List.range 64).foldl (sharingBit ((off - 0x10000) * 8) v) s := rfl

/-- Two states agree on the region: whether it is shared, whether it is being cleared, and which lines the host holds. -/
def agreeOn (r : Nat) (s t : State) : Prop :=
  t.hostLines = s.hostLines ∧ (r ∈ t.sharing ↔ r ∈ s.sharing) ∧ (r ∈ t.sharingClear ↔ r ∈ s.sharingClear)

/-- A bit of the map changes nothing, shares its region, asks for the end of its sharing, or ends it (R56). -/
theorem sharingBit_cases (base : Nat) (v : Word) (s : State) (i : Nat) :
    sharingBit base v s i = s ∨
      sharingBit base v s i = { s with sharing := nins s.sharing (base + i), sharingClear := ndel s.sharingClear (base + i) } ∨
      sharingBit base v s i = { s with sharingClear := nins s.sharingClear (base + i) } ∨
      sharingBit base v s i = { s with sharing := ndel s.sharing (base + i) } := by
  unfold sharingBit
  dsimp only
  split
  · exact .inl rfl
  split
  · exact .inr (.inl rfl)
  split
  · exact .inl rfl
  split
  · exact .inr (.inr (.inl rfl))
  · exact .inr (.inr (.inr rfl))

/-- A bit of the map is about its own region alone (R56). -/
theorem sharingBit_agree {base i r : Nat} (v : Word) (s : State) (h : r ≠ base + i) : agreeOn r s (sharingBit base v s i) := by
  rcases sharingBit_cases base v s i with ht | ht | ht | ht <;> rw [ht] <;> simp [agreeOn, mem_nins, mem_ndel, h]

/-- A set bit shares its region at once (R56). -/
theorem sharingBit_set {base i : Nat} {v : Word} (s : State) (hpop : populated ((base + i) * 0x200000) = true) (hv : bit v i = true) :
    base + i ∈ (sharingBit base v s i).sharing ∧ base + i ∉ (sharingBit base v s i).sharingClear := by
  simp [sharingBit, hpop, hv, mem_nins, mem_ndel]

/-- A cleared bit ends the sharing of a region of which the host holds no line (R56). -/
theorem sharingBit_clear {base i : Nat} {v : Word} {s : State} (hpop : populated ((base + i) * 0x200000) = true) (hv : bit v i = false)
    (hl : ∀ l ∈ s.hostLines, l / 0x8000 ≠ base + i) : base + i ∉ (sharingBit base v s i).sharing := by
  have hnone : s.hostLines.any (fun l => l / 0x8000 == base + i) = false := by
    simpa using hl
  by_cases hin : base + i ∈ s.sharing
  · simp [sharingBit, hpop, hv, hin, hnone, mem_ndel]
  · simp [sharingBit, hpop, hv, hin]

/-- A cleared bit leaves a region of which the host holds lines shared until they are gone (R56). -/
theorem sharingBit_clear_held {base i : Nat} {v : Word} {s : State} (hpop : populated ((base + i) * 0x200000) = true)
    (hv : bit v i = false) (hl : ∃ l ∈ s.hostLines, l / 0x8000 = base + i) (hin : base + i ∈ s.sharing) :
    base + i ∈ (sharingBit base v s i).sharing ∧ base + i ∈ (sharingBit base v s i).sharingClear := by
  have hsome : s.hostLines.any (fun l => l / 0x8000 == base + i) = true := by
    simpa using hl
  simp [sharingBit, hpop, hv, hin, hsome, mem_nins]

/-- Bits of other regions leave a region as it is. -/
theorem foldl_sharingBit_agree {base r : Nat} (v : Word) (s : State) {l : List Nat} (h : ∀ i ∈ l, r ≠ base + i) :
    agreeOn r s (l.foldl (sharingBit base v) s) :=
  List.foldlRecOn l _ (motive := agreeOn r s) ⟨rfl, .rfl, .rfl⟩ fun t ⟨hl, hs, hc⟩ i hi =>
    have ⟨hl', hs', hc'⟩ := sharingBit_agree v t (h i hi)
    ⟨hl'.trans hl, hs'.trans hs, hc'.trans hc⟩

/-- What a write of a word of the map leaves of a region is what its own bit leaves of it. -/
theorem sharingWrite_region (s : State) (off : Nat) (v : Word) {i : Nat} (hi : i < 64) :
    ∃ q, agreeOn ((off - 0x10000) * 8 + i) s q ∧
      agreeOn ((off - 0x10000) * 8 + i) (sharingBit ((off - 0x10000) * 8) v q i) (s.sharingWrite off v) := by
  obtain ⟨l₁, l₂, hl⟩ := List.append_of_mem (List.mem_range.mpr hi)
  have hnodup : (l₁ ++ i :: l₂).Nodup := hl ▸ List.nodup_range
  obtain ⟨-, hnodup₂, hdisjoint⟩ := List.nodup_append.mp hnodup
  have h₁ : i ∉ l₁ := fun hin => hdisjoint i hin i (List.mem_cons_self ..) rfl
  have h₂ : i ∉ l₂ := (List.nodup_cons.mp hnodup₂).1
  refine ⟨l₁.foldl (sharingBit ((off - 0x10000) * 8) v) s, foldl_sharingBit_agree v s fun j hj heq => h₁ ?_, ?_⟩
  · rwa [Nat.add_left_cancel heq]
  · rw [sharingWrite_eq_foldl, hl, List.foldl_append, List.foldl_cons]
    exact foldl_sharingBit_agree v _ fun j hj heq => h₂ (by rwa [Nat.add_left_cancel heq])

/-- A write of a word of the sharing map takes its effect outside recovery (R56, R426). -/
theorem sharingMapWrite_ok {s : State} (hlo : 0x10000 ≤ s.arg.n0) (hhi : s.arg.n0 < 0x14000) (hal : s.arg.n0 % 8 = 0)
    (hb : s.bootErr = 0) : exec .sharingMapWrite s = .next (s.sharingWrite s.arg.n0 s.arg.v) := by
  refine runOpen_ok hb ?_
  simp only [bind_get_run, decide_eq_true hlo, decide_eq_true hhi, hal, beq_self_eq_true, Bool.and_self, bind_enabled_true, set_run]

/-- When the host's copies are gone, the regions being cleared are shared no longer (R56). -/
theorem sharingMapClearDone_ok {s : State} (h : s.sharingClear ≠ []) : exec .sharingMapClearDone s = .next { s with
    sharing := s.sharing.filter (fun n => !s.sharingClear.contains n)
    hostLines := s.hostLines.filter (fun l => !s.sharingClear.contains (l / 0x8000))
    sharingClear := [] } := by
  have hne : (!s.sharingClear.isEmpty) = true := by simp [h]
  refine runEvent_ok ?_
  rw [bind_get_run, hne, bind_enabled_true, set_run]

end Sys2Proof.Laws

namespace Sys2Proof.Proofs

open Sys2Proof Sys2Proof.Machine Sys2Proof.Laws

/-- Settles O48: an access to active channels without errors leaves the data as they are, a write is its bytes and full words, and
a write of the sharing map is, for each region, its own bit. -/
theorem hostAccesses : Obligations.HostAccesses := by
  unfold Obligations.HostAccesses
  have hopen : ∀ s : State, s.power = true → s.bootStage = 5 → s.bootErr = 0 → s.pfOpen = true := fun s hp hs hb => by
    simp [State.pfOpen, hp, hs, hb]
  refine ⟨fun s hp hs hb hn hn' hreg hpop hsound => ?read,
    fun s hp hs hb hreg hal => ⟨fun hn herr => ?readRegister, fun hn => ?writeRegister⟩,
    fun s hp hs hb hn hreg hpop hwf hw hst _ => ?write, fun s i hlo hhi hal hi hb hpop => ?map, fun s hne => ?clearDone⟩
  case read =>
    obtain ⟨cs, hcs, hread⟩ := hostAccess_sound hn hpop hsound
    refine ⟨_, hostRead_dram (hopen s hp hs hb) hreg hn hn' hpop, ?_⟩
    rw [hcs]
    refine ⟨ofBytes_memRead .., ?_, ?_, rfl, rfl⟩
    · exact (congrArg List.length (memRead_eq ..)).trans (memBytes_length ..)
    · exact bne_eq_false_iff_eq.mpr hread
  case readRegister =>
    rw [hostRead_register (hopen s hp hs hb) hp hreg hal hn, regReadAfter_plain herr]
  case writeRegister => exact hostWrite_register (hopen s hp hs hb) hreg hal hn
  case write =>
    obtain ⟨hmem, hctxs, hfull⟩ := hostStore_active hn (isDram_of_populated hpop (Nat.le_refl _)) hst hw
    refine ⟨_, hostWrite_dram (hopen s hp hs hb) hreg hn hpop, ?_, fun b hb => ?_, hfull, hctxs⟩
    · rw [hmem]; exact leVal_memWrite _ _ hwf
    · rw [hmem]; exact memGet_memWrite_out hwf hb
  case map =>
    obtain ⟨q, ⟨hlq, hsq, -⟩, -, hst, hct⟩ := sharingWrite_region s s.arg.n0 s.arg.v hi
    refine ⟨_, sharingMapWrite_ok hlo hhi hal hb, fun hv => ?_, fun hv hnone => ?_, fun hv hheld hin => ?_⟩
    · rw [hst, hct]; exact sharingBit_set q hpop hv
    · rw [hst]; exact sharingBit_clear hpop hv (hlq ▸ hnone)
    · rw [hst, hct]; exact sharingBit_clear_held hpop hv (hlq ▸ hheld) (hsq.mpr hin)
  case clearDone =>
    refine ⟨_, sharingMapClearDone_ok hne, rfl, rfl, fun r hr => ⟨fun hin => ?_, fun l hl heq => ?_⟩, fun r hr => ?_⟩
    · simpa [hr] using (List.mem_filter.mp hin).2
    · simpa [heq, hr] using (List.mem_filter.mp hl).2
    · simp [List.mem_filter, hr]

end Sys2Proof.Proofs
end

section
/-! SUPPORT. The family 02_dram_translation_host.md, translation (R27, R52 to R54, R177, R385): what walks, fills and wakes leave of
the state, the walkers' steps, invalidations, the logical unit map and the key, then the obligation. -/

namespace Sys2Proof.Laws

open Sys2Proof Sys2Proof.Machine

/-! ### What a walk leaves (R45 to R49, R52) -/

theorem correct_misses (s : State) (u a n : Nat) : (s.correct u a n).misses = s.misses := by
  obtain ⟨me, cl, h⟩ := correct_frame s u a n
  rw [h]

/-- Reading a table word leaves the misses. -/
theorem tableRead_misses (s : State) (u pa : Nat) : (s.tableRead u pa).2.misses = s.misses := by
  unfold State.tableRead
  split
  · rfl
  · exact (correct_misses ..).trans (touch_misses ..)

theorem cachePte_misses (s : State) (u : Nat) (e : WalkEnt) : (s.cachePte u e).misses = s.misses := by
  unfold State.cachePte
  dsimp only
  split <;> rfl

/-- A walk leaves the misses. -/
theorem walkFrom_misses (u p va fuel : Nat) (s : State) (level table : Nat) :
    (s.walkFrom u p va level table fuel).2.misses = s.misses := by
  induction fuel generalizing s level table with
  | zero => rfl
  | succ fuel ih =>
    have hread := tableRead_misses s u (table + 8 * vaIndex va level)
    unfold State.walkFrom
    dsimp only
    split
    · exact ih ..
    · split
      · next q heq => rw [heq] at hread; exact hread
      · next e q heq =>
        rw [heq] at hread
        split
        · exact hread
        · exact hread
        · rw [ih, cachePte_misses, hread]

theorem walk_misses (s : State) (u p asn va : Nat) : (s.walk u p asn va).2.misses = s.misses := by
  have hread := tableRead_misses s u (((s.part p).astBase &&& ~~~0x7FFF).toNat + 8 * asn)
  unfold State.walk
  split
  · next q heq => rw [heq] at hread; exact hread
  · next e q heq =>
    rw [heq] at hread
    dsimp only
    split
    · exact hread
    · rw [walkFrom_misses, hread]

/-- A miss still stands after a walk. -/
theorem mem_misses_of_walk {s q : State} {m : Miss} {r : WalkRes} {u p asn va : Nat} (hm : m ∈ s.misses)
    (h : s.walk u p asn va = (r, q)) : m ∈ q.misses := by
  have hkeep := walk_misses s u p asn va
  rw [h] at hkeep
  exact hkeep ▸ hm

/-! ### Wakes and fills (R52) -/

/-- Readying a context changes its directory entry and its wait alone. -/
theorem unpark_frame (s : State) (c : Nat) : ∃ d x, s.unpark c = { s with dir := d, ctxs := x } := by
  simp only [State.unpark]
  split
  · split
    · split
      · exact ⟨_, _, rfl⟩
      · exact ⟨_, _, rfl⟩
    · exact ⟨_, _, rfl⟩
  · exact ⟨_, _, rfl⟩

/-- Readying the contexts of units changes directory entries and contexts alone. -/
theorem wakeUnit_frame (s : State) (u : Nat) : ∃ d x, s.wakeUnit u = { s with dir := d, ctxs := x } := by
  unfold State.wakeUnit
  refine List.foldlRecOn s.dir _ (motive := fun t => ∃ d x, t = ({ s with dir := d, ctxs := x } : State)) ⟨s.dir, s.ctxs, rfl⟩ ?_
  rintro _ ⟨d, x, rfl⟩ e -
  split
  · obtain ⟨d', x', h⟩ := unpark_frame { s with dir := d, ctxs := x } e.1
    exact ⟨d', x', h⟩
  · exact ⟨d, x, rfl⟩

theorem foldl_wakeUnit_frame (s : State) (l : List Nat) :
    ∃ d x, l.foldl (fun s u => s.wakeUnit u) s = { s with dir := d, ctxs := x } := by
  refine List.foldlRecOn l _ (motive := fun t => ∃ d x, t = ({ s with dir := d, ctxs := x } : State)) ⟨s.dir, s.ctxs, rfl⟩ ?_
  rintro _ ⟨d, x, rfl⟩ u -
  obtain ⟨d', x', h⟩ := wakeUnit_frame { s with dir := d, ctxs := x } u
  exact ⟨d', x', h⟩

@[simp] theorem tlbFill_misses (s : State) (u : Nat) (e : TlbEnt) : (s.tlbFill u e).misses = s.misses := rfl

/-- A translation that is entered in a TLB stands in it (R51). -/
theorem mem_tlbInsert (l : List TlbEnt) (e : TlbEnt) (sets ways pick : Nat) : e ∈ tlbInsert l e sets ways pick := by
  unfold tlbInsert
  dsimp only
  split <;> exact List.mem_cons_self ..

/-- Filling a unit's TLBs puts the translation in its first-level TLB (R52). -/
theorem mem_tlbFill (s : State) (u : Nat) (e : TlbEnt) : e ∈ ((s.tlbFill u e).unit u).tlb := by
  show e ∈ ((s.modUnit u fun x => { x with tlb := tlbInsert x.tlb e 32 12 (Config.freeNat s.fresh) }).unit u).tlb
  rw [unit_modUnit]
  exact mem_tlbInsert ..

/-- Filling other units' TLBs leaves a unit's. -/
theorem tlbFill_unit_ne (s : State) {u v : Nat} (e : TlbEnt) (h : u ≠ v) : (s.tlbFill v e).unit u = s.unit u := by
  show (s.modUnit v fun x => { x with tlb := tlbInsert x.tlb e 32 12 (Config.freeNat s.fresh) }).unit u = s.unit u
  exact unit_modUnit_ne h

/-- A unit whose TLB has been filled keeps the translation when TLBs are filled with it again. -/
theorem mem_foldl_tlbFill (l : List Nat) (s : State) (u : Nat) (e : TlbEnt) (h : e ∈ (s.unit u).tlb) :
    e ∈ ((l.foldl (fun s v => s.tlbFill v e) s).unit u).tlb :=
  List.foldlRecOn l _ (motive := fun t : State => e ∈ (t.unit u).tlb) h fun t ht v _ => by
    by_cases huv : u = v
    · subst huv; exact mem_tlbFill ..
    · rwa [tlbFill_unit_ne t e huv]

theorem foldl_tlbFill_misses (l : List Nat) (s : State) (e : TlbEnt) :
    (l.foldl (fun s v => s.tlbFill v e) s).misses = s.misses :=
  List.foldlRecOn l _ (motive := fun t : State => t.misses = s.misses) rfl fun _ ht _ _ => ht

theorem setPte_misses (s : State) (u : Nat) (e : TlbEnt) (b : Nat) : (s.setPte u e b).1.misses = s.misses := by
  simp only [State.setPte, pokeRaw_misses, correct_misses, touch_misses]

/-- Bit `i` of a word as a quotient and a remainder. -/
theorem bit_eq_decide {w : Nat} (x : BitVec w) (i : Nat) : bit x i = decide (x.toNat / 2 ^ i % 2 = 1) := by
  rw [← Nat.testBit_eq_decide_div_mod_eq]
  rfl

/-- Setting a bit that stands changes nothing. -/
theorem putBit_of_bit {w : Nat} {x : BitVec w} {i : Nat} (h : bit x i = true) : putBit x i true = x := by
  have hone : bits x i i = 1 := by
    rw [bit_eq_decide, decide_eq_true_eq] at h
    rw [bits_eq_div_mod, Nat.add_sub_cancel_left, Nat.pow_one, h]
  have hput := putBits_bits x i i
  rwa [hone] at hput

/-- A walk's leaf is entered with A set (R49, R52): the translation, and that the unit's TLB holds it. -/
theorem install_spec (s : State) (u p asn va level : Nat) (pte : Word) (pa : Nat) :
    (s.install u p asn va level pte pa).1.misses = s.misses ∧
      (s.install u p asn va level pte pa).2 ∈ ((s.install u p asn va level pte pa).1.unit u).tlb ∧
      (s.install u p asn va level pte pa).2 =
        { part := p, asn := asn, level := level, vpn := va / 2 ^ levelShift level, pte := putBit pte 5 true, ptePa := pa } := by
  unfold State.install
  dsimp only
  split
  · next hA =>
    refine ⟨tlbFill_misses .., mem_tlbFill .., ?_⟩
    simp only [putBit_of_bit hA, Nat.shiftRight_eq_div_pow]
  · refine ⟨(tlbFill_misses ..).trans (setPte_misses ..), mem_tlbFill .., ?_⟩
    simp only [State.setPte, Nat.shiftRight_eq_div_pow]

/-! ### Misses answered (R52) -/

/-- A miss that no walk has answered asks for its own page. -/
theorem asks_self {m : Miss} (h : m.failed = none) : m.asks m.part m.asn m.vpn = true := by
  simp [Miss.asks, h]

/-- A page that a pending miss asks for has misses that ask for it. -/
theorem not_isEmpty_asking {s : State} {m : Miss} (hm : m ∈ s.misses) (hf : m.failed = none) :
    ¬ (s.misses.filter (·.asks m.part m.asn m.vpn)).isEmpty = true := by
  rw [List.isEmpty_iff]
  exact List.ne_nil_of_mem (List.mem_filter.mpr ⟨hm, asks_self hf⟩)

/-- A failed walk is noted for a requester that still waits, and memory is unchanged (R52). -/
theorem missFailed_spec {s : State} {m : Miss} (l : Nat) (hm : m ∈ s.misses) (hf : m.failed = none) (hc : m.ctxs ≠ []) :
    { m with walking := false, failed := some l } ∈ (s.missFailed m.part m.asn m.vpn l).misses ∧
      (s.missFailed m.part m.asn m.vpn l).mem = s.mem := by
  simp only [State.missFailed, if_neg (not_isEmpty_asking hm hf)]
  obtain ⟨d, x, hwake⟩ := foldl_wakeUnit_frame ({ s with misses := (s.misses.map (fun x => if x.asks m.part m.asn m.vpn
    then { x with walking := false, failed := some l } else x)).filter (fun x => x.failed.isNone || !x.ctxs.isEmpty) } : State)
    ((s.misses.filter (·.asks m.part m.asn m.vpn)).flatMap (·.units))
  rw [hwake]
  refine ⟨List.mem_filter.mpr ⟨List.mem_map.mpr ⟨m, hm, if_pos (asks_self hf)⟩, ?_⟩, rfl⟩
  simp [hc]

/-- A walk's leaf answers the miss, and a TLB that holds it keeps it (R52). -/
theorem missFilled_spec {s : State} {m : Miss} {e : TlbEnt} {u : Nat} (hm : m ∈ s.misses) (hf : m.failed = none)
    (he : e ∈ (s.unit u).tlb) :
    m ∉ (s.missFilled m.part m.asn m.vpn e).misses ∧ e ∈ ((s.missFilled m.part m.asn m.vpn e).unit u).tlb := by
  simp only [State.missFilled, if_neg (not_isEmpty_asking hm hf)]
  generalize (s.misses.filter (·.asks m.part m.asn m.vpn)).flatMap (·.units) = us
  obtain ⟨d, x, hwake⟩ := foldl_wakeUnit_frame (us.foldl (fun s u => s.tlbFill u e)
    { s with misses := s.misses.filter (fun x => !x.asks m.part m.asn m.vpn) }) us
  rw [hwake]
  refine ⟨fun hin => ?_, mem_foldl_tlbFill us { s with misses := s.misses.filter (fun x => !x.asks m.part m.asn m.vpn) } u e he⟩
  have hin' := (foldl_tlbFill_misses us { s with misses := s.misses.filter (fun x => !x.asks m.part m.asn m.vpn) } e) ▸ hin
  simpa [asks_self hf] using (List.mem_filter.mp hin').2

/-! ### The walkers' steps (R52) -/

/-- The cluster that the walkers serve next is the first in rotation that has a pending miss (R52). -/
theorem walkNext_eq {s : State} {i : Nat} {m : Miss} (hi : i < 16) (hm : s.missFrom ((s.walkLast + 1 + i) % 16) = some m)
    (hbefore : ∀ j, j < i → s.missFrom ((s.walkLast + 1 + j) % 16) = none) : s.walkNext = some ((s.walkLast + 1 + i) % 16) := by
  rw [State.walkNext, List.find?_map, Option.map_eq_some_iff]
  refine ⟨i, List.find?_range_eq_some.mpr ⟨?_, List.mem_range.mpr hi, fun j hj => ?_⟩, rfl⟩
  · simp [hm]
  · simp [hbefore j hj]

/-- A cluster's oldest pending miss takes a free walker when its turn has come (R52). -/
theorem tlbMissWalkStart_ok {s : State} {m : Miss} (hn : s.arg.n0 < 17) (hm : s.missFrom s.arg.n0 = some m)
    (hfree : (s.misses.filter (fun x => x.walking && x.croft == m.croft)).length < (if m.croft then 4 else 64))
    (hturn : s.arg.n0 = 16 ∨ s.walkNext = some s.arg.n0) :
    exec .tlbMissWalkStart s = .next { s with
      walkLast := if s.arg.n0 = 16 then s.walkLast else s.arg.n0
      misses := s.misses.map (fun x => if x = m then { x with walking := true } else x) } := by
  have hguard : (decide ((s.misses.filter (fun x => x.walking && x.croft == m.croft)).length < (if m.croft then 4 else 64)) &&
      (s.arg.n0 == 16 || s.walkNext == some s.arg.n0)) = true := by
    rw [decide_eq_true hfree]
    rcases hturn with h | h <;> simp [h]
  refine runEvent_ok ?_
  rw [bind_get_run, decide_eq_true hn, bind_exists_true]
  simp only [hm, hguard, bind_enabled_true, set_run]

/-- A walk that fails is noted for those who wait for it (R52). -/
theorem walkComplete_fail {s q : State} {m : Miss} {l u : Nat} (hm : s.misses[s.arg.n0]? = some m) (hw : m.walking = true)
    (hu : m.units = [u]) (h : s.walk u m.part m.asn (m.vpn * 4096) = (.fail l, q)) :
    exec .walkComplete s = .next (q.missFailed m.part m.asn m.vpn l) := by
  refine runEvent_ok ?_
  simp only [bind_get_run, hm, hw, bind_enabled_true, hu, List.headD_cons, h, set_run]

/-- A walk that finds its leaf installs it and answers those who wait for it (R49, R52). -/
theorem walkComplete_leaf {s q : State} {m : Miss} {l pa u : Nat} {pte : Word} (hm : s.misses[s.arg.n0]? = some m) (hw : m.walking = true)
    (hu : m.units = [u]) (h : s.walk u m.part m.asn (m.vpn * 4096) = (.leaf l pte pa, q)) :
    exec .walkComplete s = .next ((q.install u m.part m.asn (m.vpn * 4096) l pte pa).1.missFilled m.part m.asn m.vpn
      (q.install u m.part m.asn (m.vpn * 4096) l pte pa).2) := by
  refine runEvent_ok ?_
  simp only [bind_get_run, hm, hw, bind_enabled_true, hu, List.headD_cons, h, set_run]

/-! ### Invalidation (R53, R54) -/

/-- A table whose every entry is mapped reads the mapped entry, where the map keeps the default. -/
theorem mget_map {α : Type} (m : Map α) (g : α → α) (k : Nat) {d : α} (hd : g d = d) :
    mget (m.map fun u => (u.1, g u.2) : Map α) k d = g (mget m k d) := by
  induction m with
  | nil => exact hd.symm
  | cons e t ih =>
    obtain ⟨j, w⟩ := e
    by_cases h : j = k
    · simp [mget, h]
    · simpa [mget, h] using ih

/-- What a started invalidation does: a partition's walk caches, its failed misses and its walks go, and of the TLBs what `keep` does
not keep (R53). -/
def dropEntries (s : State) (p : Nat) (keep : TlbEnt → Bool) : State :=
  { s with
    walkAcre := s.walkAcre.filter (fun e => e.part != p)
    walkCroft := s.walkCroft.filter (fun e => e.part != p)
    units := s.units.map (fun u => (u.1, { u.2 with tlb := u.2.tlb.filter keep }))
    clusters := s.clusters.map (fun c => (c.1, { c.2 with tlb := c.2.tlb.filter keep }))
    misses := (s.misses.filter (fun m => !(m.part == p && m.failed.isSome))).map (fun m => if m.part = p then { m with walking := false } else m) }

/-- XLTINV stands busy, no TLB holds an entry of the partition that meets `f`, others stand, and the partition's walk caches are
empty (R53, R54). -/
def cleaned (p : Nat) (f : TlbEnt → Prop) (s t : State) : Prop :=
  bit (t.part p).xltinv 63 = true ∧ t.mem = s.mem ∧
    (∀ x ∈ t.units, ∀ e ∈ x.2.tlb, ¬(e.part = p ∧ f e)) ∧ (∀ x ∈ t.clusters, ∀ e ∈ x.2.tlb, ¬(e.part = p ∧ f e)) ∧
    (∀ u e, e ∈ (s.unit u).tlb → ¬(e.part = p ∧ f e) → e ∈ (t.unit u).tlb) ∧ (∀ e ∈ t.walkAcre ++ t.walkCroft, e.part ≠ p)

/-- Dropping the entries that meet `f`, with XLTINV busy, cleans the partition's translations. -/
theorem dropEntries_cleaned {s : State} {p : Nat} {v : Word} {keep : TlbEnt → Bool} {f : TlbEnt → Prop} (hv : bit v 63 = true)
    (hkeep : ∀ e, keep e = true ↔ ¬(e.part = p ∧ f e)) :
    cleaned p f s (dropEntries (s.modPart p fun x => { x with xltinv := v }) p keep) := by
  refine ⟨?_, rfl, fun x hx e he => ?_, fun x hx e he => ?_, fun u e he hne => ?_, fun e he => ?_⟩
  · show bit ((s.modPart p fun x => { x with xltinv := v }).part p).xltinv 63 = true
    rw [part_modPart]; exact hv
  · obtain ⟨y, -, rfl⟩ := List.mem_map.mp hx
    exact (hkeep e).mp (List.mem_filter.mp he).2
  · obtain ⟨y, -, rfl⟩ := List.mem_map.mp hx
    exact (hkeep e).mp (List.mem_filter.mp he).2
  · show e ∈ (mget (s.units.map fun y : Nat × UnitSt => (y.1, { y.2 with tlb := y.2.tlb.filter keep })) u {}).tlb
    rw [mget_map s.units (fun x => { x with tlb := x.tlb.filter keep }) u rfl]
    exact List.mem_filter.mpr ⟨he, (hkeep e).mpr hne⟩
  · rcases List.mem_append.mp he with he | he <;> simpa using (List.mem_filter.mp he).2

/-- The word that starts a command of a scope, field by field (R53). -/
theorem xltinv_word {scope asn : Nat} (hs : scope < 5) (ha : asn < 4096) :
    bits (w64 (2 ^ 63 + scope * 2 ^ 48 + asn * 2 ^ 36)) 51 48 = scope ∧ bits (w64 (2 ^ 63 + scope * 2 ^ 48 + asn * 2 ^ 36)) 47 36 = asn ∧
      bit (w64 (2 ^ 63 + scope * 2 ^ 48 + asn * 2 ^ 36)) 63 = true := by
  have hlt : 2 ^ 63 + scope * 2 ^ 48 + asn * 2 ^ 36 < 2 ^ 64 := by omega
  rw [bits_eq_div_mod, bits_eq_div_mod, bit_eq_decide, BitVec.toNat_ofNat, Nat.mod_eq_of_lt hlt, decide_eq_true_eq]
  omega

/-- A command of a scope that starts drops the entries of the scope, and XLTINV stands busy (R53). -/
theorem xltinv_cleans {s : State} {scope asn : Nat} {f : TlbEnt → Prop} (hb : s.bootErr = 0) (hn : s.arg.n0 < 16)
    (hidle : bit (s.part s.arg.n0).xltinv 63 = false) (hs : scope < 5)
    (hf : ∀ e : TlbEnt, e.removed s.arg.n0 scope (asn % 4096) (s.part s.arg.n0).xltva = true ↔ e.part = s.arg.n0 ∧ f e) :
    ∃ t, runOpen (xltinv scope asn) s = .next t ∧ cleaned s.arg.n0 f s t := by
  obtain ⟨hscope, hasn, hbusy⟩ := xltinv_word hs (Nat.mod_lt asn (by decide : 4096 > 0))
  have hrun : runOpen (xltinv scope asn) s =
      .next (s.xltinvWrite s.arg.n0 (w64 (2 ^ 63 + scope * 2 ^ 48 + asn % 4096 * 2 ^ 36))) := by
    refine runOpen_ok hb ?_
    rw [xltinv, bind_get_run, decide_eq_true hn, bind_exists_true, set_run]
  refine ⟨_, hrun, ?_⟩
  generalize w64 (2 ^ 63 + scope * 2 ^ 48 + asn % 4096 * 2 ^ 36) = v at hscope hasn hbusy
  have hstart : ¬ (bit (s.part s.arg.n0).xltinv 63 || decide (5 ≤ bits v 51 48)) = true := by
    rw [hidle, hscope, Bool.false_or, decide_eq_true_eq]; omega
  have hwrite : s.xltinvWrite s.arg.n0 v = dropEntries (s.modPart s.arg.n0 fun x => { x with xltinv := v &&& 0x800FFFF000000000 })
      s.arg.n0 (fun e => !e.removed s.arg.n0 scope (asn % 4096) (s.part s.arg.n0).xltva) := by
    rw [State.xltinvWrite, if_neg hstart]
    simp only [hbusy, Bool.not_true, Bool.false_eq_true, if_false, hscope, hasn, part_modPart]
    rfl
  rw [hwrite]
  refine dropEntries_cleaned ?_ fun e => ?_
  · rw [bit, BitVec.getLsbD_and, show v.getLsbD 63 = true from hbusy]; decide
  · rw [← hf e, Bool.not_eq_true', Bool.not_eq_true]

/-- Which entries of a partition each scope removes (R53). -/
theorem removed_iff (e : TlbEnt) (p scope asn : Nat) (va : Word) : e.removed p scope asn va = true ↔ e.part = p ∧
    match scope with
    | 0 => True
    | 1 => e.asn = asn ∧ bit e.pte 7 = false
    | 2 => e.asn = asn ∧ bit e.pte 7 = false ∧ e.vpn = va.toNat / 2 ^ levelShift e.level
    | 3 => e.vpn = va.toNat / 2 ^ levelShift e.level
    | _ => False := by
  unfold TlbEnt.removed
  dsimp only
  split <;> simp [Nat.shiftRight_eq_div_pow, and_assoc]

/-- Clearing the top bit of a word keeps the bits below it. -/
theorem putBit_top_false (x : Word) : putBit x 63 false = BitVec.ofNat 64 (x.toNat % 2 ^ 63) := by
  rw [← and_lowMask x 63 (by decide)]
  simp [putBit, putBits]

/-- A command is done when no access of the partition may still use what it removed (R54). -/
theorem xltinvDone_ok {s : State} (hn : s.arg.n0 < 16) (hbusy : bit (s.part s.arg.n0).xltinv 63 = true)
    (hold : s.oldAccesses s.arg.n0 = false) :
    exec .xltinvDone s = .next (s.modPart s.arg.n0 fun x => { x with xltinv := putBit x.xltinv 63 false }) := by
  refine runEvent_ok ?_
  simp only [bind_get_run, decide_eq_true hn, bind_exists_true, hbusy, hold, Bool.not_false, Bool.and_self, bind_enabled_true, set_run]

/-! ### The logical unit map (R27, R385) -/

/-- A LUM entry's write takes its effect outside recovery (R27, R426). -/
theorem lumWrite_ok {s : State} (hb : s.bootErr = 0) (hn : s.arg.n0 < 16) (hn' : s.arg.n1 < 512) :
    exec .lumWrite s = .next (s.lumWrite s.arg.n0 s.arg.n1 s.arg.v) := by
  refine runOpen_ok hb ?_
  rw [bind_get_run, decide_eq_true hn, decide_eq_true hn', Bool.and_self, bind_exists_true, set_run]

/-- A LUM entry's status, as a quotient and a remainder (R26). -/
theorem lumStatus_eq (e : BitVec 32) : bits e 30 29 = e.toNat / 2 ^ 29 % 4 := bits_eq_div_mod ..

/-- A LUM entry's unit, as a remainder (R26). -/
theorem lumUnit_eq (e : BitVec 32) : bits e 8 0 = e.toNat % 512 := rfl

/-- A migrating entry keeps its value, as does one whose unit's contexts a write would take away (R27). -/
theorem lumWrite_refused {s : State} {p n : Nat} {v : Word}
    (h : bits (s.lumEntry p n) 30 29 = 1 ∨ (bit (s.lumEntry p n) 31 = true ∧ s.heldBy p n ≠ [] ∧
      (bit (v.setWidth 32 &&& 0xE00001FF : BitVec 32) 31 = false ∨ (bits (s.lumEntry p n) 30 29 = 0 ∧
        bits (v.setWidth 32 &&& 0xE00001FF : BitVec 32) 8 0 ≠ bits (s.lumEntry p n) 8 0)))) : s.lumWrite p n v = s := by
  unfold State.lumWrite
  dsimp only
  generalize (v.setWidth 32 &&& 0xE00001FF : BitVec 32) = new at h ⊢
  split
  · rfl
  · next hmig =>
    obtain ⟨hV, hheld, hnew⟩ := h.resolve_left hmig
    split
    · rfl
    · next hkeep =>
      rw [if_pos]
      rcases hnew with hnew | ⟨hst, hunit⟩
      · simp [hV, hheld, hnew] at hkeep
      · simp [hV, hheld, hst, hunit]

/-- An entry that is not migrating and whose unit holds no context takes the written value, and no other entry, context or byte of
memory changes (R27, R385). -/
theorem lumWrite_free {s : State} {p n : Nat} {v : Word} (hmig : bits (s.lumEntry p n) 30 29 ≠ 1) (hheld : s.heldBy p n = []) :
    ∃ i, s.lumWrite p n v =
      { s.modPart p (fun x => { x with lum := mset x.lum n (v.setWidth 32 &&& 0xE00001FF) }) with island := i } := by
  unfold State.lumWrite
  simp only [if_neg hmig, hheld, List.isEmpty_nil, Bool.not_true, Bool.and_false, Bool.false_eq_true, if_false, List.foldl_nil, ite_self]
  split
  · exact ⟨_, rfl⟩
  · exact ⟨s.island, rfl⟩

/-- A partition's LUM reads the entry set last at its number, and other entries as before (R26). -/
theorem lumEntry_modPart (s : State) (p n q j : Nat) (e : BitVec 32) :
    (s.modPart p fun x => { x with lum := mset x.lum n e }).lumEntry q j = if q = p ∧ j = n then e else s.lumEntry q j := by
  unfold State.lumEntry
  by_cases hq : q = p
  · subst hq
    rw [part_modPart]
    by_cases hj : j = n
    · subst hj; simp
    · simp [hj, mget_mset_ne hj]
  · simp [hq, part_modPart_ne hq]

/-! ### The capability key (R177) -/

/-- The key's low half is staged outside recovery (R177, R426). -/
theorem capkeyStageLow_ok {s : State} (hb : s.bootErr = 0) (hn : s.arg.n0 < 16) :
    exec .capkeyStageLow s = .next (s.keyLow s.arg.n0 s.arg.v) := by
  refine runOpen_ok hb ?_
  rw [bind_get_run, decide_eq_true hn, bind_exists_true, set_run]

/-- The key's high half commits the key outside recovery (R177, R426). -/
theorem capkeyCommit_ok {s : State} (hb : s.bootErr = 0) (hn : s.arg.n0 < 16) :
    exec .capkeyCommit s = .next (s.keyHigh s.arg.n0 s.arg.v) := by
  refine runOpen_ok hb ?_
  rw [bind_get_run, decide_eq_true hn, bind_exists_true, set_run]

/-- With a low half staged, the key committed is the two halves (R177). -/
theorem keyHigh_staged {s : State} {p : Nat} {low : Word} (v : Word) (h : (s.part p).keyLow = some low) :
    s.keyHigh p v = s.modPart p fun x => { x with key := BitVec.ofNat 128 (v.toNat * 2 ^ 64 + low.toNat), keyLow := none } := by
  simp [State.keyHigh, State.modPart, h]

end Sys2Proof.Laws

namespace Sys2Proof.Proofs

open Sys2Proof Sys2Proof.Machine Sys2Proof.Laws

/-- Settles O49: a walk keeps the misses it answers, an invalidation drops the entries of its scope, and the LUM and the key are
their own equations. -/
theorem translationMaintained : Obligations.TranslationMaintained := by
  unfold Obligations.TranslationMaintained
  refine ⟨fun s m hn hm hfree hturn => ?walkStart,
    fun s m hm hw => ⟨fun l u q hu hf hwalk hc => ?walkFails, fun l pte pa u q hu hf hwalk => ?walkFindsLeaf⟩,
    fun s hb hn hidle => ⟨?partition, ?asn, ?asnPage, ?page, ?walkCaches⟩, fun s hn hbusy hold => ?done,
    fun s hb hn hn' => ⟨fun h => ?lumRefused, fun hmig hheld => ?lumFree⟩, fun s hb hn => ⟨?stageLow, fun low hlow => ?commit⟩⟩
  case walkStart =>
    refine tlbMissWalkStart_ok hn hm hfree (hturn.imp_right fun ⟨i, hi, hcl, hbefore⟩ => ?_)
    rw [← hcl]
    exact walkNext_eq hi (hcl.symm ▸ hm) hbefore
  case walkFails =>
    have hq := mem_misses_of_walk (List.mem_of_getElem? hm) hwalk
    exact ⟨_, walkComplete_fail hm hw hu hwalk, missFailed_spec l hq hf hc⟩
  case walkFindsLeaf =>
    have hq := mem_misses_of_walk (List.mem_of_getElem? hm) hwalk
    obtain ⟨hmisses, htlb, hent⟩ := install_spec q u m.part m.asn (m.vpn * 4096) l pte pa
    obtain ⟨hgone, hin⟩ := missFilled_spec (hmisses ▸ hq) hf htlb
    exact ⟨_, walkComplete_leaf hm hw hu hwalk, hgone, hent ▸ hin⟩
  case partition | asn | asnPage | page | walkCaches =>
    exact xltinv_cleans hb hn hidle (by decide) fun e => removed_iff ..
  case done => rw [xltinvDone_ok hn hbusy hold]; simp only [putBit_top_false]
  case lumRefused =>
    rw [lumWrite_ok hb hn hn', lumWrite_refused]
    simpa only [lumStatus_eq, lumUnit_eq] using h
  case lumFree =>
    obtain ⟨i, hi⟩ := lumWrite_free (v := s.arg.v) (by rwa [lumStatus_eq]) hheld
    refine ⟨_, lumWrite_ok hb hn hn', ?_⟩
    rw [hi]
    have hentry := lumEntry_modPart s s.arg.n0 s.arg.n1
    refine ⟨(hentry ..).trans (if_pos ⟨rfl, rfl⟩), rfl, rfl, fun q j hne => (hentry ..).trans (if_neg ?_)⟩
    rintro ⟨rfl, rfl⟩
    simp at hne
  case stageLow => exact capkeyStageLow_ok hb hn
  case commit => rw [capkeyCommit_ok hb hn, keyHigh_staged _ hlow]

end Sys2Proof.Proofs
end

section
/-! SUPPORT. The family 03_instruction_formats.md, the encoding (R63 to R72): the round trip of every constructor, joined, then the
obligation. -/

namespace Sys2Proof.Laws.RoundTrip

/-- The round trip of every instruction: the lemma of its constructor. -/
theorem of_instr (i : Instr) : Statement i :=
  i.casesOn
    -- the scalar class
    add sub and or xor andn sll srl sra mul mulh mulhu div divu rem remu slt sltu min max minu maxu clz ctz popc addi andi
    ori xori slli srli srai slti sltiu lui auipc lea fadd fsub fmul fdiv fsqrt fmin fmax feq flt fle fcvtif fcvtfi fclass
    rand randF32 randBnd beq bne blt bge bltu bgeu jal jalr callw callwr ld8 ld8u ld16 ld16u ld32 ld32u ld64 st8 st16 st32
    st64 ldq ldfe ldff stef stff amoadd amoand amoor amoxor amomin amomax amominu amomaxu amoswap amocas amofadd32 amobfadd2
    fence csrr csrw qbindUn qbindLd qbindTx qbindRx qbindRr qstat
    -- the vector class
    vadd vsub vmul vfma vfms vmin vmax vdiv vabs vneg vsqrt vrsqrt vrcp vexp2 vlog2 vtanh vand vor vxor vshl vshr vsra vcmpeq
    vcmplt vcmple vcvt vsel vredsum vredmax vredmin vargmax vperm vslideu vslided vbcast viota vmv vmvScalar vtopk vmfa vmta
    vext vld vst vlds vsts vgath vscat vscadd kand kor knot kpop kfirst kld kst
    -- the engine class
    hld hset hsetD hget hgetD halloc hallocN hfree hwait hspace hadvP hadvC hstat hstatLo hstatHi tmov tmovTg ttag ttagCas
    tget cpy gath scat fill coll xwait xwaitAll xstat mma mmaz mmas azeroF32 azeroI32 ald aldV ast astV cbld mcmd cgemv gld
    gst gacc gsub gschur gdamp gsolve gresid gsend snap snapOpen snapJoin snapFin scommit sabort
    -- the control class
    spawn haltS join leave barset bararr barwt barsync waitm send sendw capmk capmkDv caprv fwd expect dcnt taskq taskqCap
    taskqOwn taskend opcall wfe trap ckpt step migpt migptBind migptFree casc
    -- instructions without operands, of the scalar and the control class
    retw drain halt yield eret
    -- device steps, which have no word
    wideInstructionAtHead scalarResultReturn windowSpill windowFill storeResolve storePerform storeFaultRecord
    ldqEntryArrival waitEntryRetry remoteWindowAccess bridgeHold tlbMissWalkStart walkComplete patrolScrub engineCommandStart
    engineCommandComplete engineFault engineError slotBecomesFull slotBecomesFree deliveryArrival deliveryAck
    remoteCommandAccept hostWrite hostRead dramChannelExit channelPowerDownEntry channelSelfRefreshEntry lumWrite
    xltinvPartition xltinvAsn xltinvAsnPage xltinvPageAllAsn xltinvWalkCaches xltinvDone sharingMapWrite sharingMapClearDone
    capkeyStageLow capkeyCommit fpFlagsSync ovrInfoClear launchqWrite launchRecordTake launchNextRecord slotcfgWrite rotWrite
    contextPlace contextPreempt parkedEvict timeSliceExpiry budgetPeriod grpkill barrierRowSignal barrierColumnSignal
    barrierRelease barrierBreak staggeredReleaseApply wfeDeadline loadBalance memberFinished trapEntryHandler trapToCmc
    ctxcmdResume ctxcmdResumeAt ctxcmdReset ctxcmdReleaseFrozen ctxcmdRaise tmbheadAdvance tmbfreeMark errcntRead
    cmcGroupStop hangWatchdog wallTimeLimit imageWriteback contextSave contextRestore checkpointTimer resumeqWrite
    resumeImageTake meshLinkFailure islctlWake islctlRetention islctlOff acreAutoRetention acreAutoOff acreEntryDone
    acreWakeDone croftStandbyEntry croftWake unitPowerGate unitWake pspatWrite lendingPeriod lenderRecall recallComplete
    launchSkewExpiry thermalMigrationCrossing thermalRequestWithdraw throttleStep emergencySave thermalTrip croftThermalTrip
    inhibitClear retentionRecordClear migreqRaise migrationHonour migrationTimeout migrationComplete partitionSwapOut
    partitionSwapIn linkPortFailure vfFlr powerOnBoot measExtend getMeasurements registerWrite receiveQueueArrival
    apertureAccess deviceOff

end Sys2Proof.Laws.RoundTrip

namespace Sys2Proof.Proofs

open Sys2Proof Sys2Proof.Laws

/-- Settles O56: by cases on the instruction, each constructor's fields being those of its word. -/
theorem encodeThenDecode : Obligations.EncodeThenDecode := by
  unfold Obligations.EncodeThenDecode
  exact fun i w hi hw => RoundTrip.of_instr i hi w hw

end Sys2Proof.Proofs
end

section
/-! SUPPORT. The family 03_instruction_formats.md, a unit's turn (R63, R72 to R74, R332): the fetch, what the word fetched makes
of it, and the order of the slots, then the obligation. -/

namespace Sys2Proof.Laws

open Sys2Proof Sys2Proof.Machine

/-! ### The fetch (R44, R63, R74) -/

/-- An access that does not write leaves the translation it uses as it is (R49). -/
theorem markDirty_of_not_write {k : Acc} (h : k.write = false) (s : State) (w : Who) (va : Nat) (e : TlbEnt) :
    s.markDirty w va k e = (s.useLeaf w va k e, s) := by
  unfold State.markDirty
  cases s.useLeaf w va k e <;> simp [h]

/-- The translation of a fetch keeps the executing context. -/
theorem translate_fetch_cur (s : State) (w : Who) (va : Nat) : (s.translate w va accX false).2.cur = s.cur := by
  have hdirty := markDirty_of_not_write (k := accX) rfl
  unfold State.translate
  simp only [hdirty, Bool.false_eq_true, if_false]
  split
  next e _ => cases s.useLeaf w va accX e <;> rfl
  next =>
    split
    next e _ =>
      generalize hq : State.bump _ = q
      have hcur : q.cur = s.cur := by rw [← hq]; rfl
      cases q.useLeaf w va accX e <;> exact hcur
    next => split <;> rfl

/-- The resolution of a fetch keeps the executing context. -/
theorem resolve_fetch_cur (s : State) (w : Who) (va : Word) : (s.resolve w va accX false).2.cur = s.cur := by
  have hcur := translate_fetch_cur s w va.toNat
  unfold State.resolve
  split
  · rfl
  · generalize s.translate w va.toNat accX false = p at hcur
    obtain ⟨x, t⟩ := p
    cases x <;> exact hcur

/-- An address that resolves gives its home to the executing context (R48). -/
theorem home_ok {s t : State} {va : Word} {k : Acc} {n loc : Nat} (h : s.resolve (s.whoIs s.cur) va k false = (.ok loc, t)) :
    home va k n false s = .ok loc t := by
  unfold home
  simp only [bind_get_run, h, bind_set_run, pure_run]

/-- An access to a home whose channel, if it has one, is active goes on at once (R39, R40). -/
theorem awake_ok {s : State} {a : Nat} (h : isDram a = true → (mget s.chans (chanOf a) {}).st = 0) : awake a s = .ok () s := by
  have hasleep : s.asleep a = false := by
    cases hd : isDram a
    · simp [State.asleep, hd]
    · simp [State.asleep, h hd]
  simp [awake, hasleep]

/-- The word that stands at the executing context's pc is fetched (R63, R74). -/
theorem fetchWord_ok {s t : State} {loc : Nat} {w : BitVec 32} (halign : (s.ctx s.cur).pc.toNat % 4 = 0)
    (hres : Claim.resolves s (s.ctx s.cur).pc accX loc t) (hreg : isRegBlock loc = false)
    (hchan : isDram loc = true → (mget t.chans (chanOf loc) {}).st = 0)
    (herr : (t.fetched (t.unitOf t.cur) loc).readErr loc 4 = 0)
    (hw : w.toNat = Claim.leVal (t.fetched (t.unitOf t.cur) loc).mem loc 4) :
    fetchWord s = .ok w (t.fetched (t.unitOf t.cur) loc) := by
  have hpeek : BitVec.ofNat 32 ((t.fetched (t.unitOf t.cur) loc).peek loc 4) = w := by
    rw [State.peek, ofBytes_memRead, ← hw, BitVec.ofNat_toNat, BitVec.setWidth_eq]
  unfold fetchWord
  rw [bind_getPc_run, if_neg (not_not_intro halign), bind_ok (home_ok hres), hreg, if_neg Bool.false_ne_true,
    bind_ok (awake_ok hchan), bind_get_run, bind_set_run, if_neg (not_not_intro herr), pure_run, hpeek]

/-- A context that stands at a word fetches it (R63, R74). -/
theorem fetchWord_of_wordAt {q r : State} {c : Nat} {w : BitVec 32} (h : Claim.wordAt q r c w) :
    fetchWord { q with cur := c } = .ok w r := by
  obtain ⟨halign, loc, v, hres, hreg, hchan, rfl, herr, hw⟩ := h
  obtain rfl : v.cur = c := (congrArg (fun p => p.2.cur) hres).symm.trans (resolve_fetch_cur ..)
  exact fetchWord_ok halign hres hreg hchan herr hw

/-- A context whose word decodes executes the instruction (R72, R74). -/
theorem issueCtx_instr {q r : State} {c : Nat} {w : BitVec 32} {i : Instr} (hw : Claim.wordAt q r c w) (hd : decode w = .instr i) :
    issueCtx c q = exec i r := by
  simp only [issueCtx, fetchWord_of_wordAt hw, hd]

/-- A context whose word breaks a rule of R72 takes the cause of that rule (R72, R75). -/
theorem issueCtx_illegal {q r : State} {c : Nat} {w : BitVec 32} {e : DecodeErr} (hw : Claim.wordAt q r c w)
    (hd : decode w = .illegal e) : issueCtx c q = .next (r.issuedTrap { cause := e.cause } w) := by
  simp only [issueCtx, fetchWord_of_wordAt hw, hd]

/-! ### The turn (R332) -/

/-- A turn's order names every slot of the unit (R332). -/
theorem mem_slotOrder (owner : Nat) {k : Nat} (hk : k < 8) : k ∈ slotOrder owner := by
  unfold slotOrder
  split
  · exact List.mem_map.mpr ⟨(k + 8 - owner) % 8, List.mem_range.mpr (Nat.mod_lt _ (by decide)), by omega⟩
  · exact List.mem_range.mpr hk

/-- A context in its own slot that has not parked keeps the turn (R329, R332). -/
theorem passed_eq_false {s t : State} {u k c : Nat} (hb : s.belongs u k c = true) (hw : (t.ctx c).wait = none) :
    s.passed t u k c = false := by
  simp [State.passed, hw, hb]

/-- Where only one slot holds a context, which may issue and keeps the turn, its attempt is the turn, charged to it (R332, R335). -/
theorem trySlots_only {s t : State} {u k c : Nat} {l : List Nat} (hk : k ∈ l) (hc : s.inSlotOf u k = some c)
    (hother : ∀ j, j ≠ k → s.inSlotOf u j = none) (htry : s.canTry u c = true) (hrun : tryCtx u k c s = .next t)
    (hkeep : s.passed t u k c = false) : trySlots u l s = .next (t.charge u c) := by
  induction l with
  | nil => cases hk
  | cons j l ih =>
    unfold trySlots
    by_cases hj : j = k
    · subst hj
      simp [hc, htry, hrun, hkeep]
    · simp only [hother j hj]
      exact ih ((List.mem_cons.mp hk).resolve_left (Ne.symm hj))

/-- A context that nothing holds at its boundary, with no wide instruction still to be issued, issues (R226, R332, R368). -/
theorem tryCtx_issues {s : State} {u k c : Nat} (hb : (s.raiseDue c).beforeIssue u k c = none)
    (hn : ((s.raiseDue c).ctx c).nextWide = none) : tryCtx u k c s = issueCtx c (s.raiseDue c) := by
  simp only [tryCtx, hb, hn]

/-- The turn of a unit that runs goes through its slots once its clock has advanced (R332, R335, R371). -/
theorem issueTurn_runs {s : State} {u : Nat} (h : s.unitRuns u = true) :
    ∃ owner, issueTurn u s = trySlots u (slotOrder owner) (((s.tick u).reload).flushReports u) :=
  ⟨_, if_pos h⟩

/-- The turn of a unit whose one context can issue is that context's issue, charged to it (R332). -/
theorem step_onlyRuns {s q t : State} {u k c : Nat} (h : Claim.onlyRuns s q u k c) (hrun : issueCtx c q = .next t)
    (hw : (t.ctx c).wait = none) : step s = .next (t.charge u c) := by
  obtain ⟨dt, rest, hagenda, hu, hk, hruns, hc, hother, htry, rfl, hbelongs, hbefore, hwide⟩ := h
  obtain ⟨owner, hturn⟩ := issueTurn_runs hruns
  have hslots := trySlots_only (mem_slotOrder owner hk) hc hother htry ((tryCtx_issues hbefore hwide).trans hrun)
    (passed_eq_false hbelongs hw)
  rw [step, hagenda]
  exact (if_pos hu).trans (hturn.trans hslots)

end Sys2Proof.Laws

namespace Sys2Proof.Proofs

open Sys2Proof Sys2Proof.Machine Sys2Proof.Laws

/-- Settles O55: the one context that can issue has the turn, its fetch finds the word, and the word's decoding says what it does
(the word is the one memory holds at the fetch, log 53); the agenda's events are the step itself. -/
theorem stepRunsDecodedInstruction : Obligations.StepRunsDecodedInstruction := by
  unfold Obligations.StepRunsDecodedInstruction
  refine ⟨fun s q r t u k c w i hturn hword hdec hexec hwait => ?instruction,
    fun s q r u k c w e hturn hword hdec _ hwait => ?illegal, fun s dt i a rest hagenda => ?event,
    fun s dt c rest hagenda => ?setEvent⟩
  case instruction => exact step_onlyRuns hturn ((issueCtx_instr hword hdec).trans hexec) hwait
  case illegal => exact step_onlyRuns hturn (issueCtx_illegal hword hdec) hwait
  case event => rw [step, hagenda]; rfl
  case setEvent => rw [step, hagenda]; rfl

end Sys2Proof.Proofs
end

section
/-! SUPPORT. The family 05_scratchpads_and_tiles.md, the tags of granules (R120, R124, R128, R129): what an instruction's completion
leaves, a blocking access at a near home, and what a tag's reading and writing there do, then the obligation. -/

namespace Sys2Proof.Laws

open Sys2Proof Sys2Proof.Machine

/-! ### Completion (R75, R210) -/

/-- The ageing of a context's stores changes units alone (R210). -/
theorem ageStores_frame (s : State) (c : Nat) : ∃ us, s.ageStores c = { s with units := us } := by
  unfold State.ageStores
  dsimp only
  split
  · exact ⟨_, rfl⟩
  · exact ⟨s.units, rfl⟩

/-- What ends for a context that goes on stands in the directory alone (R219, R401, R409). -/
theorem moveOn_frame (s : State) (c : Nat) (keep : Bool) : ∃ d, s.moveOn c keep = { s with dir := d } := by
  unfold State.moveOn
  dsimp only
  split
  · exact ⟨_, rfl⟩
  · exact ⟨s.dir, rfl⟩

/-- A context that has executed an instruction: it goes on at the next pc, no longer waiting, its hang count restarted (R75, R381). -/
def movedTo (npc : Word) (x : Ctx) : Ctx := { x with pc := npc, wait := none, wdcnt := 0, got := [] }

/-- Completion changes the executing context, the units and the directory alone (R75, R210). -/
theorem retire_frame (s : State) (keep : Bool) :
    ∃ us d, s.retire keep = { s.modCtx s.cur (movedTo s.npc) with units := us, dir := d } := by
  obtain ⟨us, hage⟩ := ageStores_frame (s.modCtx s.cur (movedTo s.npc)) s.cur
  obtain ⟨d, hmove⟩ := moveOn_frame (s.advance s.cur s.npc) s.cur keep
  refine ⟨us, d, ?_⟩
  rw [State.retire, hmove]
  exact congrArg (fun t : State => { t with dir := d }) hage

@[simp] theorem retire_mem (s : State) (keep : Bool) : (s.retire keep).mem = s.mem := by
  obtain ⟨us, d, h⟩ := retire_frame s keep
  rw [h]; rfl

@[simp] theorem retire_tags (s : State) (keep : Bool) : (s.retire keep).tags = s.tags := by
  obtain ⟨us, d, h⟩ := retire_frame s keep
  rw [h]; rfl

/-- The executing context has moved on once its instruction is complete (R75). -/
theorem retire_ctx (s : State) (keep : Bool) : (s.retire keep).ctx s.cur = movedTo s.npc (s.ctx s.cur) := by
  obtain ⟨us, d, h⟩ := retire_frame s keep
  rw [h]
  exact ctx_modCtx s s.cur (movedTo s.npc)

/-- An instruction that writes an s register and completes leaves the value there, the other s registers, memory and tags as they
were, and the pc at the next one (R75, R163, R165). -/
theorem retire_written (s : State) (d : BitVec 5) (v : Word) (keep : Bool) :
    let t := (Claim.written s d v).retire keep
    (t.ctx s.cur).pc = s.npc ∧ (d.toNat ≠ 0 → (t.ctx s.cur).s d.toNat = v) ∧
      (∀ i, i ≠ d.toNat → (t.ctx s.cur).s i = (s.ctx s.cur).s i) ∧ t.mem = s.mem ∧ t.tags = s.tags := by
  have hctx : ((Claim.written s d v).retire keep).ctx s.cur = movedTo s.npc ((s.ctx s.cur).setS d.toNat v) := by
    rw [← ctx_modCtx s s.cur fun x => x.setS d.toNat v]
    exact retire_ctx (s.modCtx s.cur fun x => x.setS d.toNat v) keep
  refine ⟨congrArg Ctx.pc hctx, fun hd => ?_, fun i hi => ?_, retire_mem .., retire_tags ..⟩
  · exact (congrArg (·.s d.toNat) hctx).trans ((s_setS ..).trans (if_neg hd))
  · exact (congrArg (·.s i) hctx).trans (s_setS_ne hi)

/-! ### Scalar operands as the statements name them -/

/-- A register that can be read is ready (R163, R167). -/
theorem sReady_of_canRead {s : State} {i : BitVec 5} (h : Claim.canRead s i) : (s.ctx s.cur).sReady i.toNat = true := by
  rcases h with h | ⟨hfull, hout, -⟩
  · simp [Ctx.sReady, h]
  · simp [Ctx.sReady, hfull, hout]

/-- A register that can be read answers its value (R163, R383). -/
theorem rdS_canRead {s : State} {i : BitVec 5} (h : Claim.canRead s i) : rdS i s = .ok (Claim.regVal s i) s :=
  rdS_ok (sReady_of_canRead h) (h.imp_right fun ⟨_, _, herr⟩ => herr)

/-! ### Accesses at a near home (R114, R303, R304, R315) -/

/-- An access to a near home has nothing to wake (R391, R396). -/
theorem rouse_near {s : State} {loc : Nat} (h : Claim.near s loc) : s.rouse loc = s := by
  obtain ⟨-, -, -, -, hcroft, hgated⟩ := h
  have hawake : (isCroftPad loc && s.island.standby) = false := by
    cases hc : isCroftPad loc
    · rfl
    · exact hcroft hc
  simp only [State.rouse, hawake, Bool.false_eq_true, if_false]
  split
  next hpad => rw [State.wakeGated, hgated hpad]; rfl
  next => rfl

/-- Own stores that are resolved and hold nothing back, and fences that order nothing any more, hold no read (R303, R311, R312). -/
theorem readsHeld_of_wordFree {s : State} {loc : Nat} (h : Claim.wordFree s loc) : s.readsHeld s.cur = false := by
  obtain ⟨hfences, hstores⟩ := h
  rw [State.readsHeld, Bool.or_eq_false_iff, List.any_eq_false, Option.any_eq_false]
  refine ⟨fun e he => ?_, fun f hf => by simp [hfences f hf]⟩
  rcases hstores e he with hdone | hstore
  · simp [hdone]
  · by_cases hown : e.ctx = s.cur
    · obtain ⟨hres, har, -⟩ := (if_pos hown).mp hstore
      simp [hres, har]
    · simp [hown]

/-- No own store that still waits meets the aligned word of a home that is free (R303, R315). -/
theorem ownMeets_of_wordFree {s : State} {loc : Nat} (h : Claim.wordFree s loc) :
    (s.unit (s.unitOf s.cur)).sb.any (fun e => e.ctx == s.cur && e.rs != 2 && e.meets (loc / 8 * 8) 8) = false := by
  rw [List.any_eq_false]
  intro e he
  rcases h.2 e he with hdone | hstore
  · simp [hdone]
  · by_cases hown : e.ctx = s.cur
    · obtain ⟨-, -, hmeets⟩ := (if_pos hown).mp hstore
      simp [hmeets]
    · simp [hown]

/-- No sibling's store that the context must see waits at a home that is free (R304, R315). -/
theorem sibHolds_of_wordFree {s : State} {loc : Nat} (h : Claim.wordFree s loc) : s.sibHolds s.cur (loc / 8 * 8) 8 = false := by
  have hword : loc / 8 * 8 / 8 * 8 = loc / 8 * 8 := by omega
  have hlen : (loc / 8 * 8 % 8 + 8 + 7) / 8 * 8 = 8 := by omega
  rw [State.sibHolds, List.any_eq_false]
  intro e he
  simp only [State.sibsOn, hword, hlen, List.mem_filter, Bool.and_eq_true, bne_iff_ne, beq_iff_eq] at he
  obtain ⟨hmem, ⟨hsib, hrs⟩, hmeets⟩ := he
  have hunread : e.id ∉ (s.dirE s.cur).sibRead := fun hread => by
    have hfree := (if_neg hsib).mp ((h.2 e hmem).resolve_left (by omega)) hread
    rw [hmeets] at hfree
    cases hfree
  have hown : (s.unit (s.unitOf s.cur)).sb.any (fun f =>
      f.ctx == s.cur && f.rs != 2 && e.id < f.id && f.meets (loc / 8 * 8) 8) = false := by
    have hmeet := List.any_eq_false.mp (ownMeets_of_wordFree h)
    refine List.any_eq_false.mpr fun f hf hheld => hmeet f hf ?_
    simp only [Bool.and_eq_true] at hheld ⊢
    exact ⟨hheld.1.1, hheld.2⟩
  rw [State.mustSee, hword, hlen, hown]
  simp [hunread]

/-- A blocking access that nothing holds back is performed at its near home at once (R114, R303, R304, R315). -/
theorem blocking_ok {s t : State} {r : MemReq} {v : Word} (hnear : Claim.near s r.loc) (hfree : Claim.wordFree s r.loc)
    (hdone : s.atHome (s.unitOf s.cur) r = .done t v) : blocking r s = .ok v t := by
  obtain ⟨-, hlocal, -, hchan, -, -⟩ := hnear
  unfold blocking
  rw [bind_get_run, bind_ok (stallUnless_ok ?own ..), bind_ok (stallUnless_ok ?sibling ..), hlocal, if_neg Bool.false_ne_true,
    bind_ok (awake_ok hchan), hdone]
  exact bind_set_run t (fun _ => pure v) s
  case own => rw [readsHeld_of_wordFree hfree, ownMeets_of_wordFree hfree]; rfl
  case sibling => rw [sibHolds_of_wordFree hfree]; rfl

/-! ### Granules' tags (R120, R123, R128, R129) -/

/-- Removing a word from a table leaves the others. -/
theorem mget_mdel_ne {α : Type} {m : Map α} {k j : Nat} {d : α} (h : j ≠ k) : mget (mdel m k) j d = mget m j d := by
  induction m with
  | nil => rfl
  | cons e t ih =>
    obtain ⟨i, w⟩ := e
    by_cases hi : i = k
    · subst hi; simp [mdel, mget, h.symm, ih]
    · simp only [mdel, hi, if_false, mget, ih]

/-- A scratchpad's granule has the tag set for it (R120). -/
theorem tagAt_setTag {s : State} {loc : Nat} (h : isPad loc = true) (g : BitVec 16) : (s.setTag loc g).tagAt loc = g := by
  rw [State.setTag, if_pos h, State.tagAt]
  dsimp only
  split
  next hg => rw [hg, mget_mdel]
  next => rw [mget_mset]

/-- The other granules keep their tags (R120). -/
theorem tagAt_setTag_ne {s : State} {loc a : Nat} (h : a / 1024 ≠ loc / 1024) (g : BitVec 16) :
    (s.setTag loc g).tagAt a = s.tagAt a := by
  unfold State.setTag State.tagAt
  split
  · dsimp only
    split
    · exact mget_mdel_ne h
    · exact mget_mset_ne h
  · rfl

/-- A tag without a soft error reads whole, and nothing changes (R117, R120). -/
theorem tagRead_eq {s : State} {loc : Nat} (h : mget s.tagErr (loc / 1024) 0 = 0) : s.tagRead loc = (s, s.tagAt loc) := by
  simp only [State.tagRead, h]

@[simp] theorem tagAt_touch (s : State) (a loc : Nat) : (s.touch a).tagAt loc = s.tagAt loc := by
  unfold State.tagAt
  rw [touch_tags]

/-- Such a tag reads the same once its home has been reached (R117, R118). -/
theorem tagRead_touch {s : State} {loc : Nat} (h : mget s.tagErr (loc / 1024) 0 = 0) :
    (s.touch loc).tagRead loc = (s.touch loc, s.tagAt loc) := by
  rw [tagRead_eq (by rwa [touch_tagErr]), tagAt_touch]

/-- An access to a scratchpad changes no byte (R118). -/
theorem touch_mem_of_pad {s : State} {loc : Nat} (h : isPad loc = true) : (s.touch loc).mem = s.mem := by
  have hdram : isDram loc = false := by
    simp only [isPad, isDram, decide_eq_true_eq, decide_eq_false_iff_not] at h ⊢
    omega
  unfold State.touch
  rw [hdram]
  dsimp only
  split
  · split <;> rfl
  · rfl

/-- What TTAG makes of a granule's tag: `.cas` leaves one that is not the expected one (R128). -/
def tagSwapped (s : State) (loc : Nat) (v : Word) (cas : Bool) : State :=
  if (cas && (s.tagAt loc).toNat != bits v 31 16) = true then s else s.setTag loc (BitVec.ofNat 16 (bits v 15 0))

/-- A tag's swap changes nothing but the tags (R128). -/
theorem tagSwapped_frame (s : State) (loc : Nat) (v : Word) (cas : Bool) : ∃ g, tagSwapped s loc v cas = { s with tags := g } := by
  unfold tagSwapped State.setTag
  split
  · exact ⟨s.tags, rfl⟩
  · split
    · exact ⟨_, rfl⟩
    · exact ⟨s.tags, rfl⟩

@[simp] theorem tagSwapped_cur (s : State) (loc : Nat) (v : Word) (cas : Bool) : (tagSwapped s loc v cas).cur = s.cur := by
  obtain ⟨g, h⟩ := tagSwapped_frame s loc v cas
  rw [h]

@[simp] theorem tagSwapped_npc (s : State) (loc : Nat) (v : Word) (cas : Bool) : (tagSwapped s loc v cas).npc = s.npc := by
  obtain ⟨g, h⟩ := tagSwapped_frame s loc v cas
  rw [h]

@[simp] theorem tagSwapped_mem (s : State) (loc : Nat) (v : Word) (cas : Bool) : (tagSwapped s loc v cas).mem = s.mem := by
  obtain ⟨g, h⟩ := tagSwapped_frame s loc v cas
  rw [h]

@[simp] theorem tagSwapped_ctxs (s : State) (loc : Nat) (v : Word) (cas : Bool) : (tagSwapped s loc v cas).ctxs = s.ctxs := by
  obtain ⟨g, h⟩ := tagSwapped_frame s loc v cas
  rw [h]

/-- The granule's tag after TTAG is the one the statements name (R128). -/
theorem tagAt_tagSwapped {s : State} {loc : Nat} (h : isPad loc = true) (v : Word) (cas : Bool) :
    ((tagSwapped s loc v cas).tagAt loc).toNat = Claim.tagAfter s loc v cas := by
  have hexp : bits v 31 16 = v.toNat / 2 ^ 16 % 2 ^ 16 := bits_eq_div_mod ..
  have hnew : bits v 15 0 = v.toNat % 2 ^ 16 := by rw [bits_eq_div_mod]; simp
  unfold tagSwapped Claim.tagAfter
  simp only [hexp, hnew, Bool.and_eq_true, bne_iff_ne, ne_eq]
  split
  · rfl
  · rw [tagAt_setTag h, BitVec.toNat_ofNat, Nat.mod_mod]

/-- The other granules' tags stay (R128). -/
theorem tagAt_tagSwapped_ne {s : State} {loc a : Nat} (h : a / 1024 ≠ loc / 1024) (v : Word) (cas : Bool) :
    (tagSwapped s loc v cas).tagAt a = s.tagAt a := by
  unfold tagSwapped
  split
  · rfl
  · exact tagAt_setTag_ne h _

/-! ### The state an instruction starts from (R75)

The next pc and the word that stand for the instruction change neither what it reads nor what holds its accesses back. -/

theorem canRead_begun (s : State) (i : Instr) (a : BitVec 5) : Claim.canRead (Claim.begun s i) a = Claim.canRead s a := rfl

theorem canName_begun (s : State) (i : Instr) (d : BitVec 5) : Claim.canName (Claim.begun s i) d = Claim.canName s d := rfl

theorem regVal_begun (s : State) (i : Instr) (a : BitVec 5) : Claim.regVal (Claim.begun s i) a = Claim.regVal s a := rfl

theorem tagHome_begun (s : State) (i : Instr) (va : Word) (k : Acc) (loc : Nat) :
    Claim.TagHome (Claim.begun s i) va k loc = Claim.TagHome s va k loc := rfl

theorem portDown_begun (s : State) (i : Instr) (d : Nat) : (Claim.begun s i).portDown d = s.portDown d := rfl

theorem cutOff_begun (s : State) (i : Instr) (u loc : Nat) : (Claim.begun s i).cutOff u loc = s.cutOff u loc := by
  have hpath : (Claim.begun s i).pathBad u (homeUnit u loc) = s.pathBad u (homeUnit u loc) := rfl
  rw [State.cutOff, State.cutOff, hpath, portDown_begun]

theorem near_begun (s : State) (i : Instr) (loc : Nat) : Claim.near (Claim.begun s i) loc = Claim.near s loc := by
  rw [Claim.near, cutOff_begun]; rfl

theorem tagFree_begun (s : State) (i : Instr) (loc : Nat) : Claim.tagFree (Claim.begun s i) loc = Claim.tagFree s loc := by
  rw [Claim.tagFree, near_begun]; rfl

/-- An instruction whose effect ends well from the state the statements name completes (R75). -/
theorem runInstr_begun {i : Instr} {body : M Unit} {s t : State} (h : body (Claim.begun s i) = .ok () t) :
    runInstr i body s = .next (t.retire false) := runInstr_ok h

/-- Writing an s register as the statements say it (R165). -/
theorem wrS_written (d : BitVec 5) (v : Word) (s : State) : wrS d v s = .ok () (Claim.written s d v) := rfl

/-! ### TTAG, TTAG.CAS and TGET (R124, R128, R129) -/

/-- A window address's home answers at once, for any access but a fetch (R43, R128, R129). -/
theorem tagHome_ok {s : State} {va : Word} {k : Acc} {loc : Nat} (hk : k.fetch = false) (h : Claim.TagHome s va k loc) :
    tagHome va k s = .ok loc s := by
  obtain ⟨hwin, hroom, hhome⟩ := h
  have hres : s.resolve (s.whoIs s.cur) va k true = (.ok loc, s) := by
    simp only [State.resolve, hwin, hk, if_true, Bool.false_eq_true, if_false]
    exact congrArg (·, s) hhome
  rw [tagHome, hwin, Option.isSome_iff_ne_none.mpr hroom, Bool.and_self, if_pos rfl, home]
  simp only [bind_get_run, hres, bind_set_run, pure_run]

/-- A granule that no waiting store of the context goes into is not waited for (R124). -/
theorem granuleWait_ok {s : State} {loc : Nat} (h : Claim.tagFree s loc) : granuleWait loc s = .ok () s := by
  obtain ⟨-, -, hstores, -⟩ := h
  unfold granuleWait
  rw [bind_get_run, stallUnless_ok]
  rw [Bool.not_eq_true', List.any_eq_false]
  intro e he
  obtain ⟨hmem, hown⟩ := List.mem_filter.mp he
  rcases hstores e hmem (beq_iff_eq.mp hown) with hdone | hmeets
  · simp [hdone]
  · simp [hmeets]

/-- TGET's access reads the granule's tag whole (R120, R129). -/
theorem atHome_tget {s : State} {u : Nat} {r : MemReq} (hnear : Claim.near s r.loc) (herr : mget s.tagErr (r.loc / 1024) 0 = 0)
    (hop : r.op = .tget) : s.atHome u r = .done (s.touch r.loc) ((s.tagAt r.loc).setWidth 64) := by
  simp only [State.atHome, hop, rouse_near hnear, tagRead_touch herr]

/-- TTAG's access reads the granule's tag whole and gives it the new one, `.cas` where it was the expected one (R120, R128). -/
theorem atHome_ttag {s : State} {u : Nat} {r : MemReq} {cas : Bool} (hnear : Claim.near s r.loc)
    (herr : mget s.tagErr (r.loc / 1024) 0 = 0) (hop : r.op = .ttag cas) :
    s.atHome u r = .done (tagSwapped (s.touch r.loc) r.loc r.data cas) ((s.tagAt r.loc).setWidth 64) := by
  simp only [State.atHome, hop, rouse_near hnear, tagRead_touch herr, tagSwapped, tagAt_touch]
  split <;> rfl

/-- TTAG and TTAG.CAS swap the tag at their home and write the old one (R128). -/
theorem ttag_ok {s : State} {d a b : BitVec 5} {cas : Bool} {loc : Nat} (ha : Claim.canRead s a) (hb : Claim.canRead s b)
    (hd : Claim.canName s d) (hhome : Claim.TagHome s (Claim.regVal s a) accW loc)
    (htag : tagOk ((Claim.regVal s b).toNat % 2 ^ 16) = true) (hfree : Claim.tagFree s loc) :
    ttag d a b cas s = .ok () (Claim.written (tagSwapped (s.touch loc) loc (Claim.regVal s b) cas) d ((s.tagAt loc).setWidth 64)) := by
  have hok : (!tagOk (bits (Claim.regVal s b) 15 0)) = false := by
    rw [bits_eq_div_mod, Nat.pow_zero, Nat.div_one, htag]; rfl
  have hwait := granuleWait_ok hfree
  obtain ⟨hnear, hword, -, herr⟩ := hfree
  have haccess := blocking_ok (r := { ctx := s.cur, loc := loc, op := .ttag cas, data := Claim.regVal s b, rd := d.toNat
                                      va := Claim.regVal s a, insn := s.insn }) hnear hword (atHome_ttag hnear herr rfl)
  unfold ttag
  rw [bind_ok (needS_ok (sReady_of_canRead hb)), bind_ok (needD_ok hd), bind_ok (rdS_canRead ha), bind_ok (rdS_canRead hb),
    bind_ok (tagHome_ok rfl hhome), bind_ok (trapIf_ok hok ..), bind_ok hwait, bind_get_run, bind_ok haccess, wrS_written]

/-- TGET writes the tag at its home (R129). -/
theorem execTget_ok {s : State} {d a : BitVec 5} {loc : Nat} (ha : Claim.canRead s a) (hd : Claim.canName s d)
    (hhome : Claim.TagHome s (Claim.regVal s a) accR loc) (hfree : Claim.tagFree s loc) :
    execTget d a s =
      .next ((Claim.written ((Claim.begun s (.tget d a)).touch loc) d ((s.tagAt loc).setWidth 64)).retire false) := by
  refine runInstr_begun ?_
  rw [← canRead_begun s (.tget d a)] at ha
  rw [← canName_begun s (.tget d a)] at hd
  rw [← regVal_begun s (.tget d a), ← tagHome_begun s (.tget d a)] at hhome
  rw [← tagFree_begun s (.tget d a)] at hfree
  show _ = EStateM.Result.ok () (Claim.written _ d (((Claim.begun s (.tget d a)).tagAt loc).setWidth 64))
  generalize Claim.begun s (.tget d a) = q at ha hd hhome hfree ⊢
  obtain ⟨hnear, hword, -, herr⟩ := id hfree
  have haccess := blocking_ok (r := { ctx := q.cur, loc := loc, op := .tget, rd := d.toNat, va := Claim.regVal q a, insn := q.insn })
    hnear hword (atHome_tget hnear herr rfl)
  exact (bind_ok (needD_ok hd)).trans <| (bind_ok (rdS_canRead ha)).trans <| (bind_ok (tagHome_ok rfl hhome)).trans <|
    (bind_ok (granuleWait_ok hfree)).trans <| (bind_get_run ..).trans <| (bind_ok haccess).trans (wrS_written ..)

/-- What TTAG and TTAG.CAS leave: the old tag in rd, the tag swapped, the other tags, memory and the other registers as they were
(R128). -/
theorem retire_tagSwapped (s : State) {loc : Nat} (hpad : isPad loc = true) (d : BitVec 5) (old v : Word) (cas : Bool) :
    let t := (Claim.written (tagSwapped (s.touch loc) loc v cas) d old).retire false
    (d.toNat ≠ 0 → (t.ctx s.cur).s d.toNat = old) ∧ (t.tagAt loc).toNat = Claim.tagAfter s loc v cas ∧
      (∀ g, g / 1024 ≠ loc / 1024 → t.tagAt g = s.tagAt g) ∧ t.mem = s.mem ∧ (t.ctx s.cur).pc = s.npc ∧
      (∀ i, i ≠ d.toNat → (t.ctx s.cur).s i = (s.ctx s.cur).s i) := by
  have hctx : (tagSwapped (s.touch loc) loc v cas).ctx s.cur = s.ctx s.cur := by
    rw [State.ctx, tagSwapped_ctxs, touch_ctxs, State.ctx]
  obtain ⟨hpc, hrd, hothers, hmem, htags⟩ := retire_written (tagSwapped (s.touch loc) loc v cas) d old false
  rw [tagSwapped_cur, touch_cur] at hpc hrd hothers
  refine ⟨hrd, ?newTag, fun g hg => ?otherTags, ?memory, ?pc, fun i hi => ?registers⟩
  case newTag =>
    have hafter : Claim.tagAfter (s.touch loc) loc v cas = Claim.tagAfter s loc v cas := by
      simp only [Claim.tagAfter, tagAt_touch]
    rw [State.tagAt, htags, ← hafter]
    exact tagAt_tagSwapped hpad ..
  case otherTags =>
    rw [State.tagAt, htags]
    exact (tagAt_tagSwapped_ne hg ..).trans (tagAt_touch ..)
  case memory => rw [hmem, tagSwapped_mem, touch_mem_of_pad hpad]
  case pc => rw [hpc, tagSwapped_npc, touch_npc]
  case registers => rw [hothers i hi, hctx]

/-- An instruction that runs as TTAG does writes tags as the statements say (R128). -/
theorem tagWrites_of_exec {mk : BitVec 5 → BitVec 5 → BitVec 5 → Instr} {cas : Bool}
    (hexec : ∀ d a b s, exec (mk d a b) s = runInstr (mk d a b) (ttag d a b cas) s) : Claim.TagWrites mk cas := by
  intro s d a b loc ha hb hd hhome hpad htag hfree
  rw [← canRead_begun s (mk d a b)] at ha hb
  rw [← canName_begun s (mk d a b)] at hd
  rw [← regVal_begun s (mk d a b)] at hhome htag
  rw [← tagHome_begun s (mk d a b)] at hhome
  rw [← tagFree_begun s (mk d a b)] at hfree
  refine ⟨_, (hexec ..).trans (runInstr_begun (ttag_ok ha hb hd hhome htag hfree)), ?_⟩
  exact retire_tagSwapped (Claim.begun s (mk d a b)) (decide_eq_true hpad) d _ (Claim.regVal s b) cas

end Sys2Proof.Laws

namespace Sys2Proof.Proofs

open Sys2Proof Sys2Proof.Machine Sys2Proof.Laws

/-- Settles O19: a tag access that nothing holds back is performed at its near home, where it reads the tag whole and, for TTAG,
swaps it; completion moves the pc alone. -/
theorem tagsReadAndWritten : Obligations.TagsReadAndWritten := by
  unfold Obligations.TagsReadAndWritten
  refine ⟨tagWrites_of_exec fun _ _ _ _ => rfl, tagWrites_of_exec fun _ _ _ _ => rfl, fun s d a loc ha hd hhome hfree => ?_⟩
  exact execTget_ok ha hd hhome hfree

end Sys2Proof.Proofs
end
